-- ==== Sys2Proof/Word.lean ====
section
/-! DEFINITION. The words the manual names: 16-bit engine words, 32-bit registers and instructions, 64-bit block time, and the thread identity of R63. -/
namespace Sys2Proof

/-- An 8-bit byte of the host and Postmaster view. -/
abbrev Byte := BitVec 8
/-- A 16-bit engine word. -/
abbrev Word := BitVec 16
/-- A 32-bit register, instruction or letter word. -/
abbrev W32 := BitVec 32
/-- A 64-bit host beat or block time. -/
abbrev W64 := BitVec 64
/-- The 12-bit thread identity: depot [11:7], engine [6:3], thread [2:0] (R63). -/
abbrev Tid := BitVec 12
/-- A register number W0 to W15. -/
abbrev Reg := Fin 16
/-- A condition code of Table 4.12; 15 is reserved. -/
abbrev Cond := Fin 16
/-- The sp field of form C: 0 slice with base, 1 code store, 2 slice absolute, 3 reserved (R114). -/
abbrev Space := Fin 4

end Sys2Proof
end

