-- ==== Sys2Proof/Syntax.lean ====
section
/-! DEFINITION. The commands of the block: one constructor of Instr for each row of opcode_table.json, and the types of their operands. -/
namespace Sys2Proof

/-- The three builds of Table 0.1 (R3). -/
inductive Build | fl128 | fl256 | fl512
deriving DecidableEq, Repr

/-- The agents that reach registers: Postmaster A and B, host secure, host normal and debug (R13, R338, Table 16.2). -/
inductive Agent | pmA | pmB | hostS | hostN | dbg
deriving DecidableEq, Repr

/-- Who reaches the DBG window and the debug registers of the SEC unit: the Postmaster, the two host agents, the TAP (R418, R419, R423). -/
inductive DbgSrc | pm | hostS | hostN | tap
deriving DecidableEq, Repr

/-- Operand b of the accumulator instructions: a register, or the slice word at APn (m = 1, R117). -/
inductive MulB | reg (b : Reg) | mem (n : Fin 4)
deriving DecidableEq, Repr

/-- The exchange operand XBn + W[q] + k (R124). For ACQ, k[15] is try. -/
structure XAddr where
  n : Fin 2
  q : Option Reg
  k : Word
deriving DecidableEq, Repr

/-- The target word of SENDE: the field k, or W[q] when s[16] is 1 (Table 4.15). -/
inductive TgtOp | imm (k : Word) | reg (q : Reg)
deriving DecidableEq, Repr

/-- The index of TAKE: k[3:0], or W[q] (Table 4.15). -/
inductive TakeIdx | imm (i : Fin 16) | reg (q : Reg)
deriving DecidableEq, Repr

/-- The time operand of PEDGE: a postmark register with an optional added register, or a BT quad (R130). -/
inductive EdgeTime | pm (n : Fin 2) (off : Option Reg) | bt (q : Reg)
deriving DecidableEq, Repr

/-- A chute within a depot: an engine chute or a long chute (R126). -/
inductive ChuteRef | eng (e c : Nat) | long (l : Nat)
deriving DecidableEq, Repr

/-- A frame at the end of its reception: its bytes from destination address to FCS, whether the FCS is good, its timestamp in BT, and whether the receive FIFO was full (R229, R230, R238). -/
structure RxFrame where
  bytes : List Byte
  fcsOk : Bool
  ts : Nat
  fifoFull : Bool
deriving DecidableEq, Repr

/-- Units that power states switch (R403). -/
inductive PwrUnit | depot (n : Nat) | bank (b : Nat) | lane (l : Nat)
deriving DecidableEq, Repr

/-- The enable mask that a write in Trim changes (Table 15.3). -/
inductive TrimMask | depots | banksLo | banksHi
deriving DecidableEq, Repr

/-- The static inputs sampled at the release of block reset, and the build (R432, Table 0.1). -/
structure Straps where
  build : Build
  twinCfg : W32
  pmTwin : Bool
  lifecycle : BitVec 2
  frankHash : BitVec 384
  bootList : BitVec 16
deriving DecidableEq, Repr

/-- What the ROM reads of one slot: header bytes 0 to 255, commit and retire words, body, slot stride, and error responses (R364, R367). -/
structure SlotData where
  hdr : List Byte
  commit : W32
  retire : W32
  body : List Byte
  stride : Nat
  addr : Nat
  hdrErr : Bool
  bodyErr : Bool
deriving DecidableEq, Repr

/-- The slots of one boot source, in slot order, as host storage delivers them. -/
structure BootSource where
  code : Nat
  slots : List SlotData
deriving DecidableEq, Repr

/-- Bytes delivered by the host manager port for a parcel, plug-in or image record, or an error response (R441). -/
structure HostRead where
  bytes : List Byte
  err : Bool
deriving DecidableEq, Repr

/-- A load or store of a Postmaster hart at an address as the program gives it, of 1, 2 or 4 bytes; sgn says that a load extends the sign (R343, R347). -/
structure PmAccess where
  store : Bool
  size : Nat
  sgn : Bool
  addr : W32
  data : W32
  rd : Fin 32
deriving DecidableEq, Repr

/-- The RV32A operations. -/
inductive AmoOp | swap | add | xor | and | or | min | max | minu | maxu
deriving DecidableEq, Repr

/-- The mode CSRs of R353 other than PMDET. -/
inductive ModeCsr | mstatus | sstatus | mie | sie | mideleg | medeleg | mtvec | stvec | satp
deriving DecidableEq, Repr

/-- The fields of a Sync's header that the servo reads: the domain, and the interval as a power of two seconds (R253, R254). -/
structure PtpHead where
  dom : Nat
  logInterval : Int
deriving DecidableEq, Repr

/-- A stream packet as a receive thread sees it: sequence number, RTP timestamp or the low 32 bits of the AAF presentation time, sample count, flow-ring slot, and the AAF tv bit (R256, R257). -/
structure AudioPacket where
  seq : Word
  ts : W32
  n : Nat
  slot : Nat
  tv : Bool
deriving DecidableEq, Repr

/-- Why a channel's gates stop (R291). -/
inductive StopCause | status | gate | overload
deriving DecidableEq, Repr

/-- The measurements of one supervision window or round step of a channel (R295, R302): in-phase and quadrature sums of the streams V, leg A and leg B, V and a return voltage in mV and currents in µA; insulation in kΩ; DC probe currents of leg A (or of the fed leg of a loop) and leg B in µA; sweep-point impedances in mΩ of leg A and then leg B; the streams (bits 0 to 3: V, A, B, E) that a pattern unit found stuck. -/
structure LineMeas where
  v : Int × Int
  a : Int × Int
  b : Int × Int
  insul : Nat
  iPos : Nat
  iNeg : Nat
  iPosB : Nat
  iNegB : Nat
  sweep : List Nat
  stuck : Nat
deriving DecidableEq, Repr

/-- The clocks the host's clock controller may change (R429, R431). -/
inductive ClockName | eclk | fclk | pclk | hclk
deriving DecidableEq, Repr

/-- The commands, one for each row of the table, in its order. -/
inductive Instr where
  /-- ADD (R111). -/
  | add (t : Tid) (d a b : Reg)
  /-- ADC (R111). -/
  | adc (t : Tid) (d a b : Reg)
  /-- SUB (R111). -/
  | sub (t : Tid) (d a b : Reg)
  /-- SBB (R111). -/
  | sbb (t : Tid) (d a b : Reg)
  /-- CMP (R111). -/
  | cmp (t : Tid) (a b : Reg)
  /-- NEG (R111). -/
  | neg (t : Tid) (d a : Reg)
  /-- ABS (R111). -/
  | abs (t : Tid) (d a : Reg)
  /-- MIN (R111). -/
  | min (t : Tid) (d a b : Reg)
  /-- MAX (R111). -/
  | max (t : Tid) (d a b : Reg)
  /-- AND (R111). -/
  | and (t : Tid) (d a b : Reg)
  /-- OR (R111). -/
  | or (t : Tid) (d a b : Reg)
  /-- XOR (R111). -/
  | xor (t : Tid) (d a b : Reg)
  /-- ANDN (R111). -/
  | andn (t : Tid) (d a b : Reg)
  /-- NOT (R111). -/
  | not (t : Tid) (d a : Reg)
  /-- TST (R111). -/
  | tst (t : Tid) (a b : Reg)
  /-- MOV (R111). -/
  | mov (t : Tid) (d a : Reg)
  /-- SHL (R112). -/
  | shl (t : Tid) (d a b : Reg)
  /-- SHR (R112). -/
  | shr (t : Tid) (d a b : Reg)
  /-- SAR (R112). -/
  | sar (t : Tid) (d a b : Reg)
  /-- ROL (R112). -/
  | rol (t : Tid) (d a b : Reg)
  /-- PAR (R111). -/
  | par (t : Tid) (d a : Reg)
  /-- BREV (R112). -/
  | brev (t : Tid) (d a : Reg) (n : Fin 16)
  /-- CLZ (R111). -/
  | clz (t : Tid) (d a : Reg)
  /-- SWAPB (R111). -/
  | swapb (t : Tid) (d a : Reg)
  /-- ADDI (R113). -/
  | addi (t : Tid) (d a : Reg) (imm : Word)
  /-- CMPI (R113). -/
  | cmpi (t : Tid) (a : Reg) (imm : Word)
  /-- ANDI (R113). -/
  | andi (t : Tid) (d a : Reg) (imm : Word)
  /-- ORI (R113). -/
  | ori (t : Tid) (d a : Reg) (imm : Word)
  /-- XORI (R113). -/
  | xori (t : Tid) (d a : Reg) (imm : Word)
  /-- MOVI (R113). -/
  | movi (t : Tid) (d : Reg) (imm : Word)
  /-- TSTI (R113). -/
  | tsti (t : Tid) (a : Reg) (imm : Word)
  /-- SHLI (R113). -/
  | shli (t : Tid) (d a : Reg) (n : Fin 16)
  /-- SHRI (R113). -/
  | shri (t : Tid) (d a : Reg) (n : Fin 16)
  /-- SARI (R113). -/
  | sari (t : Tid) (d a : Reg) (n : Fin 16)
  /-- BSET (R113). -/
  | bset (t : Tid) (d a : Reg) (n : Fin 16)
  /-- BCLR (R113). -/
  | bclr (t : Tid) (d a : Reg) (n : Fin 16)
  /-- BTST (R113). -/
  | btst (t : Tid) (a : Reg) (n : Fin 16)
  /-- SEL (R113). -/
  | sel (t : Tid) (cc : Cond) (d a b : Reg)
  /-- LD (R114). -/
  | ld (t : Tid) (r b : Reg) (sp : Space) (off : Word)
  /-- ST (R114). -/
  | st (t : Tid) (r b : Reg) (sp : Space) (off : Word)
  /-- LDD (R114). -/
  | ldd (t : Tid) (r b : Reg) (sp : Space) (off : Word)
  /-- STD (R114). -/
  | std (t : Tid) (r b : Reg) (sp : Space) (off : Word)
  /-- LDP (R115). -/
  | ldp (t : Tid) (r : Reg) (n : Fin 4) (sp : Space) (stp : Word)
  /-- STP (R115). -/
  | stp (t : Tid) (r : Reg) (n : Fin 4) (sp : Space) (stp : Word)
  /-- PUSH (R114). -/
  | push (t : Tid) (r : Reg)
  /-- POP (R114). -/
  | pop (t : Tid) (r : Reg)
  /-- MUL (R117). -/
  | mul (t : Tid) (acc : Fin 2) (a : Reg) (b : MulB)
  /-- MAC (R117). -/
  | mac (t : Tid) (acc : Fin 2) (a : Reg) (b : MulB)
  /-- MSU (R117). -/
  | msu (t : Tid) (acc : Fin 2) (a : Reg) (b : MulB)
  /-- MULU (R117). -/
  | mulu (t : Tid) (acc : Fin 2) (a : Reg) (b : MulB)
  /-- MACD (R117). -/
  | macd (t : Tid) (acc : Fin 2) (a : Reg) (b : MulB)
  /-- MSUD (R117). -/
  | msud (t : Tid) (acc : Fin 2) (a : Reg) (b : MulB)
  /-- CLRA (R117). -/
  | clra (t : Tid) (acc : Fin 2)
  /-- LDA (R117). -/
  | lda (t : Tid) (acc : Fin 2) (a : Reg)
  /-- STA (R118). -/
  | sta (t : Tid) (acc : Fin 2) (a : Reg) (pair : Bool)
  /-- SHA (R117). -/
  | sha (t : Tid) (acc : Fin 2) (n : BitVec 6)
  /-- ADDA (R117). -/
  | adda (t : Tid) (acc : Fin 2)
  /-- SUBA (R117). -/
  | suba (t : Tid) (acc : Fin 2)
  /-- NEGA (R117). -/
  | nega (t : Tid) (acc : Fin 2)
  /-- ABSA (R117). -/
  | absa (t : Tid) (acc : Fin 2)
  /-- DIV (R119). -/
  | div (t : Tid) (d a b : Reg)
  /-- DIVL (R119). -/
  | divl (t : Tid) (d a b : Reg)
  /-- MVS (R120). -/
  | mvs (t : Tid) (n : BitVec 6) (a : Reg)
  /-- MVF (R120). -/
  | mvf (t : Tid) (d : Reg) (n : BitVec 6)
  /-- B (R121). -/
  | b (t : Tid) (cc : Cond) (lx : Bool) (target : Word)
  /-- CALL (R121). -/
  | call (t : Tid) (target : Word)
  /-- JMPR (R121). -/
  | jmpr (t : Tid) (a : Reg) (lx : Bool)
  /-- CALLR (R121). -/
  | callr (t : Tid) (a : Reg)
  /-- RET (R121). -/
  | ret (t : Tid) (lx : Bool)
  /-- LOOP (R122). -/
  | loop (t : Tid) (n : BitVec 10) (e : Word)
  /-- LOOPR (R122). -/
  | loopr (t : Tid) (c : Reg) (e : Word)
  /-- NOP (R121). -/
  | nop (t : Tid)
  /-- BRK (R121). -/
  | brk (t : Tid)
  /-- XLD (R124). -/
  | xld (t : Tid) (p : Reg) (x : XAddr)
  /-- XST (R124). -/
  | xst (t : Tid) (p : Reg) (x : XAddr)
  /-- XLDD (R124). -/
  | xldd (t : Tid) (p : Reg) (x : XAddr)
  /-- XSTD (R124). -/
  | xstd (t : Tid) (p : Reg) (x : XAddr)
  /-- ACQ (R125). -/
  | acq (t : Tid) (p : Reg) (x : XAddr)
  /-- REL (R125). -/
  | rel (t : Tid) (x : XAddr)
  /-- SEND (R127). -/
  | send (t : Tid) (p : Reg)
  /-- SENDE (R134). -/
  | sende (t : Tid) (tgt : TgtOp) (p : Reg)
  /-- RECV (R138). -/
  | recv (t : Tid) (p : Reg) (long : Bool) (ch : BitVec 8) (timed : Bool)
  /-- TAKE (R127). -/
  | take (t : Tid) (p : Reg) (i : TakeIdx)
  /-- SETPM (R128). -/
  | setpm (t : Tid) (n : Fin 2) (p : Reg)
  /-- GETPM (R128). -/
  | getpm (t : Tid) (n : Fin 2) (p : Reg)
  /-- PMRD (R129). -/
  | pmrd (t : Tid) (p : Reg) (ref : Fin 8) (sel : Fin 16)
  /-- ADDPM (R128). -/
  | addpm (t : Tid) (n : Fin 2) (cyc : Bool) (imm : Word)
  /-- WAITP (R52). -/
  | waitp (t : Tid) (n : Fin 2)
  /-- PEDGE (R57). -/
  | pedge (t : Tid) (p : Reg) (at' : EdgeTime) (level : Bool)
  /-- PFLUSH (R210). -/
  | pflush (t : Tid) (p : Reg)
  /-- PSER (R213). -/
  | pser (t : Tid) (p q : Reg)
  /-- PDES (R215). -/
  | pdes (t : Tid) (p q : Reg)
  /-- PRD (R202). -/
  | prd (t : Tid) (p q : Reg)
  /-- PWR (R205). -/
  | pwr (t : Tid) (p q : Reg)
  /-- CRCS (R132). -/
  | crcs (t : Tid) (p q : Reg) (byte : Bool)
  /-- CRCW (R133). -/
  | crcw (t : Tid) (p q : Reg)
  /-- EXACT_OP_COMPLETE (R72). -/
  | exactOpComplete (t : Tid)
  /-- EXCHANGE_RESPONSE (R72). -/
  | exchangeResponse (t : Tid)
  /-- SEAL_GRANT (R125). -/
  | sealGrant (t : Tid)
  /-- REL_ACK (R125). -/
  | relAck (t : Tid)
  /-- SENDE_QUEUED_COMMIT (R137). -/
  | sendeQueuedCommit (d e c : Nat)
  /-- RECV_DELIVERY (R138). -/
  | recvDelivery (d : Nat) (ch : ChuteRef)
  /-- RECV_TIMEOUT (R144). -/
  | recvTimeout (t : Tid)
  /-- SENDE_TIMEOUT (R145). -/
  | sendeTimeout (t : Tid)
  /-- WAITP_RESUME (R52). -/
  | waitpResume (t : Tid)
  /-- QUEUE_ROOM (R209). -/
  | queueRoom (t : Tid)
  /-- PDES_WORD (R215). -/
  | pdesWord (t : Tid)
  /-- START (R78). -/
  | start (ag : Agent) (t : Tid) (pc : Word)
  /-- STOP (R79). -/
  | stop (ag : Agent) (t : Tid)
  /-- STOP_COMPLETE (R79). -/
  | stopComplete (t : Tid)
  /-- RESUME (R78). -/
  | resume (ag : Agent) (t : Tid)
  /-- ABORT (R80). -/
  | abort (ag : Agent) (t : Tid)
  /-- DEPOT_ENABLE (R98). -/
  | depotEnable (ag : Agent) (d : Nat)
  /-- DEPOT_DRAIN (R97). -/
  | depotDrain (ag : Agent) (d : Nat)
  /-- DRAIN_COMPLETE (R97). -/
  | drainComplete (d : Nat)
  /-- DRAIN_TIMEOUT (R97). -/
  | drainTimeout (d : Nat)
  /-- DEP_SLICE_WRITE (R82). -/
  | depSliceWrite (ag : Agent) (t : Tid) (v : W32)
  /-- DEP_XSEL_WRITE (R71). -/
  | depXselWrite (ag : Agent) (d : Nat) (hi : Bool) (v : W32)
  /-- DEP_LD_DATA_WRITE (R87). -/
  | depLdDataWrite (ag : Agent) (d : Nat) (v : W32)
  /-- DEP_LD_DATA_READ (R87). -/
  | depLdDataRead (ag : Agent) (d : Nat)
  /-- DEPOT_STALL (R94). -/
  | depotStall (d : Nat)
  /-- BLOCK_STALL (R95). -/
  | blockStall
  /-- BOOST_START (R91). -/
  | boostStart (t : Tid)
  /-- BOOST_END (R91). -/
  | boostEnd (t : Tid)
  /-- TWIN_MISMATCH (R387). -/
  | twinMismatch (d pair group : Nat) (dataUe : Bool)
  /-- PM_TWIN_MISMATCH (R392). -/
  | pmTwinMismatch (group : Nat)
  /-- UNIT_MESSAGE_COMMIT (R143). -/
  | unitMessageCommit
  /-- LONG_CHUTE_RESERVATION (R140). -/
  | longChuteReservation (d : Nat)
  /-- LONG_CHUTE_GRANT (R140). -/
  | longChuteGrant (t : Tid)
  /-- LONG_CHUTE_DELIVERY (R142). -/
  | longChuteDelivery (d : Nat)
  /-- CHUTE_DL_POP (R147). -/
  | chuteDlPop (ag : Agent) (d : Nat)
  /-- DEAD_LETTER_MOVE (R147). -/
  | deadLetterMove (d : Nat)
  /-- HOST_READ (R437). -/
  | hostRead (id : BitVec 6) (sec : Bool) (addr : BitVec 25) (size : BitVec 2) (len : BitVec 3)
  /-- HOST_WRITE (R437). -/
  | hostWrite (id : BitVec 6) (sec : Bool) (addr : BitVec 25) (size : BitVec 2) (beats : List (W64 × BitVec 8))
  /-- SORTER_GRANT (R175). -/
  | sorterGrant (tg : Nat)
  /-- OVERDUE_ENTRY (R176). -/
  | overdueEntry (tg : Nat)
  /-- STARVE_WINDOW_RESTART (R178). -/
  | starveWindowRestart
  /-- HOUSE_INSERT (R180). -/
  | houseInsert (tg : Nat)
  /-- ECC_WRITE_BACK (R152). -/
  | eccWriteBack (pw : Nat)
  /-- SCRUB_READ (R153). -/
  | scrubRead
  /-- SRT_COMMIT (R182). -/
  | srtCommit (ag : Agent)
  /-- SEAL_ALIAS_ACQ (R159). -/
  | sealAliasAcq (ag : Agent)
  /-- SEAL_ALIAS_REL (R160). -/
  | sealAliasRel (ag : Agent)
  /-- SEAL_ALIAS_ADDR_WRITE (R159). -/
  | sealAliasAddrWrite (ag : Agent) (v : W32)
  /-- SEAL_FORCE (R165). -/
  | sealForce (ag : Agent) (v : W32)
  /-- SEAL_LEASE_EXPIRY (R162). -/
  | sealLeaseExpiry (addr : Nat)
  /-- PMK_BT_LO_READ (R31). -/
  | pmkBtLoRead (ag : Agent)
  /-- PMK_PTP_NS_READ (R31). -/
  | pmkPtpNsRead (ag : Agent)
  /-- PMK_POS_LO_READ (R31). -/
  | pmkPosLoRead (ag : Agent) (k : Nat)
  /-- PMK_CONV_START (R51). -/
  | pmkConvStart (ag : Agent) (hi : W32)
  /-- REF_ENABLE (R62). -/
  | refEnable (ag : Agent) (k : Nat) (v : W32)
  /-- REF_DISABLE (R62). -/
  | refDisable (ag : Agent) (k : Nat) (v : W32)
  /-- MAINS_CROSSING (R450). -/
  | mainsCrossing (k : Nat) (rising : Bool) (t1 t2 : Nat)
  /-- CROSSING_WINDOW_END (R39): of the predicted crossing number c of tracker k. -/
  | crossingWindowEnd (k c : Nat)
  /-- HOLDOVER_EXPIRY (R41). -/
  | holdoverExpiry (k : Nat)
  /-- REF_EDGE (R47). -/
  | refEdge (k : Nat) (tx : Nat)
  /-- PTP_RATE_WRITE (R44). -/
  | ptpRateWrite (ag : Agent) (v : W32)
  /-- LOAD_TIME (R45). -/
  | loadTime (ag : Agent)
  /-- APPLY_STEP (R44). -/
  | applyStep (ag : Agent)
  /-- MARK_LOCKED (R45). -/
  | markLocked (ag : Agent)
  /-- PTP_WATCHDOG_EXPIRY (R46). -/
  | ptpWatchdogExpiry
  /-- POSTMARK_ALARM (R60). -/
  | postmarkAlarm
  /-- PIN_OWN_WRITE (R191). -/
  | pinOwnWrite (ag : Agent) (n : Nat) (v : W32)
  /-- PIN_FUNC_WRITE (R193). -/
  | pinFuncWrite (ag : Agent) (n : Nat) (v : W32)
  /-- HANDOVER_TAKEOVER (R193). -/
  | handoverTakeover (n : Nat)
  /-- PIN_ELEC_WRITE (R199). -/
  | pinElecWrite (ag : Agent) (n : Nat) (v : W32)
  /-- PIN_GW_WRITE (R204). -/
  | pinGwWrite (ag : Agent) (mask : Word) (size : BitVec 2) (v : W32)
  /-- EDGE_ENTRY (R206). -/
  | edgeEntry (n : Nat)
  /-- EDGE_APPLY (R207). -/
  | edgeApply (n : Nat)
  /-- SER_WORD_BOUNDARY (R213). -/
  | serWordBoundary (n : Nat)
  /-- DES_WORD (R215). -/
  | desWord (n : Nat) (w : Word)
  /-- CAPTURE_EDGE (R221). -/
  | captureEdge (n : Nat) (level : Bool)
  /-- PATTERN_EVENT (R222). -/
  | patternEvent (u : Nat) (leave : Bool) (levels : Word)
  /-- PIN_MISMATCH (R203). -/
  | pinMismatch (n : Nat)
  /-- BCK_ENABLE (R211). -/
  | bckEnable (ag : Agent) (k : Nat)
  /-- BCK_DISABLE (R212). -/
  | bckDisable (ag : Agent) (k : Nat)
  /-- PIN_RING_ENABLE (R218). -/
  | pinRingEnable (ag : Agent) (k : Nat) (v : W32)
  /-- RX_FRAME (R238). -/
  | rxFrame (l : Nat) (f : RxFrame)
  /-- TX_POLL (R244). -/
  | txPoll (l : Nat)
  /-- TX_LAUNCH (R245). -/
  | txLaunch (l q : Nat)
  /-- TX_FRAME_END (R246). -/
  | txFrameEnd (l : Nat) (underrun : Bool)
  /-- LINK_DOWN (R251). -/
  | linkDown (l : Nat)
  /-- LINK_UP (R251). -/
  | linkUp (l : Nat)
  /-- LANE_START (R250). -/
  | laneStart (ag : Agent) (l : Nat)
  /-- LANE_STOP (R250). -/
  | laneStop (ag : Agent) (l : Nat)
  /-- LANE_OFF (R250). -/
  | laneOff (l : Nat)
  /-- CLS_WRITE (R235). -/
  | clsWrite (ag : Agent)
  /-- CLS_READ (R235). -/
  | clsRead (ag : Agent)
  /-- LAN_RING_ENABLE (R237). -/
  | lanRingEnable (ag : Agent) (k : Nat) (v : W32)
  /-- TXQ_ENABLE (R243). -/
  | txqEnable (ag : Agent) (l q : Nat) (v : W32)
  /-- PRP_FORGET (R248). -/
  | prpForget (p : Nat) (mac : BitVec 48)
  /-- IRQ_MASK_SET (R443). -/
  | irqMaskSet (ag : Agent) (hi : Bool) (v : W32)
  /-- IRQ_MASK_CLR (R443). -/
  | irqMaskClr (ag : Agent) (hi : Bool) (v : W32)
  /-- IRQ_TEST_SET (R443). -/
  | irqTestSet (ag : Agent) (hi : Bool) (v : W32)
  /-- IRQ_TEST_CLR (R443). -/
  | irqTestClr (ag : Agent) (hi : Bool) (v : W32)
  /-- DB_H2P_SET (R317). -/
  | dbH2pSet (ag : Agent) (v : W32)
  /-- DB_H2P_CLR (R316). -/
  | dbH2pClr (ag : Agent) (v : W32)
  /-- DB_P2H_SET (R317). -/
  | dbP2hSet (ag : Agent) (v : W32)
  /-- DB_P2H_CLR (R316). -/
  | dbP2hClr (ag : Agent) (v : W32)
  /-- DL_SET (R316). -/
  | dlSet (ag : Agent) (v : W32)
  /-- DL_CLR (R316). -/
  | dlClr (ag : Agent) (v : W32)
  /-- IRQ_SAFE_SW (R398). -/
  | irqSafeSw (ag : Agent) (v : W32)
  /-- IRQ_WDOG_WRITE (R396). -/
  | irqWdogWrite (ag : Agent) (v : W32)
  /-- WDOG_KICK (R396). -/
  | wdogKick (ag : Agent) (v : W32)
  /-- WATCHDOG_EXPIRY (R396). -/
  | watchdogExpiry
  /-- PM_RESTART (R393). -/
  | pmRestart (ag : Agent) (v : W32)
  /-- PWR_CMD_RUN (R401). -/
  | pwrCmdRun (ag : Agent)
  /-- PWR_CMD_TRIM (R401). -/
  | pwrCmdTrim (ag : Agent)
  /-- PWR_CMD_VIGIL (R401). -/
  | pwrCmdVigil (ag : Agent)
  /-- PWR_CMD_HOLD (R405). -/
  | pwrCmdHold (ag : Agent)
  /-- TRIM_MASK_WRITE (R401). -/
  | trimMaskWrite (ag : Agent) (m : TrimMask) (v : W32)
  /-- UNIT_POWER_OFF (R403). -/
  | unitPowerOff (u : PwrUnit)
  /-- UNIT_CLEAR_DONE (R404). -/
  | unitClearDone (u : PwrUnit)
  /-- HOLD_ENTERED (R405). -/
  | holdEntered
  /-- WAKE (R406). -/
  | wake (src : Fin 4)
  /-- PM_RETENTION_EXIT (R406). -/
  | pmRetentionExit
  /-- POWER_OFF (R408). -/
  | powerOff
  /-- ROM_LOCK (R416). -/
  | romLock (ag : Agent) (v : W32)
  /-- SEC_DOMAIN_WRITE (R413). -/
  | secDomainWrite (ag : Agent) (off : Nat) (v : W32)
  /-- IKEY_WRITE (R415). -/
  | ikeyWrite (ag : Agent) (i : Nat) (v : W32)
  /-- DBG_CHALLENGE_REQ (R423). -/
  | dbgChallengeReq (src : DbgSrc) (v : W32)
  /-- DBG_RESPONSE_WRITE (R423). -/
  | dbgResponseWrite (src : DbgSrc) (i : Nat) (v : W32)
  /-- DBG_GRANT_OK (R423). -/
  | dbgGrantOk (ag : Agent)
  /-- DBG_GRANT_FAIL (R423). -/
  | dbgGrantFail (ag : Agent)
  /-- ZEROISATION_DONE (R424). -/
  | zeroisationDone
  /-- AES_GO (R417). -/
  | aesGo (ag : Agent)
  /-- AES_DONE (R417). -/
  | aesDone
  /-- DBG_LEVEL_WRITE (R419). -/
  | dbgLevelWrite (src : DbgSrc) (v : W32)
  /-- DBG_CTL_WAKE (R406). -/
  | dbgCtlWake (src : DbgSrc)
  /-- DBG_HALT (R421). -/
  | dbgHalt (src : DbgSrc) (t : Tid)
  /-- DBG_RESUME (R421). -/
  | dbgResume (src : DbgSrc) (t : Tid)
  /-- DBG_STEP (R421). -/
  | dbgStep (src : DbgSrc) (t : Tid)
  /-- DBG_PM_HALT (R420). -/
  | dbgPmHalt (src : DbgSrc) (h : Nat)
  /-- DBG_PM_RESUME (R420). -/
  | dbgPmResume (src : DbgSrc) (h : Nat)
  /-- DBG_PM_STEP (R420). -/
  | dbgPmStep (src : DbgSrc) (h : Nat)
  /-- DBG_TREG_ACCESS (R421). -/
  | dbgTregAccess (src : DbgSrc) (i : Nat) (w : Option W32)
  /-- DBG_SLICE_ACCESS (R420). -/
  | dbgSliceAccess (src : DbgSrc) (a : Nat) (w : Option W32)
  /-- DBG_CODE_DATA_READ (R420). -/
  | dbgCodeDataRead (src : DbgSrc)
  /-- TRACE_ENABLE (R422). -/
  | traceEnable (src : DbgSrc) (v : W32)
  /-- TRACE_SAMPLE (R422). -/
  | traceSample
  /-- TAP_DBGACC (R418). -/
  | tapDbgacc (op : BitVec 2) (off data : W32)
  /-- TAP_RESET (R418). -/
  | tapReset
  /-- BLOCK_RESET (R433). -/
  | blockReset
  /-- BLOCK_RESET_RELEASE (R433). -/
  | blockResetRelease (st : Straps)
  /-- DFT_MODE (R428). -/
  | dftMode (on : Bool)
  /-- BOOT_SELFTEST (R394). -/
  | bootSelftest (caught : BitVec 24)
  /-- BOOT_GO (R370). -/
  | bootGo (ag : Agent) (v : W32)
  /-- BOOT_SELECT (R368). -/
  | bootSelect (src : List BootSource)
  /-- DEP_RESET (R434). -/
  | depReset (d : Nat)
  /-- DEP_RESET_RELEASE (R434). -/
  | depResetRelease (d : Nat)
  /-- LANE_RESET (R436). -/
  | laneReset (l : Nat)
  /-- XFER_GO (R378). -/
  | xferGo (ag : Agent) (d : Nat) (v : W32)
  /-- XFER_ABORT (R380). -/
  | xferAbort (ag : Agent) (d : Nat)
  /-- XFER_CODE_DONE (R378). -/
  | xferCodeDone (d : Nat)
  /-- XFER_FREEZE (R378). -/
  | xferFreeze (d : Nat)
  /-- XFER_FREEZE_END (R378). -/
  | xferFreezeEnd (d : Nat)
  /-- XFER_TIMEOUT (R378). -/
  | xferTimeout (d : Nat)
  /-- HM_WIN_WRITE (R440). -/
  | hmWinWrite (ag : Agent) (v : W32)
  /-- HM_RESPONSE (R441). -/
  | hmResponse (id : BitVec 3) (data : List Byte) (err : Bool)
  /-- PM_INTERRUPT (R356). -/
  | pmInterrupt (h : Nat)
  /-- PM_TIMER_COMPARE (R341). -/
  | pmTimerCompare (h : Nat)
  /-- PM_UNALIGNED_ACCESS (R347). -/
  | pmUnalignedAccess (h : Nat) (a : PmAccess)
  /-- PM_LR (R342). -/
  | pmLr (h : Nat) (rd : Fin 32) (addr : W32)
  /-- PM_SC (R342). -/
  | pmSc (h : Nat) (rd : Fin 32) (addr v : W32)
  /-- PM_AMO (R342). -/
  | pmAmo (h : Nat) (op : AmoOp) (rd : Fin 32) (addr v : W32)
  /-- PM_FENCE_I (R352). -/
  | pmFenceI (h : Nat)
  /-- PM_MODE_CSR_WRITE (R353). -/
  | pmModeCsrWrite (h : Nat) (c : ModeCsr) (v : W32)
  /-- PMDET_WRITE (R354). -/
  | pmdetWrite (h : Nat) (v : W32)
  /-- PMDCINV_WRITE (R344). -/
  | pmdcinvWrite (h : Nat)
  /-- RC_REGISTER_READ (R7). -/
  | rcRegisterRead (ag : Agent) (off : Nat)
  /-- REGISTER_WRITE (R7). -/
  | registerWrite (ag : Agent) (off : Nat) (v : W32)
  /-- LETTER_SERVE (R326). -/
  | letterServe (n : Nat)
  /-- LETTER_POLL (R318). -/
  | letterPoll
  /-- REPLY_TIMEOUT (R327). -/
  | replyTimeout (n : Nat)
  /-- SYS_IDENT (R329). -/
  | sysIdent (n : Nat)
  /-- SYS_PING (R329). -/
  | sysPing (n : Nat)
  /-- SYS_LB_ASSIGN (R329). -/
  | sysLbAssign (n : Nat)
  /-- SYS_REPORT_BOX (R329). -/
  | sysReportBox (n : Nat)
  /-- SYS_PSTATE (R402). -/
  | sysPstate (n : Nat)
  /-- CFG_SET (R329). -/
  | cfgSet (n : Nat)
  /-- CFG_GET (R329). -/
  | cfgGet (n : Nat)
  /-- CFG_REGION (R329). -/
  | cfgRegion (n : Nat)
  /-- CFG_COMMIT (R329). -/
  | cfgCommit (n : Nat)
  /-- DEPOT_PARCEL (R334). -/
  | depotParcel (n : Nat) (img : HostRead)
  /-- DEPOT_TSTART (R329). -/
  | depotTstart (n : Nat)
  /-- DEPOT_TCTL (R329). -/
  | depotTctl (n : Nat)
  /-- DEPOT_PLACE (R282). -/
  | depotPlace (n : Nat)
  /-- DEPOT_SPARE (R329). -/
  | depotSpare (n : Nat)
  /-- DEPOT_TAKEOVER (R378). -/
  | depotTakeover (n : Nat)
  /-- DEPOT_DSTATUS (R329). -/
  | depotDstatus (n : Nat)
  /-- PIN_GRANT (R329). -/
  | pinGrant (n : Nat)
  /-- PIN_RECLAIM (R329). -/
  | pinReclaim (n : Nat)
  /-- PIN_PSTAT (R329). -/
  | pinPstat (n : Nat)
  /-- ZONE_ZPARAM (R330). -/
  | zoneZparam (n : Nat)
  /-- ZONE_ROUTE (R330). -/
  | zoneRoute (n : Nat)
  /-- ZONE_EQ (R270). -/
  | zoneEq (n : Nat)
  /-- ZONE_EVAC_MAP (R330). -/
  | zoneEvacMap (n : Nat)
  /-- ZONE_STORE_WRITE (R330). -/
  | zoneStoreWrite (n : Nat)
  /-- ZONE_STORE_SEAL (R273). -/
  | zoneStoreSeal (n : Nat)
  /-- ZONE_STORE_OPEN (R330). -/
  | zoneStoreOpen (n : Nat)
  /-- ZONE_ALARM (R262). -/
  | zoneAlarm (n : Nat)
  /-- ZONE_ZSTATUS (R330). -/
  | zoneZstatus (n : Nat)
  /-- STREAM_IN (R264). -/
  | streamIn (n : Nat)
  /-- STREAM_OUT (R330). -/
  | streamOut (n : Nat)
  /-- STREAM_REMOVE (R330). -/
  | streamRemove (n : Nat)
  /-- STREAM_SSTATUS (R330). -/
  | streamSstatus (n : Nat)
  /-- LINE_CHANNEL (R331). -/
  | lineChannel (n : Nat)
  /-- LINE_PINS (R331). -/
  | linePins (n : Nat)
  /-- LINE_BASELINE (R296). -/
  | lineBaseline (n : Nat)
  /-- LINE_RESTART (R292). -/
  | lineRestart (n : Nat)
  /-- LINE_RESTORE (R300). -/
  | lineRestore (n : Nat)
  /-- LINE_ROUND (R301). -/
  | lineRound (n : Nat)
  /-- LINE_ROUND_STOP (R331). -/
  | lineRoundStop (n : Nat)
  /-- POWER_SUPPLY (R331). -/
  | powerSupply (n : Nat)
  /-- POWER_SUPPLY_PINS (R331). -/
  | powerSupplyPins (n : Nat)
  /-- POWER_SPSTAT (R331). -/
  | powerSpstat (n : Nat)
  /-- PMK_TRACKER (R382). -/
  | pmkTracker (n : Nat)
  /-- PMK_USERREF (R331). -/
  | pmkUserref (n : Nat)
  /-- PMK_PTP (R253). -/
  | pmkPtp (n : Nat)
  /-- PMK_RSTAT (R331). -/
  | pmkRstat (n : Nat)
  /-- UPDATE_STAGE (R376). -/
  | updateStage (n : Nat) (img : HostRead)
  /-- UPDATE_COMMIT (R376). -/
  | updateCommit (n : Nat) (readBack : W32)
  /-- UPDATE_SWAP (R376). -/
  | updateSwap (n : Nat) (accepts : Bool)
  /-- UPDATE_CONFIRM (R376). -/
  | updateConfirm (n : Nat) (readBack : W32)
  /-- UPDATE_USTATUS (R333). -/
  | updateUstatus (n : Nat)
  /-- DIAG_DL_READ (R336). -/
  | diagDlRead (n : Nat)
  /-- DIAG_COUNTERS (R333). -/
  | diagCounters (n : Nat)
  /-- SEC_KEY (R333). -/
  | secKey (n : Nat)
  /-- SEC_PLUGIN (R358). -/
  | secPlugin (n : Nat) (img : HostRead)
  /-- SEC_DOMAIN (R333). -/
  | secDomain (n : Nat)
  /-- SEC_DBG_CHALLENGE (R423). -/
  | secDbgChallenge (n : Nat)
  /-- SEC_DBG_UNLOCK (R423). -/
  | secDbgUnlock (n : Nat)
  /-- PI_SLEEP (R360). -/
  | piSleep (p : Nat) (us : W32)
  /-- PI_SLEEP_END (R360). -/
  | piSleepEnd (p : Nat)
  /-- PI_YIELD (R360). -/
  | piYield (p : Nat)
  /-- PI_WINDOW (R360). -/
  | piWindow (p : Nat) (i : W32)
  /-- PI_SEAL_ACQ (R360). -/
  | piSealAcq (p : Nat) (addr : W32) (try' : Bool)
  /-- PI_SEAL_REL (R360). -/
  | piSealRel (p : Nat) (addr : W32)
  /-- PI_ALARM (R360). -/
  | piAlarm (p : Nat) (start : W32) (msg : W32)
  /-- PI_SLICE_END (R359). -/
  | piSliceEnd (p : Nat)
  /-- PLUGIN_STOP (R361). -/
  | pluginStop (p : Nat)
  /-- PLUGIN_RESTART (R361). -/
  | pluginRestart (p : Nat)
  /-- ZONE_PERIOD (R269): the wake of zone thread zt for cycle c. -/
  | zonePeriod (zt c : Nat)
  /-- ANG_WINDOW (R271): of zone z, by ANG thread t, with the level of a local sensor in 0.1 dB. -/
  | angWindow (z : Nat) (t : Tid) (level : Int)
  /-- RECEIVE_PACKET (R257). -/
  | receivePacket (sid : Nat) (p : AudioPacket)
  /-- OUTBOUND_PACKET (R258). -/
  | outboundPacket (sid : Nat)
  /-- SWITCHING_PERIOD (R288). -/
  | switchingPeriod (ch k : Nat)
  /-- CHANNEL_STOP (R291). -/
  | channelStop (ch : Nat) (why : StopCause)
  /-- CHANNEL_RESTART (R292). -/
  | channelRestart (ch : Nat)
  /-- LIMITER_UPDATE (R293). -/
  | limiterUpdate (ch : Nat) (mA : Nat)
  /-- OVL_TRIP (R293). -/
  | ovlTrip (ch : Nat)
  /-- SUPERVISION_WINDOW (R295). -/
  | supervisionWindow (ch : Nat) (m : LineMeas)
  /-- NIGHT_ROUND_START (R301). -/
  | nightRoundStart
  /-- ROUND_STEP (R302). -/
  | roundStep (ch : Nat) (m : LineMeas)
  /-- ROUND_RETRY (R301). -/
  | roundRetry (ch : Nat)
  /-- ROUND_END (R301). -/
  | roundEnd
  /-- PFC_CURRENT_STEP (R306). -/
  | pfcCurrentStep (k : Nat) (iL vBus : Int)
  /-- PFC_VOLTAGE_UPDATE (R306). -/
  | pfcVoltageUpdate (k : Nat) (vBus : Int)
  /-- MAINS_EVENT_RESPONSE (R307). -/
  | mainsEventResponse (k : Nat) (ev : Fin 10)
  /-- BATTERY_CHANGEOVER (R308). -/
  | batteryChangeover (k : Nat) (v0 v1 : Nat)
  /-- MAINS_RETURN (R309). -/
  | mainsReturn (k : Nat) (vBus : Nat)
  /-- RECORD_FLUSH (R311). -/
  | recordFlush
  /-- PTP_SYNC (R254): the offset measured and the grandmaster's time, both in ns. -/
  | ptpSync (offset : Int) (gm : Nat) (h : PtpHead)
  /-- PTP_ANNOUNCE_TIMEOUT (R254). -/
  | ptpAnnounceTimeout
  /-- PTP_PATH_SWITCH (R253). -/
  | ptpPathSwitch
  /-- TAKEOVER_RESPONSE (R390). -/
  | takeoverResponse (d : Nat)
  /-- THREAD_ECC_RESTART (R395). -/
  | threadEccRestart (t : Tid)
  /-- CLOCK_CHANGE (R431). -/
  | clockChange (c : ClockName) (hz : Nat)
  /-- LANE_RESET_RELEASE (R181). -/
  | laneResetRelease (l : Nat)
deriving DecidableEq, Repr

end Sys2Proof
end

