-- ==== Sys2Proof/Decode.lean ====
section
/-! DEFINITION. The reading of a command from a word by the table's bits: no row of the table gives bits, so no word spells a command. -/
namespace Sys2Proof

/-- The command that a word spells by the table's bits. No row of opcode_table.json gives bits: none. -/
def decodeTableWord (_nbits _w : Nat) : Option Instr := none

end Sys2Proof
end

