-- ==== Sys2Proof/Config.lean ====
section
/-! DEFINITION. What an implementation fixes and the values the manual leaves open: opaque constants applied to the operands they depend on, or to the counter State.free. -/
namespace Sys2Proof.Config

/-- The levels of the 16 pads of a group at a TCLK edge, as the synchronisers deliver them (R202): an input from outside. -/
opaque padLevels : Nat → BitVec 16
/-- Whether the comparator output below_lo of a pad is 1 (R200): an input from outside. -/
opaque belowLo : Nat → Bool
/-- The 256 random bits of a challenge (R423). -/
opaque challenge : Nat → BitVec 256
/-- SHA-384 of a byte string (R365, R367); the manual cites the function and does not restate it. -/
opaque sha384 : List (BitVec 8) → BitVec 384
/-- Whether an ECDSA P-384 signature verifies: key bytes, message, signature bytes (R365, R423). -/
opaque ecdsaOk : List (BitVec 8) → List (BitVec 8) → List (BitVec 8) → Bool
/-- AES-256-GCM decryption: key, IV, additional data, ciphertext, tag; the plaintext and whether the tag holds (R366, R417). -/
opaque aesGcm : BitVec 256 → BitVec 96 → List (BitVec 8) → List (BitVec 8) → BitVec 128 → List (BitVec 8) × Bool
/-- Whether the linear factor of a gain of g eightieths of a decibel, where no Q15 value is exact, is the one above it (R267, R268, R271, R293); the manual gives the gain and no rounding. -/
opaque gainUp : Int → Bool
/-- Whether the magnitude of a sine at p of q parts of a cycle, where no Q15 value is exact, is the one above it (R294, R303, R306); the manual gives no rounding. -/
opaque sineUp : Nat → Nat → Bool
/-- Pins of a line board that no letter names (R285, R286): 0 the latch pin of the relay chain on pin n, 1 the CLK pin of the chains, 2 the CLK pin of the sense link on pin n. -/
opaque boardPin : Nat → Nat → Nat
/-- The bit clock the library uses for relay and status chains (0) and for links of w streams (w). -/
opaque boardClk : Nat → Fin 32
/-- The pole radius of the programme notch in Q15, small enough for 40 dB over pilot_f ± 100 Hz (R288, R294). -/
opaque notchPole : Fin 9831
/-- A value of a controller, measurement chain or receiver whose internals the manual does not state, by operands and counter. -/
opaque control : Nat → List Int → Int
/-- What a RISC-V instruction fetched at an address does to a hart is outside the table; a step of a hart under debug (R420) leaves the pc at this value. -/
opaque hartNextPc : Nat → BitVec 32 → BitVec 32
/-- A 16-bit value the manual leaves open. -/
opaque word16 : Nat → BitVec 16
/-- A 32-bit value the manual leaves open. -/
opaque word32 : Nat → BitVec 32
/-- A truth value the manual leaves open. -/
opaque flag : Nat → Bool

/-- A parameter the host must give and has not given (Tables 10.2 and 10.6: from host). -/
opaque hostParam : Nat → Int
/-- A choice the manual leaves to the firmware among places that all satisfy its conditions. -/
opaque choice : Nat → Nat

/-- The supply whose bus feeds a channel (R299, R308); no letter names it. -/
opaque supplyOf : Nat → Nat
/-- Words of a route table, a set of state blocks or a library work area for a number of zone threads or streams (CFG COMMIT). -/
opaque regionNeed : Nat → Nat → Nat
/-- The image of plug-in number i in a plug-in bundle, whose layout the manual does not give (R376). -/
opaque bundleImage : List (BitVec 8) → Nat → List (BitVec 8)
/-- The Sheow build number (SYS IDENT). -/
opaque sheowBuild : Nat

end Sys2Proof.Config
end

