-- ==== Sys2Proof/Machine/Map.lean ====
section
/-! DEFINITION. Sparse maps and byte memories as lists of key and value pairs in one canonical form: keys strictly rising, no entry equal to what an unlisted key reads as. -/
namespace Sys2Proof.Machine

/-- A sparse map: keys strictly rising, no entry equal to the default of its key. -/
abbrev SMap (α : Type) := List (Nat × α)

/-- The value at key k; d is what an unlisted key reads as. -/
def SMap.get {α : Type} : SMap α → Nat → α → α
  | [], _, d => d
  | (i, v) :: r, k, d => if i = k then v else SMap.get r k d

/-- Put v at key k, before the first greater key. -/
def SMap.put {α : Type} : SMap α → Nat → α → SMap α
  | [], k, v => [(k, v)]
  | (i, x) :: r, k, v =>
    if k < i then (k, v) :: (i, x) :: r
    else if k = i then (k, v) :: r
    else (i, x) :: SMap.put r k v

/-- Take key k out. -/
def SMap.del {α : Type} (m : SMap α) (k : Nat) : SMap α := m.filter fun e => e.1 != k

/-- Write v at key k; writing the default of the key removes the entry. -/
def SMap.set {α : Type} [DecidableEq α] (m : SMap α) (k : Nat) (v d : α) : SMap α :=
  if v = d then SMap.del m k else SMap.put m k v

/-- Keys strictly rise. -/
def SMap.sorted {α : Type} (m : SMap α) : Bool :=
  match m with
  | [] => true
  | (i, _) :: r => (match r with | [] => true | (j, _) :: _ => decide (i < j)) && SMap.sorted r

/-- The canonical form with one default for every key. -/
def SMap.wf {α : Type} [DecidableEq α] (m : SMap α) (d : α) : Bool :=
  SMap.sorted m && m.all (fun e => decide (e.2 ≠ d))

/-- A byte memory. An unlisted byte reads 0 (R404, R314, Table 13.5). -/
abbrev Mem := List Host.Cell

/-- What an unlisted byte reads as. -/
def Mem.blank : BitVec 8 := 0#8

/-- The byte at address a. -/
def Mem.read (m : Mem) (a : Nat) : BitVec 8 := SMap.get m a Mem.blank

/-- Write one byte. -/
def Mem.write (m : Mem) (a : Nat) (b : BitVec 8) : Mem := SMap.set m a b Mem.blank

/-- The canonical form of a memory. -/
def Mem.wf (m : Mem) : Bool := SMap.wf m Mem.blank

/-- Two bytes, the lower address in bits [7:0] (R149). -/
def Mem.read16 (m : Mem) (a : Nat) : BitVec 16 := Mem.read m (a + 1) ++ Mem.read m a

/-- Write two bytes, bits [7:0] at the lower address (R149). -/
def Mem.write16 (m : Mem) (a : Nat) (v : BitVec 16) : Mem :=
  Mem.write (Mem.write m a (v.extractLsb' 0 8)) (a + 1) (v.extractLsb' 8 8)

/-- Four bytes, least significant first. -/
def Mem.read32 (m : Mem) (a : Nat) : BitVec 32 := Mem.read16 m (a + 2) ++ Mem.read16 m a

/-- Write four bytes, least significant first. -/
def Mem.write32 (m : Mem) (a : Nat) (v : BitVec 32) : Mem :=
  Mem.write16 (Mem.write16 m a (v.extractLsb' 0 16)) (a + 2) (v.extractLsb' 16 16)

/-- Remove every byte of [lo, lo + n): the region then reads 0. -/
def Mem.clear (m : Mem) (lo n : Nat) : Mem :=
  m.filter (fun e => decide (e.1 < lo ∨ lo + n ≤ e.1))

/-- n bytes from address a upwards. -/
def Mem.bytes (m : Mem) (a : Nat) : Nat → List (BitVec 8)
  | 0 => []
  | n + 1 => Mem.read m a :: Mem.bytes m (a + 1) n

/-- Write a list of bytes from address a upwards. -/
def Mem.writeBytes (m : Mem) (a : Nat) : List (BitVec 8) → Mem
  | [] => m
  | b :: r => Mem.writeBytes (Mem.write m a b) (a + 1) r

/-- Write 16-bit words from byte address a upwards. -/
def Mem.writeWords (m : Mem) (a : Nat) : List (BitVec 16) → Mem
  | [] => m
  | w :: r => Mem.writeWords (Mem.write16 m a w) (a + 2) r

end Sys2Proof.Machine
end

