-- ==== Sys2Proof/Machine/State.lean ====
section
/-! DEFINITION. The state of the block as plain data, the reasons a step can stop, and the state after reset. INVENTORY.md, State, names the rule and the reset value of each piece. -/
namespace Sys2Proof.Machine

/-- Reasons a step stops with a fault: stimuli for which the manual states no effect. Both are safe: the model stops where the manual says nothing. -/
inductive Fault
  /-- DFT_MODE while blk_rst_i is 0: not a supported operation (R428). Raised by execDftMode. Safe. -/
  | unsupportedDft
  /-- CLOCK_CHANGE outside Table 16.3, or a stop while clk_stop_ok_o is 0 (R429, R431). Raised by execClockChange. Safe. -/
  | clockContract
deriving DecidableEq, Repr

/-- Reasons a command has no meaning in the model. -/
inductive Refusal
  /-- The row has no meaning yet; raised by Dispatch only. Safe. -/
  | notModelled (mnemonic : String)
deriving DecidableEq, Repr

/-- The kind of an ECC error a stored word holds (R152, R85, R88). -/
inductive EccErr | single | double
deriving DecidableEq, Repr

/-! ### Engines -/

/-- Thread states of Table 3.4. -/
inductive TState | idle | running | blocked | stopping | stopped | halted | faulted
deriving DecidableEq, Repr

/-- TFAULT codes of Table 3.6. -/
inductive TFault
  | none | illegal | sliceRange | codeRange | codeWrite | eccData | eccCode | xbus | eccXch | pinOwner | loopDepth | chuteTarget
deriving DecidableEq, Repr

/-- A loop set: LST, LEN, LCN (Table 4.1). -/
structure LoopSet where
  lst : Word := 0
  len : Word := 0
  lcn : Word := 0
deriving DecidableEq, Repr

/-- A PMRD snapshot (R129). -/
structure Snapshot where
  pos : BitVec 48 := 0
  bt : W64 := 0
  rho : BitVec 48 := 0
  state : BitVec 3 := 0
  epoch : BitVec 8 := 0
  boundary : W64 := 0
deriving DecidableEq, Repr

/-- Flag values an instruction sets; none leaves a flag as it is. -/
structure FlagUpd where
  n : Option Bool := none
  z : Option Bool := none
  c : Option Bool := none
  v : Option Bool := none
deriving DecidableEq, Repr

/-- The result an exact long operation writes when it completes: an accumulator, or two registers (R72, R117, R119, R133). -/
inductive ExactRes
  | acc (i : Fin 2) (v : BitVec 40) (f : FlagUpd)
  | regs (r0 r1 : Fin 16) (v0 v1 : Word) (f : FlagUpd)
deriving DecidableEq, Repr

/-- The operation a thread waits on (Table 3.3). tag names its sorter request; issued counts rotations. -/
inductive Pend
  | none
  | exact (until' : Nat) (res : ExactRes)
  | xload (tag : Nat) (p : Fin 16) (pair : Bool)
  | xstore (tag : Nat)
  | acq (tag : Nat) (p : Fin 16)
  | rel (tag : Nat)
  | sende (e c : Nat) (w : Word) (issued : Nat)
  | sendeBuf (d l : Nat) (w : Word) (issued : Nat)
  | sendeLong (tag : Nat) (d l : Nat) (w : Word) (issued : Nat)
  | recv (p : Fin 16) (ch : ChuteRef) (deadline : Option Nat)
  | waitp (x : BitVec 48)
  | pedge (pin : Nat) (tau : W64) (level : Bool)
  | pser (pin : Nat) (w : Word)
  | pdes (p : Fin 16) (pin : Nat)
deriving DecidableEq, Repr

/-- One hardware thread: the registers of Table 4.1, its state, and its per-thread depot registers. -/
structure Thread where
  state : TState := .idle
  w : Vector Word 16 := Vector.replicate 16 0
  ac : Vector (BitVec 40) 2 := Vector.replicate 2 0
  ap : Vector Word 4 := Vector.replicate 4 0
  am : Vector Word 4 := Vector.replicate 4 0
  xb : Vector (BitVec 22) 2 := Vector.replicate 2 0
  lk : Word := 0
  sts : Word := 0
  loops : Vector LoopSet 3 := Vector.replicate 3 {}
  ldep : BitVec 2 := 0
  crcp : W32 := 0
  pm : Vector (BitVec 48) 2 := Vector.replicate 2 0
  staging : List Word := []
  pickup : List Word := []
  snap : Snapshot := {}
  pc : Word := 0
  /-- The address DEP_TSTAT.pc reports while the thread is RUNNING or BLOCKED (Table 3.11). -/
  lastPc : Word := 0
  tfault : TFault := .none
  pend : Pend := .none
  /-- The state a STOPPING thread ends in: STOPPED, or HALTED for a debug halt (R79). -/
  stopTo : TState := .stopped
  /-- A debug STEP is in force: the thread halts when its instruction completes (R421). -/
  stepping : Bool := false
  /-- The inherited priority of a boost in force (R91). -/
  boost : Option Nat := none
  prio : BitVec 4 := 0
  /-- DEP_SLICE[t]: en [15], slice_size [10:8], slice_base [4:0] (Table 3.12). -/
  slice : W32 := 0x8200
  /-- CHUTE_TMO[t] (Table 5.7). -/
  tmo : W32 := 0
deriving DecidableEq, Repr

/-- The reset value of thread t of a depot: DEP_SLICE[t] is 0x0000_8200 + 4 × (t mod 8) (Table 3.7). -/
def Thread.reset (t : Nat) : Thread := { slice := 0x8200 + BitVec.ofNat 32 (4 * (t % 8)) }

/-- An engine chute: whole waiting messages, oldest first, queued senders and queued receivers (R134 to R138). -/
structure Chute where
  msgs : List (List Word) := []
  senders : List Tid := []
  receivers : List Tid := []
  /-- Commits at the tail, by ECLK cycle and sender, that a receiver may not see yet; room of taken messages, by cycle and words, that may not be free yet; threads queued, by cycle (R134 to R139). -/
  fresh : List (Nat × Tid) := []
  freed : List (Nat × Nat) := []
  ties : List (Nat × Tid) := []
deriving DecidableEq, Repr

/-- A reservation of a long chute: sender, length, tag of its request, and its message once that has arrived (R140, R141). -/
structure Resv where
  tid : Tid
  len : Nat
  tag : Nat
  msg : List Word := []
deriving DecidableEq, Repr

/-- A long chute: waiting messages, granted reservations in grant order whose messages do not wait yet, queued reservations, queued receivers. eccLost marks messages that hold an uncorrectable word (R142). -/
structure LChute where
  msgs : List (Tid × List Word × Option Nat) := []
  granted : List Resv := []
  queue : List Resv := []
  receivers : List Tid := []
  ties : List (Nat × Tid) := []
deriving DecidableEq, Repr

/-- A committed long-chute message in the sender depot's outbound buffer, or a burst on its way (R140). -/
structure OutMsg where
  tid : Tid
  depot : Nat
  lc : Nat
  tag : Nat
  words : List Word
deriving DecidableEq, Repr

/-- A CHUTE_DL record: cause, sender, target word, message (R146, R147). -/
structure DlRec where
  cause : Nat
  tid : Tid
  target : Word
  words : List Word
deriving DecidableEq, Repr

/-- Depot states of DEP_STAT.state (Table 3.7). -/
inductive DState | off | run | draining | clearing
deriving DecidableEq, Repr

/-- Phases of a depot transfer (Table 13.10). -/
inductive XPhase | idle | code | wait | freeze | done | timeout | aborted
deriving DecidableEq, Repr

/-- The depot transfer registers of a depot (Tables 13.10, 13.11). -/
structure Xfer where
  spare : Nat := 0
  guard : Nat := 0x60
  per : W32 := 0x30D40
  bnd : W64 := 0
  tmo : Nat := 0x2328
  phase : XPhase := .idle
  rots : Nat := 0
  t : W64 := 0
  /-- BT at which WAIT began, for DEP_XFER_TMO. -/
  waitFrom : Nat := 0
  /-- Rotation at which FREEZE began. -/
  frzRot : Nat := 0
  /-- dep_rst_i that asserted during the freeze and acts after it (R435). -/
  rstHeld : Bool := false
deriving DecidableEq, Repr

/-- One depot: its engines' memories, threads, chutes and registers. -/
structure Depot where
  state : DState := .off
  en : Bool := false
  threads : SMap Thread := []
  /-- Engine data memory, byte address 2 × (8192 × engine + word). -/
  edm : Mem := []
  edmErr : SMap (Option EccErr) := []
  /-- Code store, byte address 4 × instruction address. -/
  code : Mem := []
  codeErr : SMap (Option EccErr) := []
  stallLim : BitVec 24 := 0x1000
  drainTmo : BitVec 16 := 0x64
  /-- DEP_FSTAT bits 6 to 1; bit 0 (tfault) is computed (Table 3.8). -/
  fstat : BitVec 7 := 0
  fen : BitVec 7 := 0x53
  drainCnt : W32 := 0
  eccCode : BitVec 16 := 0
  eccData : BitVec 16 := 0
  xselLo : W32 := 0
  xselHi : W32 := 0
  ldAddr : Word := 0
  chx : SMap Word := []
  chutes : SMap Chute := []
  lchutes : SMap LChute := []
  outbuf : List OutMsg := []
  torn : W32 := 0
  dlLost : W32 := 0
  dl : List DlRec := []
  lxdom : BitVec 256 := 0
  redir : W32 := 0
  xfer : Xfer := {}
  /-- Rotation in which the stall condition began to hold; none while it fails (R94). -/
  stallFrom : Option Nat := none
  wideFrom : Option Nat := none
  stallFired : Bool := false
  /-- BT at which the drain in progress began (R97). -/
  drainFrom : Nat := 0
  /-- A write of en held until DRAINING or CLEARING ends (R98). -/
  enHeld : Option Bool := none
  frozen : BitVec 8 := 0
  twinValid : Bool := false
  twinGroup : BitVec 5 := 0
  twinPair : BitVec 3 := 0
  twinT : W64 := 0
  /-- dep_rst_i (R434). -/
  rst : Bool := false
  powered : Bool := true
deriving DecidableEq, Repr

/-! ### Exchange memory, seals, sorter -/

/-- What a sorter request does at its target. -/
inductive SOp
  | load (a n : Nat) (got : List Word)
  | store (a : Nat) (ws : List Word)
  | acq (a : Nat) (try' : Bool)
  | rel (a : Nat)
  | resv (d l len : Nat)
  | burst (m : OutMsg)
  /-- The next write of pin ring k (R219). -/
  | ring (k : Nat)
deriving DecidableEq, Repr

/-- A request at the sorter: requester code, target (0 to 63 banks, 64 + d long-chute stores), beats, wait count, overdue lane (R169 to R177). -/
structure SReq where
  code : Nat
  target : Nat
  beats : Nat
  tag : Nat
  tid : Tid
  op : SOp
  wait : Nat := 0
  overdue : Bool := false
  /-- Its number among the accesses that have passed to a depot (R173). -/
  no : Nat := 0
deriving DecidableEq, Repr

/-- A response on its way to a thread. -/
inductive XRes
  | data (ws : List Word)
  | done
  | fault (f : TFault)
  | seal (w : Word) (granted : Bool)
  | relAck (ok : Bool)
  | grant
  | dead (cause : Nat)
deriving DecidableEq, Repr

/-- A response with the thread and request it belongs to. -/
structure Resp where
  tid : Tid
  tag : Nat
  res : XRes
deriving DecidableEq, Repr

/-- A burst in progress at a target, delivered when its last beat has passed (R174, R181). -/
structure Burst where
  code : Nat
  target : Nat
  beats : Nat
  msg : OutMsg
  no : Nat := 0
deriving DecidableEq, Repr

/-- The sorter: registers of Table 6.5, requests in entry order, bursts, masks, house operations. -/
structure Sorter where
  bmax : BitVec 2 := 0
  evt : BitVec 3 := 0
  evtEn : BitVec 3 := 7
  starveTh : BitVec 16 := 0x100
  starveWin : BitVec 16 := 0x3E8
  cutCnt : W32 := 0
  starve : BitVec 44 := 0
  /-- Codes at inputs 0 to 43; an unlisted input holds its own number. -/
  shadow : SMap Nat := []
  live : SMap Nat := []
  wlim : SMap (BitVec 8) := []
  fwin : SMap W32 := []
  win : SMap Nat := []
  /-- Microsecond tick (BT ÷ 9600) at which the window counters last restarted (R178). -/
  winTick : Nat := 0
  reqs : List SReq := []
  /-- Long-chute reservations the sorter has passed on and the target depot has not yet judged (R140). -/
  arr : List SReq := []
  bursts : List Burst := []
  /-- Accesses that have passed to depots (R173). -/
  passNo : Nat := 0
  /-- Per target: requests that were in the overdue lane at the last overdue grant of an input, which block its next entry (R177). -/
  blockers : List (Nat × Nat × List Nat) := []
  /-- House operations waiting: target and pair-word, with the FCLK cycle of entry (R180). -/
  house : List (Nat × Nat × Nat × BitVec 13) := []
  /-- Per target: the FCLK cycle of its last inserted house cycle, plus 1 (R180). -/
  houseAt : SMap Nat := []
  resps : List Resp := []
  nextTag : Nat := 0
deriving DecidableEq, Repr

/-- Exchange memory with its ECC state and scrub registers (Table 5.6). -/
structure Xch where
  mem : Mem := []
  err : SMap (Option EccErr) := []
  scrubEn : Bool := true
  scrubPeriod : BitVec 8 := 0x3C
  scrubPos : Nat := 0
  /-- Time of the slot of scrubPos, in BT × the pair-words of the build (R153). -/
  scrubDue : Nat := 0
  ceCnt : W32 := 0
  dbeCnt : W32 := 0
  dbeValid : Bool := false
  dbeAddr : BitVec 21 := 0
  dbeSrc : BitVec 16 := 0
  parValid : Bool := false
  parAddr : BitVec 13 := 0
  lb : Mem := []
  /-- Letterbox bytes with bad parity. -/
  lbErr : SMap Bool := []
  /-- The latest letterbox write of the host port: HCLK and PCLK cycle, first byte, bytes (R154). -/
  lbHost : Option (Nat × Nat × Nat × Nat) := none
deriving DecidableEq, Repr

/-- A held seal: owner identity, the ORPHAN bit it was granted with, and the microsecond tick at which its lease counter reaches 0 (R156 to R162). -/
structure Seal where
  owner : BitVec 13
  orphan : Bool
  expiry : Option Nat
deriving DecidableEq, Repr

/-- A pending wait of an agent; tag answers a thread's ACQ (R161). -/
structure SealWait where
  agent : BitVec 13
  addr : Nat
  tag : Nat
deriving DecidableEq, Repr

/-- One bank of the seal alias registers (R159, R160). -/
structure AliasBank where
  addr : BitVec 22 := 0
  wait : Bool := false
  granted : Bool := false
  relErr : Bool := false
  word : Word := 0
deriving DecidableEq, Repr

/-- The seal unit: table of held seals, waits in order of registration, registers of Table 5.6. -/
structure SealUnit where
  held : SMap (Option Seal) := []
  waits : List SealWait := []
  evt : BitVec 10 := 0
  evtEn : BitVec 10 := 7
  fullCnt : W32 := 0
  orphCnt : W32 := 0
  aprio : BitVec 24 := 0x0FFF8F
  leaseAg : BitVec 16 := 0x2710
  leaseDep : SMap (BitVec 16) := []
  banks : SMap AliasBank := []
deriving DecidableEq, Repr

/-! ### Postmark unit -/

/-- Reference states of Table 2.2. -/
inductive RState | disabled | acquiring | locked | holdover | invalid
deriving DecidableEq, Repr

/-- The sinc3 decimator of a SAMP tracker with ratio 256: integrators, combs, bits of the present sample, the last two samples with the BT of each, and the sum of squares and count of the samples of the present half-cycle (Table 2.4, R216). -/
structure Decim where
  i1 : W32 := 0
  i2 : W32 := 0
  i3 : W32 := 0
  c1 : W32 := 0
  c2 : W32 := 0
  c3 : W32 := 0
  n : Nat := 0
  x0 : Int := 0
  x1 : Int := 0
  t0 : Nat := 0
  t1 : Nat := 0
  sq : Nat := 0
  m : Nat := 0
deriving DecidableEq, Repr

/-- One reference. Its position runs on a line: p at BT b, in units of 2^-16 phase unit, with rho BT per phase unit in units of 2^-40; before b it holds at p (R40, R48). -/
structure Ref where
  /-- PMK_CFG with en and mode as Table 2.9 gives them by k. -/
  cfg : W32 := 0x4000
  nom : W32 := 0
  bound : W32 := 0x6E550A14
  hold : W32 := 0x7D0
  evch : W32 := 0
  evt : BitVec 10 := 0
  state : RState := .disabled
  epoch : BitVec 8 := 0
  b : Nat := 0
  p : Nat := 0
  rho : Nat := 3221225472000000
  /-- Filtered frequency in units of 2^-32 Hz (R450). -/
  freq : Nat := 0
  everLocked : Bool := false
  rms : BitVec 16 := 0
  /-- Crossings of the first acquisition stage, newest first (R451). -/
  acq : List Nat := []
  /-- Second stage: crossings seen, last crossing of the first stage, sum of its four spacings. -/
  stage2 : Option (Nat × Nat × Nat) := none
  lastX : Nat := 0
  lastRise : Bool := false
  /-- The positive-going crossing before, for the period of a full cycle; 0 where one was missed. -/
  prevRise : Nat := 0
  /-- The next expected crossing, in half-cycles of position. -/
  nextC : Nat := 0
  miss : Nat := 0
  badFreq : Nat := 0
  good : Nat := 0
  holdFrom : Nat := 0
  sagged : Bool := false
  swelled : Bool := false
  dec : Decim := {}
deriving DecidableEq, Repr

/-- What a depot's pair holds of one reference (R48, R52, R57, R129): the 45-bit position, validity, BT of that position, ρ in 2^-40 BT, state code, epoch. -/
structure RefCap where
  pos : Nat := 0
  valid : Bool := false
  b : Int := 0
  rho : Nat := 0
  code : Nat := 0
  epoch : BitVec 8 := 0
deriving DecidableEq, Repr

/-- The latched and banked PMK registers of one agent (R31, R51). -/
structure PmkBank where
  btHi : W32 := 0
  secLo : W32 := 0
  secHi : BitVec 16 := 0
  posHi : SMap (BitVec 16) := []
  convLo : W32 := 0
  convHi : BitVec 16 := 0
  convBt : W64 := 0
  convSt : BitVec 2 := 0
deriving DecidableEq, Repr

/-- A message of a unit on its way to a depot (R143). unit: 0 postmark, 1 pin, 2 + l lane l. -/
structure UnitMsg where
  unit : Nat
  depot : Nat
  engine : Nat
  chute : Nat
  words : List Word
deriving DecidableEq, Repr

/-- The postmark unit. PTP time is held in units of 1/(48 × 2^44) ns at BT ptpB, so that each BT adds 5 × (2^44 + rate). -/
structure Pmk where
  refs : SMap Ref := []
  evtEn : BitVec 10 := 0
  alarm : Bool := false
  evtLost : W32 := 0
  alarmPm : BitVec 48 := 0
  alarmEn : Bool := false
  banks : SMap PmkBank := []
  rate : W32 := 0
  step : W32 := 0
  wdog : BitVec 16 := 0x64
  setNs : BitVec 30 := 0
  setSec : BitVec 48 := 0
  ptpB : Nat := 0
  ptpT : Nat := 0
  /-- The lines of PTP time before the present one, newest first: BT and time of the start, rate, BT of the end (R231). -/
  ptpPast : List (Nat × Nat × W32 × Nat) := []
  /-- Phase units below which PMK3 and PMK4 hold after a backward step (R40, R44), or which they hold while disabled (Table 2.2). -/
  hold3 : Nat := 0
  hold4 : Nat := 0
  wdogFrom : Nat := 0
  /-- The depot pairs captured at the present rotation boundary and at the one before, and the BT of the present one (R52). -/
  capNow : SMap RefCap := []
  capPrev : SMap RefCap := []
  capBt : Nat := 0
deriving DecidableEq, Repr

/-! ### Pin unit -/

/-- The functions of Table 7.1. -/
inductive PinFn | hold | gpio | edge | ser | des | clk | capture | ref | comp
deriving DecidableEq, Repr

/-- One pin: registers, latch, queues, handover. -/
structure Pin where
  ownKind : BitVec 2 := 0
  ownDep : BitVec 5 := 0
  func : W32 := 0
  elec : W32 := 0x90700215
  /-- The function in effect at the pad; PIN_FUNC.fsel names the target during a handover. -/
  fn : PinFn := .hold
  /-- Rotation of takeover of a handover in progress, and whether it ends in the safe state (R193, R197). -/
  ho : Option (Nat × Bool) := none
  /-- Level and enable of the pad latch or driver. -/
  drv : Bool := false
  oe : Bool := false
  eq : List (W64 × Bool) := []
  /-- Entries still crossing from ECLK (R209). -/
  eqX : List (W64 × Bool) := []
  lastTau : Option W64 := none
  /-- Late edges ever counted, for the services (R290); PIN_CNT.late is its own counter. -/
  lateN : Nat := 0
  serq : List Word := []
  serOn : Bool := false
  /-- The word the serializer shifts; none in an idle word (R213). -/
  serWord : Option Word := none
  lastBit : Bool := false
  desq : List Word := []
  desLost : Bool := false
  disc : BitVec 8 := 0
  crowd : BitVec 8 := 0
  late : BitVec 8 := 0
  slip : BitVec 8 := 0
  /-- The engine pair (depot × 8 + pair) that made the latest entry (R389). -/
  lastPair : Option Nat := none
  /-- The function that the freeze of its pair took the pin from, as Sheow's pin table names it (R389, R390). -/
  before : Nat := 0
  /-- TCLK edge (BT) of the last change of driven level or enable (R203). -/
  chgBt : Nat := 0
  /-- BT until which input is blanked (R199). -/
  blankBt : Nat := 0
  /-- BT of the last capture record of the pin, and its number in its ring (R221). -/
  capBt : Option Nat := none
  capRec : Nat := 0
  /-- BT at which the present function took over (R196, R213, R214). -/
  foBt : Nat := 0
  /-- The next word of the bit clock that the serializer or deserializer may take, once it has started (R213, R214). -/
  wordJ : Option Nat := none
  /-- A late edge to apply at the TCLK edge with this BT (R208). -/
  emit : Option (Nat × Bool) := none
  /-- The level last sampled before the change that blanks the input (R199). -/
  held : Bool := false
  /-- A handover whose rotation count waits for the first strobe after ECLK runs (R225). -/
  hoHeld : Bool := false
deriving DecidableEq, Repr

/-- A bit clock (R211). -/
structure Bck where
  en : Bool := false
  per : W32 := 0x1800
  t0 : W64 := 0
  enBt : Nat := 0
deriving DecidableEq, Repr

/-- A capture ring (R218 to R220). -/
structure PRing where
  cfg : W32 := 0
  base : BitVec 22 := 0
  cnt : W32 := 0
  lost : W32 := 0
  ch : W32 := 0
  /-- The words buffered in the pin unit, at most 32 (R219). -/
  buf : List Word := []
  /-- The write at the sorter: 0 none, 1 the burst or the first half of a record, 2 the second half, 3 the count. -/
  stage : Nat := 0
  /-- Bit-clock word number of the first word after en (Table 7.5). -/
  first : W32 := 0
deriving DecidableEq, Repr

/-- A pattern unit (R222, R223). -/
structure Pat where
  cfg : W32 := 0
  mp : W32 := 0
  ch : W32 := 0
  t : W64 := 0
  /-- BT of the last counted event or of the write that set the mode, and whether that event was an enter or a leave (R222). -/
  since : Nat := 0
  last : Option Bool := none
deriving DecidableEq, Repr

/-- The pin unit. -/
structure PinUnit where
  pins : SMap Pin := []
  /-- Depot and pin of the edge entries crossing from ECLK, in the order in which they entered (R18). -/
  xord : List (Nat × Nat) := []
  gout : SMap Word := []
  goe : SMap Word := []
  mm : SMap Word := []
  /-- PIN_EVT bits 7 to 2; mm and pm are computed. -/
  evt : BitVec 8 := 0
  evtEn : BitVec 8 := 3
  msgLost : W32 := 0
  mmSettle : BitVec 16 := 0x30
  pmEvt : W32 := 0
  errInfo : W32 := 0
  bcks : SMap Bck := []
  rings : SMap PRing := []
  pats : SMap Pat := []
deriving DecidableEq, Repr

/-! ### Lanes -/

/-- A transmit descriptor as the lane has read it: words 0 to 3, and the launch time (Table 8.4). -/
structure TxDesc where
  w0 : W32
  w1 : W32
  launch : Nat
deriving DecidableEq, Repr

/-- A transmit queue (R243). -/
structure Txq where
  cfg : W32 := 0
  base : BitVec 22 := 0
  cons : W32 := 0
  /-- Producer count as last polled. -/
  prod : W32 := 0
  /-- The head descriptor, once the lane has read it. -/
  head : Option TxDesc := none
deriving DecidableEq, Repr

/-- A frame being sent (R245 to R247): its queue, descriptor words 0 to 3, start of its timestamp point, the bytes held so far, the sequence number of a PRP frame, and whether it is the copy on the odd lane. -/
structure TxCur where
  queue : Nat
  w0 : W32
  w1 : W32
  start : Nat
  bytes : List Byte
  seq : Option Word
  copy : Bool
deriving DecidableEq, Repr

/-- A PRP frame of the even lane whose copies have not both ended: its queue and descriptor word 0, the statuses so far, LAN A's timestamp (R247). -/
structure TxDup where
  queue : Nat
  w0 : W32
  stA : Option Nat := none
  stB : Option Nat := none
  ts : Option Nat := none
deriving DecidableEq, Repr

/-- Lane states of LAN_STAT. -/
inductive LState | off | stopping | run
deriving DecidableEq, Repr

/-- One lane. -/
structure Lane where
  ctl : W32 := 0
  state : LState := .off
  link : Bool := false
  blockLock : Bool := false
  evt : BitVec 7 := 0
  evtEn : BitVec 7 := 0x37
  tsLat : W32 := 0
  defRing : W32 := 0
  txPoll : BitVec 16 := 0x14
  txLate : BitVec 16 := 0xA
  cnt : SMap W32 := []
  txqs : SMap Txq := []
  tx : Option TxCur := none
  /-- A PRP copy that waits for the odd lane's line, and the PRP frame of the even lane (R247). -/
  wait : Option TxCur := none
  dup : Option TxDup := none
  /-- The last frame that ended on the line, with its FCS: what the PMA interface has carried. -/
  out : List Byte := []
  /-- BT of the last poll (R244), of the last clearing of en (R250), of the last loss of lock (R251). -/
  polled : Option Nat := none
  stopBt : Nat := 0
  lostBt : Nat := 0
  rst : Bool := false
deriving DecidableEq, Repr

/-- A flow entry: LAN_CLS_W0 to W3 (Tables 8.8, 8.9). -/
structure Flow where
  w0 : W32 := 0
  w1 : W32 := 0
  w2 : W32 := 0
  w3 : W32 := 0
deriving DecidableEq, Repr

/-- A flow ring (R236 to R242). -/
structure FRing where
  cfg : W32 := 0x00030000
  base : BitVec 22 := 0
  ch : W32 := 0
  lost : W32 := 0
  cnt : W32 := 0
deriving DecidableEq, Repr

/-- Duplicate state of one PRP source (R248): the numbers seen within the 128 that end with the latest, newest first; BT of its last frame. -/
structure PrpSrc where
  mac : BitVec 48
  seen : List Word
  last : Nat
deriving DecidableEq, Repr

/-- A PRP pair. -/
structure Prp where
  en : Bool := false
  forget : BitVec 16 := 0x190
  dup : W32 := 0
  miss : W32 := 0
  wrong : W32 := 0
  seq : Word := 0
  srcs : List PrpSrc := []
deriving DecidableEq, Repr

/-- The lanes and the classifier. -/
structure Lanes where
  lanes : SMap Lane := []
  clsIdx : BitVec 12 := 0
  cls : Flow := {}
  flows : SMap Flow := []
  msgLost : W32 := 0
  prps : SMap Prp := []
  rings : SMap FRing := []
deriving DecidableEq, Repr

/-! ### Interrupts, power, security, debug, boot -/

/-- The IRQ window: controller, doorbells, safety and twin registers (Tables 11.2, 14.5, 16.5). -/
structure Irq where
  mask : W64 := 0xFFFFFFFFFFFFFFFF
  test : W64 := 0
  h2p : BitVec 16 := 0
  p2h : BitVec 16 := 0
  dl : Bool := false
  safe : BitVec 9 := 0
  safeEn : BitVec 9 := 0x1FF
  pmMm : Bool := false
  pmFrozen : Bool := false
  pmTwinValid : Bool := false
  pmTwinGroup : BitVec 5 := 0
  pmTwinT : W64 := 0
  wdogEn : Bool := false
  wdogLim : BitVec 16 := 0x32
  /-- BT from which the watchdog counts; none once it has expired (R396). -/
  wdogFrom : Option Nat := none
  pmCe : W32 := 0
  testDone : Bool := false
  testBits : BitVec 24 := 0
  /-- The block-wide detector has fired and its condition has not failed since (R95). -/
  bstallFired : Bool := false
deriving DecidableEq, Repr

/-- Power states of Table 15.1. -/
inductive PState | run | trim | vigil | hold | off
deriving DecidableEq, Repr

/-- The PWR window and the power of units. -/
structure Pwr where
  state : PState := .run
  /-- The target of the transition in progress. -/
  target : Option PState := none
  busy : Bool := false
  evt : BitVec 4 := 0
  evtEn : BitVec 4 := 0xE
  depEn : W32 := 0xFFFFFFFF
  vigilDep : W32 := 0
  bankEn : W64 := 0xFFFFFFFFFFFFFFFF
  bankRet : W64 := 0xFFFFFFFFFFFFFFFF
  vlanes : BitVec 8 := 3
  wakeEn : BitVec 4 := 7
  wakeCause : BitVec 4 := 0
  wakeT : W64 := 0
  /-- Banks powered; PWR_ON_BANK also needs the clear done. -/
  bankPow : W64 := 0xFFFFFFFFFFFFFFFF
  bankClr : W64 := 0
  /-- Depots whose clear a transition started (R404). -/
  clrDep : W32 := 0
  lanePow : BitVec 8 := 0xFF
  /-- The state from which Hold was entered (R406). -/
  holdFrom : PState := .run
  wakePend : BitVec 4 := 0
  /-- The Postmaster domain is in retention (R405, R406). -/
  retention : Bool := false
deriving DecidableEq, Repr

/-- The SEC window. -/
structure Sec where
  evt : BitVec 5 := 0
  evtEn : BitVec 5 := 0x1B
  violValid : Bool := false
  violKind : BitVec 3 := 0
  violAgent : BitVec 13 := 0
  violAddr : W32 := 0
  romlock : Bool := false
  depDom : W32 := 0
  lbDom : BitVec 16 := 0
  zdDep : W32 := 0
  xregLo : SMap W32 := []
  xregHi : SMap W32 := []
  pinDom : SMap Word := []
  ikey : BitVec 256 := 0
  ikeySet : Bool := false
  chal : BitVec 256 := 0
  chalPend : Bool := false
  chalLevel : BitVec 2 := 0
  chalT : Nat := 0
  resp : SMap W32 := []
  fails : BitVec 3 := 0
  dbgLock : Bool := false
  aesStatus : BitVec 2 := 0
  aesAddr : W32 := 0
  aesLen : W32 := 0
  aesAad : W32 := 0
  aesIv : BitVec 96 := 0
  aesTag : BitVec 128 := 0
  /-- An escalation to level 3 is in progress, with the lower level asked for meanwhile (R419, R424). -/
  esc : Bool := false
  lowerTo : Option (BitVec 2) := none
  /-- Depots and regions whose zeroisation is in progress (R424). -/
  zdDeps : W32 := 0
  zdRegs : BitVec 16 := 0
deriving DecidableEq, Repr

/-- The DBG window and the TAP. -/
structure Dbg where
  level : BitVec 2 := 0
  evt : BitVec 4 := 0
  evtEn : BitVec 4 := 7
  brkDep : W32 := 0
  haltA : Bool := false
  haltB : Bool := false
  winCtl : W32 := 0
  trcCtl : W32 := 0
  trcBase : BitVec 22 := 0
  trcIdx : Nat := 0
  trcNext : Nat := 0
  pmcsr : BitVec 12 := 0
  /-- The DBGACC capture: result code and data (R418). -/
  tapRes : BitVec 2 := 0
  tapData : W32 := 0
  tapIr : BitVec 4 := 0xF
deriving DecidableEq, Repr

/-- Boot phases of Table 13.7. -/
inductive BPhase | reset | selftest | waitGo | select | handover | running | halted
deriving DecidableEq, Repr

/-- The ID_BOOT registers, HM_WIN and the boot ROM's progress (Table 13.6). -/
structure Boot where
  phase : BPhase := .reset
  err : BitVec 8 := 0
  rejMore : BitVec 8 := 0
  enc : Bool := false
  seq : W32 := 0
  addr : BitVec 40 := 0
  src : BitVec 8 := 0
  time : W32 := 0
  rej : List W32 := []
  /-- BT at which WAIT_GO ended. -/
  goAt : Nat := 0
  hmWin : BitVec 9 := 0
  /-- The boot follows a restart of the Postmaster pair alone (R393). -/
  pmOnly : Bool := false
deriving DecidableEq, Repr

/-! ### Postmaster -/

/-- Privilege modes. -/
inductive Priv | m | s | u
deriving DecidableEq, Repr

/-- One hart: registers, CSRs with pending mode-CSR writes, reservation, host-window D-cache lines (R338 to R357). -/
structure Hart where
  x : SMap W32 := []
  pc : W32 := 0
  priv : Priv := .m
  /-- CSRs by number; an unlisted one reads its reset value. -/
  csr : SMap W32 := []
  /-- The setting in force of the mode CSRs, which lags a write by four instructions (R353). -/
  eff : SMap W32 := []
  pendW : List (Nat × W32 × Nat) := []
  resv : Option Nat := none
  resvAge : Nat := 0
  /-- Host-window lines of the D-cache: window address of the line and its bytes (R344). -/
  dlines : SMap (List Byte) := []
  /-- What instruction fetch sees of SRAM until FENCE.I (R352). -/
  imem : Mem := []
  wfi : Bool := false
  det : Bool := true
  tcmp : W64 := 0xFFFFFFFFFFFFFFFF
  /-- Machine timer interrupt pending (R341). -/
  mtip : Bool := false
deriving DecidableEq, Repr

/-- A manager-port request of a hart that awaits its response, with what is left of the access (R441): the physical window address and bytes of the part it carries, parts still to come, bytes already loaded. -/
structure HmReq where
  id : BitVec 3
  hart : Nat
  fill : Bool
  host : BitVec 40
  part : Nat × Nat
  acc : PmAccess
  rest : List (Nat × Nat)
  got : List Byte
deriving DecidableEq, Repr

/-- The Postmaster: two harts, SRAM. -/
structure Pm where
  harts : SMap Hart := []
  sram : Mem := []
  sramErr : SMap (Option EccErr) := []
  hm : List HmReq := []
deriving DecidableEq, Repr

/-- A response beat list of the host subordinate port (R437). -/
structure HostRsp where
  id : BitVec 6
  beats : List (W64 × Bool)
deriving DecidableEq, Repr

/-! ### Sheow -/

/-- A letter read from an H2P ring (R319): its fields, its header words, and whether an effect that takes time has begun (R321). -/
structure Letter where
  cls : Nat
  op : Nat
  tag : Word
  quiet : Bool
  body : List W32
  hdr : List W32 := []
  begun : Bool := false
deriving DecidableEq, Repr

/-- A reply or event waiting for room in a P2H ring (R327). -/
structure OutLetter where
  cls : Nat
  op : Nat
  tag : Word
  event : Bool
  more : Bool
  status : Word
  body : List W32
  since : Nat
deriving DecidableEq, Repr

/-- Sheow's view of one letterbox. prodIn is the H2P producer index as Sheow last read it (R318). -/
structure Box where
  classes : BitVec 16 := 0
  cons : Nat := 0
  prodIn : Nat := 0
  prodOut : Nat := 0
  seqIn : Word := 0
  seqOut : Word := 0
  svc : Option Letter := none
  outq : List OutLetter := []
  badIdx : Bool := false
deriving DecidableEq, Repr

/-- Sheow's state: before it starts, CONFIG, RUN. During a swap it stays and Sheow.halted is set; Table 11.1 then shows SWAP. -/
inductive ShState | down | config | run
deriving DecidableEq, Repr

/-- A declared exchange region (CFG REGION). -/
structure Region where
  kind : Nat
  base : Nat
  len : Nat
deriving DecidableEq, Repr

/-- The source of a route slot (R260). -/
inductive RSrc | none | stream (id ch : Nat) | msg (id : Nat)
deriving DecidableEq, Repr

/-- A route: source, priority, gain in half-decibels, start cycle (R260, R276). -/
structure Route where
  src : RSrc := .none
  prio : Nat := 0
  gain : Int := 0
  start : Nat := 0
deriving DecidableEq, Repr

/-- A gain in units of 2^-15, even above 0 dB where it is held halved (R269), on its way to a target: present value, value at the last change of target, samples left and in all (R267). -/
structure Ramp where
  cur : Int := 0
  start : Int := 0
  target : Int := 0
  left : Nat := 0
  total : Nat := 0
deriving DecidableEq, Repr

/-- One slot of a zone: the route in the route table, the route its thread uses, the applied gain, whether it was active and whether at priority 15 in the last period, and the route an alarm took it from (R262, R267). -/
structure Slot where
  route : Route := {}
  live : Route := {}
  g : Ramp := {}
  active : Bool := false
  at15 : Bool := false
  saved : Option Route := none
deriving DecidableEq, Repr

/-- One EQ band: wide, halved, coefficients b0 b1 b2 a1 a2, and its state x1 x2 y1 y2 (R270). -/
structure EqBand where
  wide : Bool
  halved : Bool
  coef : List Int
  x1 : Int := 0
  x2 : Int := 0
  y1 : Int := 0
  y2 : Int := 0
deriving DecidableEq, Repr

/-- A zone. Parameters are record values by id (Table 11.6); live ones are those its thread has loaded (R265). -/
structure Zone where
  params : SMap Int := []
  live : SMap Int := []
  slots : SMap Slot := []
  eq : List EqBand := []
  liveEq : List EqBand := []
  evac : Nat := 0
  liveEvac : Nat := 0
  /-- The boost its ANG thread computes, in 1/80 dB; the halved factor its thread applies; start of the present 250 ms window in BT, its samples, and the sums of squares of sensor and output over them (R271). -/
  boostDb : Int := 0
  boost : Int := 0x4000
  angBt : Nat := 0
  angN : Nat := 0
  angSq : Nat := 0
  outSq : Nat := 0
  /-- The stored message a source switch put in place of the stream, with its start cycle (R26, R277); message 0 is silence (R27). -/
  switched : Option (Nat × Nat) := none
  swReported : Bool := false
  /-- The zone gain (R268, R308). -/
  vol : Ramp := { cur := 0x8000, start := 0x8000, target := 0x8000 }
  clips : W32 := 0
  lastOut : Word := 0
  ringBase : Nat := 0
  ringLen : Nat := 0
  /-- The ring that a new delay has been given, base and length, until its thread reloads (R272). -/
  ringNew : Option (Nat × Nat) := none
  /-- BT from which no slot of the zone has been active (R301). -/
  idleFrom : Nat := 0
  declared : Bool := false
deriving DecidableEq, Repr

/-- A zone thread: its tid, its zones, the PMK3 cycle of its next period, its overruns, its seal word, the generations of its block and of its slice (R265, R278), whether R279 fails for it, and the boost messages waiting in its long chute, zone and factor (R271). -/
structure ZThread where
  tid : Tid := 0
  zones : List Nat := []
  cycle : Nat := 0
  overruns : W32 := 0
  sealAddr : Nat := 0
  gen : Nat := 0
  liveGen : Nat := 0
  lost : Bool := false
  msgs : List (Nat × Int) := []
deriving DecidableEq, Repr

/-- An inbound stream with its state block and the receive thread that serves it (R263, R264, R281). -/
structure StreamIn where
  aaf : Bool
  alarm : Bool
  ring : Nat
  l24 : Bool
  channels : Nat
  spp : Nat
  offset : W32
  sid : W64
  link : Nat
  tid : Option Tid := none
  /-- Up to 32 entries: flow-ring slot, PMK3 cycle of the first sample, count, late samples dropped from its start; newest first. -/
  block : List (Nat × Nat × Nat × Nat) := []
  arrival : Nat := 0
  lastSeq : Option Word := none
  /-- The sequence numbers of the last 32 packets (R257). -/
  seqs : List Word := []
  packets : W32 := 0
  lost : W32 := 0
  late : W32 := 0
  tvLost : W32 := 0
  silent : Bool := false
  silReported : Bool := false
deriving DecidableEq, Repr

/-- An outbound stream (STREAM OUT). -/
structure StreamOut where
  aaf : Bool
  lane : Nat
  queue : Nat
  prp : Bool
  l24 : Bool
  channels : Nat
  spp : Nat
  tmpl : Nat
  tmplLen : Nat
  txOff : Nat
  rtpOff : W32
  sid : W64
  zones : List Nat
  seq : Word := 0
  cycle : Nat := 0
  packets : W32 := 0
  /-- Its lanes or PTP have failed and it has not resumed (R28). -/
  down : Bool := false
deriving DecidableEq, Repr

/-- A directory entry of the message store that passed its check (R273): byte offset, samples, gap in ms. -/
structure StoreMsg where
  id : Nat
  loop : Bool
  off : Nat
  len : Nat
  gap : Nat
deriving DecidableEq, Repr

/-- Fault classes a leg can hold (R298). -/
inductive LegClass | short | opened | reversed | drift
deriving DecidableEq, Repr

/-- A leg: baselines and confirmation counters (R296, R297). Impedances in mΩ, ratios in Q15, currents in µA. -/
structure Leg where
  zb : Option Nat := none
  rhob : Option Nat := none
  sweep : List Nat := []
  dc : Option (Nat × Nat) := none
  cls : Option LegClass := none
  failShort : Nat := 0
  failOpen : Nat := 0
  failDrift : Nat := 0
  okFrom : Option Nat := none
  okDrift : Nat := 0
  noBase : Bool := false
  /-- A baseline was written since the last window (R296). -/
  fresh : Bool := false
  /-- The relay coil is energised. -/
  relay : Bool := false
deriving DecidableEq, Repr

/-- The night-round state of one channel (R301 to R305): waiting from a BT, testing (B-fed, step, BT of the next step), done, or waiting again after an abort. -/
inductive RoundCh | waiting (since : Nat) | testing (bfed : Bool) (step : Nat) (next : Nat) | done
deriving DecidableEq, Repr

/-- The pins of a channel (LINE PINS). -/
structure LinePins where
  gateA : Nat
  gateB : Nat
  lowA : Nat
  lowB : Nat
  sense : W32
  status : W32
  relayA : W32
  relayB : W32
deriving DecidableEq, Repr

/-- An amplifier channel (R284 to R300). g_lim is in units of 0.05 dB. -/
structure Chan where
  pins : Option LinePins := none
  tid : Option Tid := none
  loop : Bool := false
  bridge4 : Bool := false
  zone : Nat := 0
  enabled : Bool := false
  /-- Parameters as set, those in force, and the media cycle of the letter that set them: they act from the next sample boundary (R328). -/
  params : SMap Int := []
  live : SMap Int := []
  setCyc : Nat := 0
  stopped : Bool := false
  stopAt : Nat := 0
  trip : Bool := false
  ovlTrip : Bool := false
  gate : Bool := false
  /-- BT of the restarts within 10 s (R292). -/
  restarts : List Nat := []
  gLim : Int := 0
  /-- BT from which g_lim ramps up from −20 dB after a restart (R292). -/
  rampFrom : Option Nat := none
  /-- BT from which g_lim has stayed at −lim_max with the current above i_rated (R293). -/
  limDeep : Option Nat := none
  overload : Bool := false
  /-- BT of the last limiter update (R293). -/
  limAt : Option Nat := none
  failLoop : Nat := 0
  loopOpen : Bool := false
  earth : Bool := false
  failEarth : Nat := 0
  earthOk : Option Nat := none
  /-- The present 1 s window, by media cycle, and whether it is discarded. -/
  earthWin : Nat := 0
  earthBad : Bool := false
  /-- The fast window judged last; the slow window in progress: fast windows passed, legs whose measurement is discarded (bits 0 and 1), sums of V, A and B (R295). -/
  fastWin : Option Nat := none
  slowN : Nat := 0
  slowBad : Nat := 0
  slowV : Int × Int := (0, 0)
  slowA : Int × Int := (0, 0)
  slowB : Int × Int := (0, 0)
  /-- Streams in SENSE (0 to 3: V, A, B, E), each with the BT from which it has been active again (R297). -/
  sense : List (Nat × Option Nat) := []
  /-- Late edges of its gate pins reported so far (R290). -/
  modLate : Nat := 0
  legA : Leg := {}
  legB : Leg := {}
  /-- BT until which windows are discarded (R295). -/
  blankBt : Nat := 0
  /-- Noise-shaper errors e1 e2 e3 in 2^-16 phase unit, previous sample, the last two inputs and outputs of the notch, pilot phase in units of 1/(384 · 720720) cycle (R288, R294). -/
  e1 : Int := 0
  e2 : Int := 0
  e3 : Int := 0
  xPrev : Int := 0
  xCur : Int := 0
  notch : List Int := []
  pilot : Nat := 0
  /-- Cycle and switching period of the last period posted. -/
  lastPer : Option (Nat × Nat) := none
  round : Option RoundCh := none
  /-- A test cut short: its step, the BT that step began and the BT of the abort (R304). -/
  fade : Option (Nat × Nat × Nat) := none
deriving DecidableEq, Repr

/-- The states of a supply (POWER SPSTAT). -/
inductive SupState | off | mains | battery | returning
deriving DecidableEq, Repr

/-- The pins of a supply (POWER SUPPLY_PINS). -/
structure SupPins where
  gate : Nat
  cur : W32
  volt : W32
  relay : W32
  batt : Nat
deriving DecidableEq, Repr

/-- A supply (R306 to R309). -/
structure Supply where
  pins : Option SupPins := none
  tid : Option Tid := none
  params : SMap Int := []
  /-- Parameters in force, and the media cycle of the letter that set the others (R328). -/
  live : SMap Int := []
  setCyc : Nat := 0
  enabled : Bool := false
  state : SupState := .off
  /-- Output of the voltage loop in mA, states of the two loops, duty in 2^-16. -/
  iv : Int := 0
  curLoop : Int := 0
  voltLoop : Int := 0
  duty : Nat := 0
  vBus : Int := 0
  /-- The number of the last switching period posted, plus 1. -/
  lastPer : Nat := 0
  sag : Bool := false
  swell : Bool := false
  missed : Bool := false
  /-- The tracker is LOCKED again after RESTORED: BT from which the mains has been stable (R309). -/
  stableFrom : Option Nat := none
  /-- Step of the return to mains and the BT it began. -/
  retStep : Nat := 0
  retBt : Nat := 0
  /-- BT from which the bus has been within 2 % of v_bus. -/
  busOk : Option Nat := none
  relay : Bool := false
  batt : Bool := false
deriving DecidableEq, Repr

/-- A pending night round, in BT (R301). -/
structure Round where
  start : Nat
  stop : Nat
  idle : Nat
  groups : List (List Nat)
  baseline : Bool
  active : Bool
  group : Nat
deriving DecidableEq, Repr

/-- A LINE or POWER record not yet sent (R310, R332): its key, its letterbox and its letter. -/
structure Rec where
  cls : Nat
  kind : Nat
  unitKind : Nat
  unit : Nat
  box : Nat
  lcls : Nat
  body : List W32
deriving DecidableEq, Repr

/-- The PTP servo (R253, R254). -/
structure Servo where
  en : Bool := false
  ring : Nat := 0
  dom : Nat := 0
  media : Bool := false
  pair : Nat := 0
  pairUsed : Bool := false
  lane : Nat := 0
  queue : Nat := 0
  tmpl : Nat := 0
  tmplLen : Nat := 0
  activeB : Bool := false
  /-- A grandmaster's time has been loaded since the references were last not valid. -/
  loaded : Bool := false
  inRange : Nat := 0
  lastSync : Nat := 0
  logInt : Int := 1
  offset : Int := 0
  silent : Bool := false
  /-- Sequence number of the next Delay_Req. -/
  reqSeq : Word := 0
deriving DecidableEq, Repr

/-- Run states of a plug-in (R359 to R361). -/
inductive PlState | ready | sleeping (until' : Nat) | sealWait (addr : Nat) | stopped (at' : Nat) | dead
deriving DecidableEq, Repr

/-- A plug-in (R358): its place in the plug-in pool, its image, its windows (base, writable, length). -/
structure Plugin where
  base : Nat
  size : Nat
  entry : Nat
  codeLen : Nat
  image : List Byte
  windows : List (Nat × Bool × Nat)
  state : PlState := .ready
  /-- BT of the stops within 60 s. -/
  stops : List Nat := []
  a0 : W32 := 0
  a1 : W32 := 0
deriving DecidableEq, Repr

/-- A parcel copy loaded in a depot (R334, R335). -/
structure Parcel where
  id : Nat
  depot : Nat
  base : Nat
  count : Nat
  entries : List Nat
  current : Bool
deriving DecidableEq, Repr

/-- A thread Sheow started: the service it serves, or 0 for a customer; its parcel copy and start address (R390, R395). -/
structure ThreadRole where
  service : Nat
  parcel : Nat
  base : Nat
  entry : Nat
deriving DecidableEq, Repr

/-- A dead-letter log entry e0 to e7 (R336). -/
structure DlEntry where
  e0 : W32
  bt : W64
  e3 : W32
  e4 : W32
  e5 : W32
  e6 : W32
  e7 : W32
deriving DecidableEq, Repr

/-- The firmware update in progress (R376). -/
structure Update where
  stage : Nat := 0
  kind : Nat := 0
  seq : W32 := 0
  enc : Bool := false
  host : BitVec 40 := 0
  len : Nat := 0
  entry : Nat := 0
  body : List Byte := []
  key : List Byte := []
  /-- The bank that holds the running firmware. -/
  bankB : Bool := false
  /-- Sequence, record and key of the image that runs, and the record last swapped from with its length. -/
  runSeq : W32 := 0
  runKey : List Byte := []
  runHost : BitVec 40 := 0
  runLen : Nat := 0
  oldHost : Option (BitVec 40 × Nat) := none
  /-- BT at which a swap set halted, and PMDET.en before it (R376, R377). -/
  haltAt : Nat := 0
  det : Bool := false
deriving DecidableEq, Repr

/-- A depot takeover in progress (R378, R390): the depots and the pairs frozen in f. -/
structure Move where
  f : Nat
  sp : Nat
  pairs : BitVec 8
deriving DecidableEq, Repr

/-- Sheow: the firmware's tables. -/
structure Sheow where
  state : ShState := .down
  epoch : BitVec 8 := 0
  halted : Bool := false
  boxes : SMap Box := []
  reportBox : SMap Nat := []
  replyTmo : Nat := 100
  pollMs : Nat := 10
  lastPoll : Nat := 0
  turn : Nat := 0
  regions : List Region := []
  place : SMap W32 := []
  spares : W32 := 0
  failed : W32 := 0
  /-- Depots whose present stall or mismatch Sheow has answered. -/
  told : W32 := 0
  moves : List Move := []
  parcels : List Parcel := []
  roles : SMap (Option ThreadRole) := []
  zones : SMap Zone := []
  zthreads : SMap ZThread := []
  streamsIn : SMap (Option StreamIn) := []
  streamsOut : SMap (Option StreamOut) := []
  store : List StoreMsg := []
  storeSealed : Bool := false
  alarm : Bool := false
  /-- The last EVAC report, as its body words. -/
  evacSent : List W32 := []
  /-- The sample grid of R25: BT and cycle of its first point; the last valid PMK3 boundary; BT from which PMK3 is valid again. -/
  grid : Option (Nat × Nat) := none
  lastB : Nat × Nat := (0, 0)
  pmkSeen : Option Nat := none
  chans : SMap Chan := []
  supplies : SMap Supply := []
  /-- The words a relay chain holds, by SER pin (R285). -/
  chains : SMap Word := []
  /-- By pin of a sense link: the last bit of each of its streams and how many equal bits ended with it (R285, R297). -/
  runs : SMap (List (Bool × Nat)) := []
  round : Option Round := none
  records : List Rec := []
  recDropped : Nat := 0
  /-- Keys of the RAISED and CLEARED records made in the present second (R311). -/
  sentNow : List (Nat × Nat × Nat × Nat) := []
  flushSec : Nat := 0
  servo : Servo := {}
  update : Update := {}
  keys : SMap (List W32) := []
  plugins : SMap (Option Plugin) := []
  plTurn : Nat := 0
  dlLog : List DlEntry := []
  dlOver : Nat := 0
deriving DecidableEq, Repr

/-! ### Clocks and the whole state -/

/-- BT, clock frequencies in Hz (0 while stopped), cycle counts since reset and their fractions (R16, R30, R64). The frequencies after reset are the model's choice within Tables 1.3 and 16.3 (DESIGN CHOICE). -/
structure Clk where
  bt : Nat := 0
  eHz : Nat := 1200000000
  fHz : Nat := 600000000
  pHz : Nat := 1000000000
  hHz : Nat := 400000000
  ecyc : Nat := 0
  fcyc : Nat := 0
  pcyc : Nat := 0
  hcyc : Nat := 0
  eAcc : Nat := 0
  fAcc : Nat := 0
  pAcc : Nat := 0
  hAcc : Nat := 0
  /-- 8-TCLK rotations counted by the pin unit while ECLK is stopped (R194). -/
  tRot : Nat := 0
deriving DecidableEq, Repr

/-- The block. -/
structure State where
  pending : List Instr
  clk : Clk
  straps : Straps
  inReset : Bool
  dft : Bool
  deps : SMap Depot
  xch : Xch
  seals : SealUnit
  srt : Sorter
  pmk : Pmk
  pins : PinUnit
  lan : Lanes
  irq : Irq
  pwr : Pwr
  sec : Sec
  dbg : Dbg
  boot : Boot
  pm : Pm
  sheow : Sheow
  umsgs : List UnitMsg
  hrsp : List HostRsp
  /-- What the last register read command returned to its agent (the read data of the register bus). -/
  rdata : W32
  /-- The model's own counter of free values taken (no piece of the hardware). -/
  free : Nat
deriving DecidableEq, Repr

/-- The straps of the reset state: an FL512 with every strap 0. -/
def Straps.zero : Straps :=
  { build := .fl512, twinCfg := 0, pmTwin := false, lifecycle := 0, frankHash := 0, bootList := 0 }

/-- The machine right after reset: every register at its reset value, every memory listing nothing, the queue empty. -/
def State.reset : State :=
  { pending := [], clk := {}, straps := Straps.zero, inReset := false, dft := false, deps := [], xch := {}, seals := {}, srt := {},
    pmk := {}, pins := {}, lan := {}, irq := {}, pwr := {}, sec := {}, dbg := {}, boot := {}, pm := {}, sheow := {}, umsgs := [], hrsp := [], rdata := 0, free := 0 }

end Sys2Proof.Machine
end

