-- ==== Sys2Proof/Machine/Ops.lean ====
section
/-! DEFINITION. Named operations over the state that every family uses: builds, time, records by key, domains, events, thread completion and faults. -/
namespace Sys2Proof.Machine

/-- The outcome of a step. -/
abbrev Out := Host.Outcome State Fault Refusal

/-! ### Words -/

/-- The field of n bits from bit lo, as a number. -/
def fld {w : Nat} (v : BitVec w) (lo n : Nat) : Nat := (v.toNat >>> lo) % 2 ^ n

/-- Bit i of a word. -/
def bitAt {w : Nat} (v : BitVec w) (i : Nat) : Bool := v.getLsbD i

/-- v with bit i set. -/
def setBit {w : Nat} (v : BitVec w) (i : Nat) : BitVec w := v ||| (BitVec.ofNat w 1 <<< i)

/-- v with bit i cleared. -/
def clrBit {w : Nat} (v : BitVec w) (i : Nat) : BitVec w := v &&& ~~~ (BitVec.ofNat w 1 <<< i)

/-- v with bit i equal to b. -/
def putBit {w : Nat} (v : BitVec w) (i : Nat) (b : Bool) : BitVec w := if b then setBit v i else clrBit v i

/-- v + 1, saturating at all ones. -/
def satInc {w : Nat} (v : BitVec w) : BitVec w := if v = BitVec.allOnes w then v else v + 1

/-- v + n, saturating at all ones. -/
def satAdd {w : Nat} (v : BitVec w) (n : Nat) : BitVec w :=
  if 2 ^ w ≤ v.toNat + n then BitVec.allOnes w else v + BitVec.ofNat w n

/-- A truth value as the number 0 or 1. -/
def b2n (b : Bool) : Nat := if b then 1 else 0

/-- The integer square root, by bits from the top; up to 2^40 − 1. -/
def isqrt (n : Nat) : Nat := (List.range 40).reverse.foldl (fun r i => if (r + 2 ^ i) * (r + 2 ^ i) ≤ n then r + 2 ^ i else r) 0

/-- The n low bytes of a number, least significant first. -/
def numBytes (v : Nat) : Nat → List Byte
  | 0 => []
  | n + 1 => BitVec.ofNat 8 v :: numBytes (v / 256) n

/-- The n bytes of a number, most significant first. -/
def netBytes (v n : Nat) : List Byte := (numBytes v n).reverse

/-- Replace bytes from offset o. -/
def putBytes (bs : List Byte) (o : Nat) (v : List Byte) : List Byte := bs.take o ++ v ++ bs.drop (o + v.length)

/-- Bytes as words, low byte first, and words as bytes. -/
def bytesWords : List Byte → List Word
  | a :: b :: r => (b ++ a) :: bytesWords r
  | [a] => [a.setWidth 16]
  | [] => []
def wordBytes (ws : List Word) : List Byte := ws.flatMap fun w => [w.extractLsb' 0 8, w.extractLsb' 8 8]

/-- The words of a value, low word first. -/
def words64 (v : W64) : List Word := [v.extractLsb' 0 16, v.extractLsb' 16 16, v.extractLsb' 32 16, v.extractLsb' 48 16]
def words32 (v : W32) : List Word := [v.extractLsb' 0 16, v.extractLsb' 16 16]

/-- The list with the element at position i replaced. -/
def setAt {α : Type} : List α → Nat → α → List α
  | [], _, _ => []
  | _ :: r, 0, v => v :: r
  | x :: r, i + 1, v => x :: setAt r i v

/-! ### Builds (Table 0.1) -/

def Build.depots : Build → Nat | .fl128 => 8 | .fl256 => 16 | .fl512 => 32
def Build.banks : Build → Nat | .fl128 => 16 | .fl256 => 32 | .fl512 => 64
def Build.lanes : Build → Nat | .fl128 => 2 | .fl256 => 4 | .fl512 => 8
def Build.pins : Build → Nat | .fl128 => 192 | .fl256 => 384 | .fl512 => 768

/-- ID_VERSION of a build (Tables 0.1, 0.3). -/
def versionOf : Build → W32 | .fl512 => 0x20000203 | .fl256 => 0x10000203 | .fl128 => 0x08000203

def State.nDep (s : State) : Nat := Build.depots s.straps.build
def State.nBank (s : State) : Nat := Build.banks s.straps.build
def State.nLane (s : State) : Nat := Build.lanes s.straps.build
def State.nPin (s : State) : Nat := Build.pins s.straps.build

/-! ### Time -/

/-- BT as the 64-bit register. -/
def State.bt64 (s : State) : W64 := BitVec.ofNat 64 s.clk.bt
/-- The number of the rotation (R64). -/
def State.rot (s : State) : Nat := s.clk.ecyc / 8
/-- The rotation the pin unit counts: 8 TCLK cycles a rotation while ECLK is stopped (R194). -/
def State.pinRot (s : State) : Nat := s.rot + s.clk.tRot / 8
/-- The microsecond tick count (R449). -/
def State.usTick (s : State) : Nat := s.clk.bt / 9600
/-- One millisecond in BT. -/
def msBt : Nat := 9600000
/-- One second in BT. -/
def secBt : Nat := 9600000000

/-! ### Depots and threads -/

def depOf (t : Tid) : Nat := fld t 7 5
def idxOf (t : Tid) : Nat := fld t 0 7
def engOf (t : Tid) : Nat := fld t 3 4
/-- The tid of depot d, index i (R63). -/
def tidOf (d i : Nat) : Tid := BitVec.ofNat 12 (d * 128 + i % 128)

def State.dep (s : State) (d : Nat) : Depot := s.deps.get d {}
def State.setDep (s : State) (d : Nat) (D : Depot) : State := { s with deps := s.deps.set d D {} }
def Depot.thr (D : Depot) (i : Nat) : Thread := D.threads.get i (Thread.reset i)
def Depot.setThr (D : Depot) (i : Nat) (h : Thread) : Depot := { D with threads := D.threads.set i h (Thread.reset i) }
def State.thr (s : State) (t : Tid) : Thread := (s.dep (depOf t)).thr (idxOf t)
def State.setThr (s : State) (t : Tid) (h : Thread) : State :=
  s.setDep (depOf t) ((s.dep (depOf t)).setThr (idxOf t) h)

/-- Whether depot d is set to twin, and present (Table 3.7, R4). -/
def State.twin (s : State) (d : Nat) : Bool := decide (d < s.nDep) && bitAt s.straps.twinCfg d

/-- A follower thread of a twin depot: its engine is odd (R80). -/
def State.follower (s : State) (t : Tid) : Bool := s.twin (depOf t) && engOf t % 2 == 1

/-- A thread of a frozen pair (R388). -/
def State.frozen (s : State) (t : Tid) : Bool := bitAt (s.dep (depOf t)).frozen (engOf t / 2)

/-- A depot of the build whose window answers: powered, reset sideband not asserted (R78, R403, R434). -/
def State.depUp (s : State) (d : Nat) : Bool :=
  decide (d < s.nDep) && (s.dep d).powered && !(s.dep d).rst && !s.inReset

/-- The depot can accept messages (Table 5.2). -/
def State.depRun (s : State) (d : Nat) : Bool := s.depUp d && (s.dep d).state == .run

/-- The depot issues: in RUN, ECLK running, not frozen by a transfer (R378). -/
def State.depIssues (s : State) (d : Nat) : Bool :=
  s.depRun d && s.clk.eHz != 0 && (s.dep d).xfer.phase != .freeze

/-- A thread is ready (R68): RUNNING in a depot that issues, not a follower, its pair not frozen. -/
def State.ready (s : State) (t : Tid) : Bool :=
  s.depIssues (depOf t) && (s.thr t).state == .running && !s.follower t && !s.frozen t

/-- A thread whose pending operation can end: its depot up, not a follower, its pair not frozen, no transfer freeze. -/
def State.live (s : State) (t : Tid) : Bool :=
  s.depUp (depOf t) && s.clk.eHz != 0 && (s.dep (depOf t)).xfer.phase != .freeze && !s.follower t && !s.frozen t

/-- The slice of thread index i with slice register v: first word in the engine memories of the depot, and size (R81). -/
def sliceBase (i : Nat) (v : W32) : Nat := 8192 * (i / 8) + 256 * fld v 0 5
def sliceSize (v : W32) : Nat := 256 * 2 ^ fld v 8 3
def sliceOk (v : W32) : Bool := decide (fld v 8 3 ≤ 5) && fld v 0 5 % 2 ^ fld v 8 3 == 0

/-- The harts of the Postmaster (R338). -/
def State.hart (s : State) (h : Nat) : Hart := s.pm.harts.get h {}
def State.setHart (s : State) (h : Nat) (x : Hart) : State := { s with pm := { s.pm with harts := s.pm.harts.set h x {} } }

/-! ### Events -/

def State.depEvt (s : State) (d b : Nat) : State :=
  s.setDep d { s.dep d with fstat := setBit (s.dep d).fstat b }
def State.cmdErr (s : State) (d : Nat) : State := s.depEvt d 5
def State.srtEvt (s : State) (b : Nat) : State := { s with srt := { s.srt with evt := setBit s.srt.evt b } }
def State.sealEvt (s : State) (b : Nat) : State := { s with seals := { s.seals with evt := setBit s.seals.evt b } }
def State.pinEvt (s : State) (b : Nat) : State := { s with pins := { s.pins with evt := setBit s.pins.evt b } }
def State.pwrEvt (s : State) (b : Nat) : State := { s with pwr := { s.pwr with evt := setBit s.pwr.evt b } }
def State.secEvt (s : State) (b : Nat) : State := { s with sec := { s.sec with evt := setBit s.sec.evt b } }
def State.dbgEvt (s : State) (b : Nat) : State := { s with dbg := { s.dbg with evt := setBit s.dbg.evt b } }
def State.safeEvt (s : State) (b : Nat) : State := { s with irq := { s.irq with safe := setBit s.irq.safe b } }

/-- Take a free value: the counter advances. -/
def State.tick1 (s : State) : State := { s with free := s.free + 1 }

/-! ### Agents and domains (R31, R409 to R412) -/

/-- The agent whose banks are used: the pair uses the bank of Postmaster A (R31). -/
def State.who (s : State) (ag : Agent) : Agent := if ag = .pmB ∧ s.straps.pmTwin then .pmA else ag

/-- The key of an agent's bank. -/
def bankKey : Agent → Nat | .pmA => 0 | .pmB => 1 | .hostS => 2 | .hostN => 3 | .dbg => 4

/-- Agent identities (R338, Table 16.2, Chapter 15). -/
def agentId : Agent → BitVec 13 | .pmA => 0x1000 | .pmB => 0x1001 | .hostS => 0x1010 | .hostN => 0x1011 | .dbg => 0x1020

def isPm : Agent → Bool | .pmA => true | .pmB => true | _ => false

/-- A secure agent (R409). -/
def State.secureAgent (s : State) : Agent → Bool
  | .hostN => false
  | .dbg => s.dbg.level == 3
  | _ => true

/-- Depot d is a normal object (R410). -/
def State.depNormal (s : State) (d : Nat) : Bool := bitAt s.sec.depDom d

/-- An exchange word of region r (Table 15.10). -/
def State.inRegion (s : State) (r w : Nat) : Bool :=
  let lo := s.sec.xregLo.get r 0
  let hi := s.sec.xregHi.get r 0
  bitAt lo 31 && decide (2048 * fld lo 11 11 ≤ w ∧ w < 2048 * (fld lo 11 11 + fld hi 0 12))

/-- A word of a region that an escalation is clearing (R424). -/
def State.zeroising (s : State) (w : Nat) : Bool := s.sec.zdRegs != 0 && (List.range 16).any (fun r => bitAt s.sec.zdRegs r && s.inRegion r w)

/-- A power state powers depot d, bank b, lane l (Table 15.1, R402). -/
def State.wantsDep (s : State) (d : Nat) : PState → Bool
  | .run => true | .trim => bitAt s.pwr.depEn d | .vigil => bitAt s.pwr.vigilDep d | .hold => false | .off => false
def State.wantsBank (s : State) (b : Nat) : PState → Bool
  | .run => true | .trim => bitAt s.pwr.bankEn b | .vigil => bitAt s.pwr.bankEn b | .hold => bitAt s.pwr.bankRet b | .off => false
def State.wantsLane (s : State) (l : Nat) : PState → Bool
  | .run => true | .trim => true | .vigil => bitAt s.pwr.vlanes l | .hold => false | .off => false

/-- The transition in progress powers depot d off (R403). -/
def State.dueOff (s : State) (d : Nat) : Bool := match s.pwr.target with | some t => !s.wantsDep d t | none => false

/-- A normal exchange word (R410): in a normal enabled region and in no secure one. -/
def State.wordNormal (s : State) (w : Nat) : Bool :=
  (List.range 16).any (fun r => s.inRegion r w && bitAt (s.sec.xregLo.get r 0) 30) &&
  !(List.range 16).any (fun r => s.inRegion r w && !bitAt (s.sec.xregLo.get r 0) 30)

/-- A refusal under Table 15.4 sets viol and latches the first (R412). kind: 0 exchange, 1 seal, 2 letterbox, 3 long chute. -/
def State.violation (s : State) (kind : BitVec 3) (id : BitVec 13) (addr : W32) : State :=
  let s := s.secEvt 0
  if s.sec.violValid then s
  else { s with sec := { s.sec with violValid := true, violKind := kind, violAgent := id, violAddr := addr } }

/-- An agent may write the DEP window of depot d: not host normal to a secure depot; debug writes no DEP register (R411, R420, Table 1.2). -/
def State.depWriter (s : State) (ag : Agent) (d : Nat) : Bool :=
  match ag with
  | .hostN => s.depNormal d
  | .dbg => false
  | _ => true

/-- The Postmaster or host secure. -/
def pmOrHostS : Agent → Bool | .pmA => true | .pmB => true | .hostS => true | _ => false

/-- The Postmaster, host secure, or debug at level 3 (R185, R227, R425, Table 15.6). -/
def State.globalWriter (s : State) (ag : Agent) : Bool := pmOrHostS ag || (ag == .dbg && s.dbg.level == 3)

/-! ### Thread completion -/

/-- Where the pc goes after an instruction (R122). -/
inductive Nxt
  | seq
  | jump (pc : Word) (lx : Bool)
deriving DecidableEq, Repr

/-- Loop set i. -/
def Thread.loop (h : Thread) (i : Nat) : LoopSet := (h.loops.toList)[i]?.getD {}
def Thread.setLoop (h : Thread) (i : Nat) (l : LoopSet) : Thread := { h with loops := h.loops.setIfInBounds i l }

/-- The choice of the next pc after an instruction at h.pc completes (R122). -/
def Thread.advance (h : Thread) : Nxt → Thread
  | .jump p lx => { h with pc := p, ldep := if lx && h.ldep != 0 then h.ldep - 1 else h.ldep }
  | .seq =>
    let top := h.ldep.toNat - 1
    let l := h.loop top
    if h.ldep ≠ 0 ∧ h.pc = l.len then
      if 1 < l.lcn then { h.setLoop top { l with lcn := l.lcn - 1 } with pc := l.lst }
      else { h with ldep := h.ldep - 1, pc := h.pc + 1 }
    else { h with pc := h.pc + 1 }

/-- The state a thread takes when its instruction has completed: a STOPPING thread has nothing left to wait for, a stepped one stops towards HALTED, any other runs (R79, R421). -/
def Thread.settle (h : Thread) : Thread :=
  match h.state with
  | .stopping => { h with pend := .none, stepping := false }
  | _ => if h.stepping then { h with state := .stopping, stopTo := .halted, pend := .none, stepping := false }
         else { h with state := .running, pend := .none }

/-- An instruction completes: the pc advances and the thread goes on. -/
def Thread.complete (h : Thread) (n : Nxt) : Thread :=
  ({ h with lastPc := h.pc }.advance n).settle

/-- A thread blocks on a long operation. -/
def Thread.block (h : Thread) (p : Pend) : Thread := { h with state := .blocked, pend := p, lastPc := h.pc }

/-- A precise fault (R89): FAULTED, the code held, the pc at the instruction. -/
def Thread.fault (h : Thread) (c : TFault) : Thread :=
  { h with state := .faulted, tfault := c, pend := .none, stepping := false }

/-- A thread's precise fault; an ECC fault of engine memories sets IRQ_SAFE.eng_ue, of exchange memory its source sets xch_ue (R89, R395). -/
def State.faultThr (s : State) (t : Tid) (c : TFault) : State :=
  let s := s.setThr t ((s.thr t).fault c)
  if c = .eccData ∨ c = .eccCode then s.safeEvt 2 else s

/-! ### Fetch -/

/-- The fault a fetch at pc raises (R88). -/
def Depot.fetchFault (D : Depot) (pc : Word) : Option TFault :=
  if 0xBFFF < pc.toNat then some .codeRange
  else if D.codeErr.get pc.toNat none = some .double then some .eccCode
  else none

/-- A fetch that corrects a single error counts it, and the store writes the instruction back (R88). -/
def Depot.fetchCount (D : Depot) (pc : Word) : Depot :=
  if D.codeErr.get pc.toNat none = some .single then
    { D with eccCode := satInc D.eccCode, codeErr := D.codeErr.set pc.toNat none none }
  else D

/-- The instruction word at address a of the code store. -/
def Depot.codeWord (D : Depot) (a : Nat) : W32 := D.code.read32 (4 * a)

/-- The state after a fetch by thread t at pc: a correction is counted and written back (R88). -/
def State.fetched (s : State) (t : Tid) (pc : Word) : State :=
  if (s.dep (depOf t)).codeErr.get pc.toNat none = some .single then s.setDep (depOf t) ((s.dep (depOf t)).fetchCount pc) else s

/-- Issue an instruction of thread t: f acts on the state after the fetch, or the fetch faults. A thread that is not ready issues nothing: its slot stays empty (R64). -/
def issue (t : Tid) (s : State) (f : State → Thread → State) : State :=
  if s.ready t then
    let h := s.thr t
    match (s.dep (depOf t)).fetchFault h.pc with
    | some c => s.faultThr t c
    | none => f (s.fetched t h.pc) h
  else s

/-! ### Engine data memory -/

/-- What an instruction on registers and slice does: new registers, slice words read (for ECC), slice writes, next pc; or a fault. Addresses are words of the depot's engine memories. -/
inductive EngRes
  | done (h : Thread) (reads : List Nat) (writes : List (Nat × Word)) (n : Nxt)
  | block (h : Thread) (reads : List Nat) (p : Pend)
  | fault (c : TFault)
deriving DecidableEq, Repr

def Depot.word (D : Depot) (a : Nat) : Word := D.edm.read16 (2 * a)

/-- Count and correct single errors of the words read (R85). -/
def Depot.readCount (D : Depot) : List Nat → Depot
  | [] => D
  | a :: r =>
    if D.edmErr.get a none = some .single then
      Depot.readCount { D with eccData := satInc D.eccData, edmErr := D.edmErr.set a none none } r
    else Depot.readCount D r

/-- Write slice words; a write replaces the word and its check bits. -/
def Depot.writeWords (D : Depot) : List (Nat × Word) → Depot
  | [] => D
  | (a, v) :: r => Depot.writeWords { D with edm := D.edm.write16 (2 * a) v, edmErr := D.edmErr.set a none none } r

/-- A register and slice instruction of thread t: all sources read before any write (R107), precise faults (R89), ECC_DATA on a double error read (R85). -/
def engine (t : Tid) (s : State) (f : Depot → Thread → EngRes) : State :=
  issue t s fun s h =>
    let D := s.dep (depOf t)
    match f D h with
    | .fault c => s.faultThr t c
    | .done h' rs ws n =>
      if rs.any (fun a => D.edmErr.get a none == some .double) then s.faultThr t .eccData
      else s.setDep (depOf t) (((D.readCount rs).writeWords ws).setThr (idxOf t) (h'.complete n))
    | .block h' rs p =>
      if rs.any (fun a => D.edmErr.get a none == some .double) then s.faultThr t .eccData
      else s.setDep (depOf t) ((D.readCount rs).setThr (idxOf t) (h'.block p))

/-- A register instruction: new registers, then the next instruction. -/
def alu (t : Tid) (s : State) (f : Thread → Thread) : State :=
  engine t s fun _ h => .done (f h) [] [] .seq

/-- The reset of a thread by START (Table 3.5): the registers, the fault code, the buffers. The slice, priority and timeout registers stay. -/
def Thread.started (h : Thread) (pc : Word) : Thread :=
  { state := .running, w := (Vector.replicate 16 (0 : Word)).set 15 (BitVec.ofNat 16 (sliceSize h.slice)),
    snap := h.snap, pc := pc, lastPc := pc, boost := h.boost, prio := h.prio, slice := h.slice, tmo := h.tmo }

/-- A thread that has become IDLE: nothing pending, buffers empty (R80, R97, R98). The manual has START clear the fault code and is silent on ABORT and OFF: here an IDLE thread shows none (DESIGN CHOICE). -/
def Thread.idled (h : Thread) : Thread :=
  { h with state := .idle, pend := .none, staging := [], stepping := false, boost := none, tfault := .none }

end Sys2Proof.Machine
end

