-- ==== Sys2Proof/Machine/Flags.lean ====
section
/-! DEFINITION. Status bits, condition codes, saturation, rounding and the flag results of every arithmetic operation of Chapter 4. -/
namespace Sys2Proof.Machine

/-- STS bits (Table 4.2). -/
def stsN (s : Word) : Bool := bitAt s 3
def stsZ (s : Word) : Bool := bitAt s 2
def stsC (s : Word) : Bool := bitAt s 1
def stsV (s : Word) : Bool := bitAt s 0
def stsSatEn (s : Word) : Bool := bitAt s 8
def stsQ15 (s : Word) : Bool := bitAt s 9
def stsRnd (s : Word) : Nat := fld s 10 2

def optBit (s : Word) (i : Nat) : Option Bool → Word
  | none => s
  | some b => putBit s i b

/-- Set the flags an instruction names; the others stay (Chapter 4, Arithmetic and logic). -/
def setFlags (s : Word) (u : FlagUpd) : Word :=
  optBit (optBit (optBit (optBit s 3 u.n) 2 u.z) 1 u.c) 0 u.v

/-- The sticky SAT bit (R101, R105). -/
def setSat (s : Word) (b : Bool) : Word := if b then setBit s 7 else s

/-- Whether condition cc holds; none for the reserved code 15 (Table 4.12). -/
def condHolds (s : Word) (cc : Cond) : Option Bool :=
  let n := stsN s
  let z := stsZ s
  let c := stsC s
  let v := stsV s
  match cc.val with
  | 0 => some true
  | 1 => some z
  | 2 => some (!z)
  | 3 => some c
  | 4 => some (!c)
  | 5 => some n
  | 6 => some (!n)
  | 7 => some v
  | 8 => some (!v)
  | 9 => some (c && !z)
  | 10 => some (!c || z)
  | 11 => some (n == v)
  | 12 => some (n != v)
  | 13 => some (!z && (n == v))
  | 14 => some (z || (n != v))
  | _ => none

/-- A word result with its flags: value, updates of N Z C V, whether SAT sets. -/
structure AluRes where
  val : Word
  upd : FlagUpd
  sat : Bool := false
deriving DecidableEq, Repr

/-- Saturation of an exact result to w bits (R105): value, V, SAT. -/
def saturate (w : Nat) (satEn : Bool) (x : Int) : BitVec w × Bool × Bool :=
  let lo : Int := -(2 ^ (w - 1) : Int)
  let hi : Int := (2 ^ (w - 1) : Int) - 1
  if x < lo ∨ hi < x then
    if satEn then (BitVec.ofInt w (if x < lo then lo else hi), true, true)
    else (BitVec.ofInt w x, true, false)
  else (BitVec.ofInt w x, false, false)

/-- Z and N of a 16-bit result (R111). -/
def zn (r : Word) : FlagUpd := { z := some (r == 0), n := some r.msb }

/-- A saturating word result: Z and N from the stored result, V and SAT by R105, C as given. -/
def satRes (satEn : Bool) (x : Int) (c : Option Bool) : AluRes :=
  let r := saturate 16 satEn x
  { val := r.1, upd := { zn r.1 with c := c, v := some r.2.1 }, sat := r.2.2 }

/-- A plain word result with Z and N. -/
def znRes (r : Word) : AluRes := { val := r, upd := zn r }

def resAdd (se : Bool) (a b : Word) : AluRes :=
  satRes se (a.toInt + b.toInt) (some (decide (65536 ≤ a.toNat + b.toNat)))
def resAdc (se c : Bool) (a b : Word) : AluRes :=
  satRes se (a.toInt + b.toInt + b2n c) (some (decide (65536 ≤ a.toNat + b.toNat + b2n c)))
def resSub (se : Bool) (a b : Word) : AluRes :=
  satRes se (a.toInt - b.toInt) (some (decide (b.toNat ≤ a.toNat)))
def resSbb (se c : Bool) (a b : Word) : AluRes :=
  satRes se (a.toInt - b.toInt - b2n (!c)) (some (decide (b.toNat + b2n (!c) ≤ a.toNat)))
def resNeg (se : Bool) (a : Word) : AluRes := resSub se 0 a
def resAbs (se : Bool) (a : Word) : AluRes := satRes se (a.toInt.natAbs : Int) none

/-- C of a shift by n: the last bit out, unchanged for 0 (R112). -/
def shlC (a : Word) (n : Nat) : Option Bool := if n = 0 then none else some (decide (n ≤ 16) && bitAt a (16 - n))
def shrC (a : Word) (n : Nat) : Option Bool := if n = 0 then none else some (bitAt a (n - 1))
def sarC (a : Word) (n : Nat) : Option Bool := if n = 0 then none else some (if n ≤ 16 then bitAt a (n - 1) else a.msb)

def resShl (se : Bool) (a : Word) (n : Nat) : AluRes := satRes se (a.toInt * 2 ^ n) (shlC a n)
def resShr (a : Word) (n : Nat) : AluRes :=
  let r := a >>> n
  { val := r, upd := { zn r with c := shrC a n } }
def resSar (a : Word) (n : Nat) : AluRes :=
  let r := a.sshiftRight n
  { val := r, upd := { zn r with c := sarC a n } }
/-- ROL: C receives the new d[0], for every amount (R112). -/
def resRol (a : Word) (n : Nat) : AluRes :=
  let r := a.rotateLeft n
  { val := r, upd := { zn r with c := some (bitAt r 0) } }

/-- Parity of the 16 bits. -/
def parity (a : Word) : Bool := (List.range 16).foldl (fun x i => x != bitAt a i) false

/-- Bits [m − 1:0] of a in reverse order, the others 0 (BREV). -/
def bitReverse (a : Word) (m : Nat) : Word :=
  (List.range m).foldl (fun r i => if bitAt a (m - 1 - i) then setBit r i else r) 0

/-- Leading zeros, 0 to 16. -/
def leadZeros (a : Word) : Nat := if a = 0 then 16 else 15 - Nat.log2 a.toNat

/-- Rounding of a signed value when its low k bits are discarded (R104). -/
def roundBy (rnd : Nat) (v : Int) (k : Nat) : Int :=
  if k = 0 then v else
  let q := v.fdiv (2 ^ k)
  let rem := v - q * 2 ^ k
  let half : Int := 2 ^ (k - 1)
  if rnd = 0 then q
  else if rnd = 1 then (if half ≤ rem then q + 1 else q)
  else if rnd = 2 then (if half < rem ∨ (rem = half ∧ q % 2 = 1) then q + 1 else q)
  else (if v < 0 ∧ rem ≠ 0 then q + 1 else q)

/-- An accumulator result: modulo 2^40, Z and N from it, V when the exact value is outside the signed 40-bit range (R106, R117). -/
def accRes (x : Int) : BitVec 40 × FlagUpd :=
  let r := BitVec.ofInt 40 x
  (r, { z := some (r == 0), n := some r.msb, v := some (decide (x < -(2 ^ 39) ∨ 2 ^ 39 - 1 < x)) })

/-- The product p of MUL, MAC, MSU (Table 4.10, R103). -/
def product (q15 : Bool) (a b : Word) : Int := a.toInt * b.toInt * (if q15 then 2 else 1)

/-- The 16-bit division (Table 4.11): quotient, remainder, V. -/
def divRes (a b : Word) : Word × Word × Bool :=
  if b = 0 then (if 0 ≤ a.toInt then 0x7FFF else 0x8000, a, true)
  else if a = 0x8000 ∧ b = 0xFFFF then (0x7FFF, 0, true)
  else (BitVec.ofInt 16 (a.toInt.tdiv b.toInt), BitVec.ofInt 16 (a.toInt.tmod b.toInt), false)

/-- The 32-bit division (Table 4.11); the low word of the dividend is the remainder when b is 0. -/
def divlRes (a : W32) (b : Word) : Word × Word × Bool :=
  if b = 0 then (if 0 ≤ a.toInt then 0x7FFF else 0x8000, a.extractLsb' 0 16, true)
  else
    let q := a.toInt.tdiv b.toInt
    if q < -32768 ∨ 32767 < q then (if q < 0 then 0x8000 else 0x7FFF, 0, true)
    else (BitVec.ofInt 16 q, BitVec.ofInt 16 (a.toInt.tmod b.toInt), false)

/-- One CRC step over the low nb bits of data (R132). -/
def crcBitF (w : Nat) (poly : Word) (crc : Word) (d : Bool) : Word :=
  let fb := bitAt crc (w - 1) != d
  let m := BitVec.ofNat 16 (2 ^ w - 1)
  let c := (crc <<< 1) &&& m
  if fb then c ^^^ (poly &&& m) else c
def crcBitR (w : Nat) (poly : Word) (crc : Word) (d : Bool) : Word :=
  let fb := bitAt crc 0 != d
  let m := BitVec.ofNat 16 (2 ^ w - 1)
  let c := crc >>> 1
  if fb then c ^^^ (poly &&& m) else c
def crcStep (w : Nat) (refl : Bool) (poly crc data : Word) (nb : Nat) : Word :=
  let c := crc &&& BitVec.ofNat 16 (2 ^ w - 1)
  if refl then (List.range nb).foldl (fun c i => crcBitR w poly c (bitAt data i)) c
  else (List.range nb).foldl (fun c i => crcBitF w poly c (bitAt data (nb - 1 - i))) c

/-- CRC-32 over a pair, first word first (R133). -/
def crc32BitR (crc : W32) (d : Bool) : W32 := if bitAt crc 0 != d then (crc >>> 1) ^^^ 0xEDB88320 else crc >>> 1
def crc32BitF (crc : W32) (d : Bool) : W32 := if bitAt crc 31 != d then (crc <<< 1) ^^^ 0x04C11DB7 else crc <<< 1
def crc32Word (refl : Bool) (crc : W32) (d : Word) : W32 :=
  if refl then (List.range 16).foldl (fun c i => crc32BitR c (bitAt d i)) crc
  else (List.range 16).foldl (fun c i => crc32BitF c (bitAt d (15 - i))) crc

/-- One byte into the reflected CRC-32. -/
def crc32Byte (c : W32) (b : Byte) : W32 := (List.range 8).foldl (fun c i => crc32BitR c (bitAt b i)) c
/-- CRC-32 of a byte string: reflected, initial value and final inversion all ones (Table 13.2; the FCS of IEEE 802.3). -/
def crc32Of (bs : List Byte) : W32 := ~~~ (bs.foldl crc32Byte 0xFFFFFFFF)

end Sys2Proof.Machine
end

