-- ==== Sys2Proof/Machine/Operands.lean ====
section
/-! DEFINITION. Operand forms of the engine instructions: registers, pairs, accumulators, special registers, slice addresses, pointers, exchange addresses, target words. -/
namespace Sys2Proof.Machine

def Thread.reg (h : Thread) (r : Fin 16) : Word := h.w[r]
def Thread.setReg (h : Thread) (r : Fin 16) (v : Word) : Thread := { h with w := h.w.set r v }
/-- The register n, n below 16; used for the later registers of pairs, triples and quads. -/
def Thread.regN (h : Thread) (n : Nat) : Word := h.w.toList[n]?.getD 0
def Thread.setRegN (h : Thread) (n : Nat) (v : Word) : Thread := { h with w := h.w.setIfInBounds n v }
/-- The 32-bit pair at an even base (Chapter 4, Data and arithmetic). -/
def Thread.pair (h : Thread) (r : Fin 16) : W32 := h.regN (r.val + 1) ++ h.reg r
def Thread.setPair (h : Thread) (r : Fin 16) (v : W32) : Thread :=
  (h.setReg r (v.extractLsb' 0 16)).setRegN (r.val + 1) (v.extractLsb' 16 16)
/-- Base rules of R102. -/
def pairOk (r : Fin 16) : Bool := r.val % 2 == 0
def tripleOk (r : Fin 16) : Bool := decide (r.val ≤ 13)
def quadOk (r : Fin 16) : Bool := r.val % 4 == 0
def Thread.triple (h : Thread) (r : Fin 16) : BitVec 48 := h.regN (r.val + 2) ++ h.regN (r.val + 1) ++ h.reg r
def Thread.setTriple (h : Thread) (r : Fin 16) (v : BitVec 48) : Thread :=
  ((h.setReg r (v.extractLsb' 0 16)).setRegN (r.val + 1) (v.extractLsb' 16 16)).setRegN (r.val + 2) (v.extractLsb' 32 16)
def Thread.quad (h : Thread) (r : Fin 16) : W64 :=
  h.regN (r.val + 3) ++ h.regN (r.val + 2) ++ h.regN (r.val + 1) ++ h.reg r

def Thread.acc (h : Thread) (i : Fin 2) : BitVec 40 := h.ac[i]
def Thread.setAcc (h : Thread) (i : Fin 2) (v : BitVec 40) : Thread := { h with ac := h.ac.set i v }
def Thread.flags (h : Thread) (u : FlagUpd) : Thread := { h with sts := setFlags h.sts u }

/-- Write a word result with its flags. -/
def Thread.put (h : Thread) (d : Fin 16) (r : AluRes) : Thread :=
  { h with w := h.w.set d r.val, sts := setSat (setFlags h.sts r.upd) r.sat }
/-- Take only the flags of a result. -/
def Thread.putF (h : Thread) (r : AluRes) : Thread := { h with sts := setFlags h.sts r.upd }
/-- Write an accumulator result with its flags. -/
def Thread.putAcc (h : Thread) (i : Fin 2) (r : BitVec 40 × FlagUpd) : Thread := (h.setAcc i r.1).flags r.2

/-- The step of a pointer of modulo length L (R115). -/
def stepPtr (p l : Word) (step : Int) : Word :=
  if l = 0 ∨ 8192 < l.toNat then p + BitVec.ofInt 16 step
  else
    let k := Nat.log2 (l.toNat - 1) + 1
    let k := if l = 1 then 0 else k
    let base := p.toNat / 2 ^ k * 2 ^ k
    let off := ((p.toNat % 2 ^ k : Nat) + step) % (l.toNat : Int)
    BitVec.ofNat 16 (base + off.toNat)

def Thread.ptr (h : Thread) (n : Fin 4) : Word := h.ap[n]
def Thread.stepAp (h : Thread) (n : Fin 4) (step : Int) : Thread :=
  { h with ap := h.ap.set n (stepPtr h.ap[n] h.am[n] step) }

/-- The engine memory word of slice address a, when it lies below the slice size (R83). -/
def sliceWord (t : Tid) (h : Thread) (a : Nat) : Option Nat :=
  if a < sliceSize h.slice then some (sliceBase (idxOf t) h.slice + a) else none

/-- The slice address of LD, ST, LDD, STD (Table 4.8). -/
def dataAddr (h : Thread) (b : Fin 16) (sp : Space) (off : Word) : Nat :=
  if sp = 0 then (h.reg b + off).toNat else off.toNat

/-- The fault of a load's or store's space field: 1 selects the code store, 3 is reserved (R114). -/
def loadSpace (sp : Space) : Option TFault := if sp = 1 ∨ sp = 3 then some .illegal else none
def storeSpace (sp : Space) : Option TFault :=
  if sp = 1 then some .codeWrite else if sp = 3 then some .illegal else none
/-- The same for LDP and STP, whose sp must be 0 or 1. -/
def loadSpaceP (sp : Space) : Option TFault := if sp = 0 then none else some .illegal
def storeSpaceP (sp : Space) : Option TFault :=
  if sp = 0 then none else if sp = 1 then some .codeWrite else some .illegal

/-- STS as MVF reads it: BST while a boost is in force (Table 4.2). -/
def Thread.stsRead (h : Thread) : Word := putBit h.sts 14 h.boost.isSome

/-- The special register n of Table 4.12; none for 29 and above. -/
def Thread.special (t : Tid) (h : Thread) (n : Nat) : Option Word :=
  if n < 4 then some (h.ap.toList[n]?.getD 0)
  else if n < 8 then some (h.am.toList[n - 4]?.getD 0)
  else if n = 8 then some (h.xb[0].extractLsb' 0 16)
  else if n = 9 then some ((h.xb[0].extractLsb' 16 6).setWidth 16)
  else if n = 10 then some (h.xb[1].extractLsb' 0 16)
  else if n = 11 then some ((h.xb[1].extractLsb' 16 6).setWidth 16)
  else if n = 12 then some h.lk
  else if n = 13 then some h.stsRead
  else if n = 14 then some (h.crcp.extractLsb' 0 16)
  else if n = 15 then some (h.crcp.extractLsb' 16 16)
  else if n < 25 then
    let l := h.loop ((n - 16) / 3)
    some (if n % 3 = 1 then l.lst else if n % 3 = 2 then l.len else l.lcn)
  else if n = 25 then some (h.ldep.setWidth 16)
  else if n = 26 then some (BitVec.ofNat 16 h.pickup.length)
  else if n = 27 then some (BitVec.ofNat 16 h.staging.length)
  else if n = 28 then some (t.setWidth 16)
  else none

/-- Write special register n; none for a read-only or reserved number (R120). Bits a register lacks are dropped. -/
def Thread.setSpecial (h : Thread) (n : Nat) (v : Word) : Option Thread :=
  if n < 4 then some { h with ap := h.ap.setIfInBounds n v }
  else if n < 8 then some { h with am := h.am.setIfInBounds (n - 4) v }
  else if n = 8 then some { h with xb := h.xb.set 0 (h.xb[0].extractLsb' 16 6 ++ v) }
  else if n = 9 then some { h with xb := h.xb.set 0 (v.extractLsb' 0 6 ++ h.xb[0].extractLsb' 0 16) }
  else if n = 10 then some { h with xb := h.xb.set 1 (h.xb[1].extractLsb' 16 6 ++ v) }
  else if n = 11 then some { h with xb := h.xb.set 1 (v.extractLsb' 0 6 ++ h.xb[1].extractLsb' 0 16) }
  else if n = 12 then some { h with lk := v }
  else if n = 13 then some { h with sts := v &&& 0x8F8F }
  else if n = 14 then some { h with crcp := h.crcp.extractLsb' 16 16 ++ v }
  else if n = 15 then some { h with crcp := (v &&& 0x00CF) ++ h.crcp.extractLsb' 0 16 }
  else if n < 25 then
    let i := (n - 16) / 3
    let l := h.loop i
    some (h.setLoop i (if n % 3 = 1 then { l with lst := v } else if n % 3 = 2 then { l with len := v } else { l with lcn := v }))
  else if n = 25 then some { h with ldep := v.extractLsb' 0 2 }
  else none

/-- The exchange word address of an operand (R124). -/
def xaddr (h : Thread) (x : XAddr) : Nat :=
  ((h.xb[x.n]).toNat + (match x.q with | some q => (h.reg q).toNat | none => 0) + x.k.toNat) % 2 ^ 22
/-- For ACQ only k[14:0] is added (R124). -/
def xaddrAcq (h : Thread) (x : XAddr) : Nat := xaddr h { x with k := x.k &&& 0x7FFF }

/-- A chute target word (R126), for a thread of depot d and engine e. -/
inductive Target
  | eng (e c : Nat)
  | long (d l : Nat)
deriving DecidableEq, Repr

/-- The target a word names; none where it raises CHUTE_TARGET. -/
def targetOf (nDep : Nat) (e : Nat) (v : Word) : Option Target :=
  if bitAt v 15 then
    if fld v 13 2 = 0 ∧ fld v 8 5 < nDep then some (.long (fld v 8 5) (fld v 0 8)) else none
  else if fld v 8 6 ≠ 0 then none
  else if bitAt v 14 then
    if fld v 4 4 = 0 then some (.eng e (fld v 0 4)) else none
  else some (.eng (fld v 4 4) (fld v 0 4))

/-- The target word an operand gives. -/
def tgtWord (h : Thread) : TgtOp → Word
  | .imm k => k
  | .reg q => h.reg q

end Sys2Proof.Machine
end

