-- ==== Sys2Proof/Machine/OpsXch.lean ====
section
/-! DEFINITION. Exchange memory accesses, ECC, the seal unit and the sorter's request queue (R149 to R167, R172 to R181). -/
namespace Sys2Proof.Machine

/-! ### Banks and ECC -/

/-- The bank of a word address (R149). -/
def bankOf (w : Nat) : Nat := w / 65536

/-- The build has the bank of word w. -/
def State.bankHere (s : State) (w : Nat) : Bool := decide (bankOf w < s.nBank)

/-- The bank is powered, not clearing, the block not in Hold, and the word not being zeroised (R151, R403 to R405, R424). -/
def State.bankOn (s : State) (w : Nat) : Bool :=
  bitAt s.pwr.bankPow (bankOf w) && !bitAt s.pwr.bankClr (bankOf w) && s.pwr.state != .hold && s.pwr.state != .off && !s.inReset && !s.zeroising w

/-- Every bank of words [b, b + n) answers. -/
def State.ringsOn (s : State) (b n : Nat) : Bool := (List.range 64).all fun k => !decide (bankOf b ≤ k ∧ k ≤ bankOf (b + n - 1)) || s.bankOn (65536 * k)

def xerr (s : State) (pw : Nat) : Option EccErr := s.xch.err.get pw none

/-- Count an uncorrectable error and latch the first since dbe was cleared; IRQ_SAFE.xch_ue (R152, R395). src: 0 agent, 1 scrubber, 2 seal unit. -/
def xdbe (s : State) (pw : Nat) (src : BitVec 3) (id : BitVec 13) : State :=
  let s' := { s with xch := { s.xch with dbeCnt := satInc s.xch.dbeCnt } }
  let s' := if bitAt s.seals.evt 1 then s'
    else { s' with xch := { s'.xch with dbeValid := true, dbeAddr := BitVec.ofNat 21 pw, dbeSrc := src ++ id } }
  (s'.sealEvt 1).safeEvt 3

/-- A read of pair-word pw: count a corrected single error and schedule its write-back, or report an uncorrectable one (R152). -/
def xcheck (s : State) (pw : Nat) (src : BitVec 3) (id : BitVec 13) : State × Bool :=
  match xerr s pw with
  | none => (s, true)
  | some .single =>
    ({ s with xch := { s.xch with ceCnt := satInc s.xch.ceCnt },
              srt := { s.srt with house := s.srt.house ++ [(bankOf (2 * pw), pw, s.clk.fcyc, id)] } }, true)
  | some .double => (xdbe s pw src id, false)

/-- The word at exchange word address w; an absent bank reads 0 (R4). -/
def State.xword (s : State) (w : Nat) : Word := if s.bankHere w then s.xch.mem.read16 (2 * w) else 0

/-- Store one word in the array. -/
def State.xput (s : State) (w : Nat) (v : Word) : State :=
  { s with xch := { s.xch with mem := s.xch.mem.write16 (2 * w) v } }

/-- Clear the error mark of a pair-word: its check bits are fresh. -/
def State.xclean (s : State) (pw : Nat) : State :=
  { s with xch := { s.xch with err := s.xch.err.set pw none none } }

/-- Read n words of one pair-word, checked (R150, R152). -/
def xreadW (s : State) (w n : Nat) (src : BitVec 3) (id : BitVec 13) : State × Option (List Word) :=
  if s.bankHere w then
    let r := xcheck s (w / 2) src id
    (r.1, if r.2 then some ((List.range n).map fun i => s.xword (w + i)) else none)
  else (s, some (List.replicate n 0))

/-- Write one word of a pair-word, an indivisible read-modify-write; not on an uncorrectable pair-word (R150, R152). -/
def xwrite1 (s : State) (w : Nat) (v : Word) (src : BitVec 3) (id : BitVec 13) : State × Bool :=
  if s.bankHere w then
    match xerr s (w / 2) with
    | some .double => (xdbe s (w / 2) src id, false)
    | some .single =>
      ((({ s with xch := { s.xch with ceCnt := satInc s.xch.ceCnt } }).xclean (w / 2)).xput w v, true)
    | none => (s.xput w v, true)
  else (s, true)

/-- Write a whole pair-word at an even word address; it clears any error (R152). -/
def xwrite2 (s : State) (w : Nat) (v0 v1 : Word) : State :=
  if s.bankHere w then ((s.xclean (w / 2)).xput w v0).xput (w + 1) v1 else s

/-- Words written by a unit of identity id from word address w upwards, pair-word by pair-word where aligned. -/
def xwriteList (s : State) (id : BitVec 13) (w : Nat) : List Word → State
  | [] => s
  | [a] => (xwrite1 s w a 0 id).1
  | a :: b :: r =>
    if w % 2 = 0 then xwriteList (xwrite2 s w a b) id (w + 2) r
    else xwriteList (xwrite1 s w a 0 id).1 id (w + 1) (b :: r)

/-- n words from word address w, as they stand in the array. -/
def State.xwords (s : State) (w n : Nat) : List Word := (List.range n).map fun i => s.xword (w + i)

/-- Check of a thread's access (R151, R411): none where it takes place, else the state with the refusal recorded. kind 0 exchange, 1 seal. -/
def threadRefused (s : State) (t : Tid) (w : Nat) (kind : BitVec 3) : Option State :=
  if !s.bankHere w then none
  else if !s.bankOn w then some s
  else if s.depNormal (depOf t) && !s.wordNormal w then some (s.violation kind (t.setWidth 13) (BitVec.ofNat 32 w))
  else none

/-! ### Seals -/

/-- The seal word of a held seal (Table 5.3). -/
def sealWord (x : Seal) : Word := 0x8000 ||| (if x.orphan then 0x4000 else 0) ||| x.owner.setWidth 16

def State.sealAt (s : State) (w : Nat) : Option Seal := s.seals.held.get w none
def State.setSeal (s : State) (w : Nat) (x : Option Seal) : State :=
  { s with seals := { s.seals with held := s.seals.held.set w x none } }

/-- The lease load value of an agent in microseconds; 0 gives no lease (R162). -/
def State.lease (s : State) (a : BitVec 13) : Nat :=
  if a.toNat < 4096 then (s.seals.leaseDep.get (a.toNat / 128) 0x3E8).toNat else s.seals.leaseAg.toNat

/-- An agent's own wait priority (R161, Table 5.9). -/
def State.ownPrio (s : State) (a : BitVec 13) : Nat :=
  if a.toNat < 4096 then ((s.dep (a.toNat / 128)).thr (a.toNat % 128)).prio.toNat
  else if a = 0x1030 then fld s.seals.aprio 20 4
  else if a = 0x1001 then fld s.seals.aprio 16 4
  else if a = 0x1000 then fld s.seals.aprio 12 4
  else if a = 0x1010 then fld s.seals.aprio 8 4
  else if a = 0x1011 then fld s.seals.aprio 4 4
  else fld s.seals.aprio 0 4

/-- Effective priority along chains of waits (R167); n bounds the chain, which visits each wait at most once. -/
def State.effPrio (s : State) : Nat → BitVec 13 → Nat
  | 0, a => s.ownPrio a
  | n + 1, a =>
    s.seals.waits.foldl (fun m x =>
      match s.sealAt x.addr with
      | some y => if y.owner = a then Nat.max m (s.effPrio n x.agent) else m
      | none => m) (s.ownPrio a)
def State.prioOf (s : State) (a : BitVec 13) : Nat := s.effPrio s.seals.waits.length a

/-- The mirror write of a seal word; none on an uncorrectable pair-word (R156, R157), nor to a bank that is Off or clearing (R151). -/
def mirror (s : State) (w : Nat) (v : Word) : State := if s.bankOn w then (xwrite1 s w v 2 0).1 else s

/-- Grant seal w to agent a with the given ORPHAN (R157, R162): table, lease, and the mirror, written by mw; the granted word. -/
def grantWith (mw : State → Nat → Word → State) (s : State) (w : Nat) (a : BitVec 13) (orphan : Bool) : State × Word :=
  let e := if s.lease a = 0 then none else some (s.usTick + s.lease a + 1)
  let x : Seal := { owner := a, orphan := orphan, expiry := e }
  (mw (s.setSeal w (some x)) w (sealWord x), sealWord x)
/-- A grant within an agent's own access: the mirror write is part of it. -/
def grantSeal (s : State) (w : Nat) (a : BitVec 13) (orphan : Bool) : State × Word := grantWith mirror s w a orphan

/-- Tell a waiter its grant: a thread by a response, another agent by its alias bank and event bit (R125, R159). -/
def tellGrant (s : State) (x : SealWait) (v : Word) : State :=
  if x.agent.toNat < 4096 then
    { s with srt := { s.srt with resps := s.srt.resps ++ [{ tid := x.agent.setWidth 12, tag := x.tag, res := .seal v true }] } }
  else
    let ag : Agent := if x.agent = 0x1000 then .pmA else if x.agent = 0x1001 then .pmB
      else if x.agent = 0x1010 then .hostS else if x.agent = 0x1011 then .hostN else .dbg
    let b := s.seals.banks.get (bankKey ag) {}
    let e := match ag with | .hostS => 5 | .hostN => 6 | .pmA => 7 | .pmB => 8 | .dbg => 9
    ({ s with seals := { s.seals with
        banks := s.seals.banks.set (bankKey ag) { b with wait := false, granted := true, word := v } {} } }).sealEvt e

/-- The waiter of highest effective priority among ws, ties to the earliest (R161). -/
def bestWait (s : State) (ws : List SealWait) : Option SealWait :=
  ws.foldl (fun m x => match m with
    | none => some x
    | some y => if s.prioOf y.agent < s.prioOf x.agent then some x else m) none

def State.dropWait (s : State) (x : SealWait) : State :=
  { s with seals := { s.seals with waits := s.seals.waits.erase x } }

/-- Read the mirror of a free seal and grant it (R157); a mirror in a bank that is Off or clearing cannot be read and counts as stale (R151). -/
def freshGrant (s : State) (w : Nat) (a : BitVec 13) : State × Word :=
  let r := if s.bankOn w then xreadW s w 1 2 0 else (s, none)
  match r.2 with
  | none => grantSeal r.1 w a true
  | some l => let v := l.headD 0; grantSeal r.1 w a (bitAt v 15 || bitAt v 14)

/-- An entry has freed: the best waiter on a free seal gets it (R166). -/
def admitWaiter (s : State) : State :=
  if 1024 ≤ s.seals.held.length then s else
  match bestWait s (s.seals.waits.filter fun x => (s.sealAt x.addr).isNone) with
  | none => s
  | some x =>
    let r := freshGrant (s.dropWait x) x.addr x.agent
    tellGrant r.1 x r.2

/-- The end of a holding: pass to a waiter with the given ORPHAN, or free the seal with mirror word v, the mirror being written by mw (R156, R161). -/
def passWith (mw : State → Nat → Word → State) (s : State) (w : Nat) (orphan : Bool) (v : Word) : State :=
  match bestWait s (s.seals.waits.filter fun x => x.addr = w) with
  | some x =>
    let r := grantWith mw (s.dropWait x) w x.agent orphan
    tellGrant r.1 x r.2
  | none => admitWaiter (mw (s.setSeal w none) w v)
def passSeal (s : State) (w : Nat) (orphan : Bool) (v : Word) : State := passWith mirror s w orphan v

/-- Outcome of an acquire. -/
inductive AcqOut
  | granted (v : Word)
  | held (v : Word)
  | full (v : Word)
deriving DecidableEq, Repr

/-- An acquire of seal w by agent a (R157, R166). -/
def acquire (s : State) (w : Nat) (a : BitVec 13) : State × AcqOut :=
  match s.sealAt w with
  | some x => (s, if x.owner = a then .granted (sealWord x) else .held (sealWord x))
  | none =>
    if 1024 ≤ s.seals.held.length then
      let r := xreadW s w 1 2 0
      (({ r.1 with seals := { r.1.seals with fullCnt := satInc r.1.seals.fullCnt } }).sealEvt 3, .full (clrBit ((r.2.getD [Config.word16 s.free]).headD 0) 15))
    else let r := freshGrant s w a; (r.1, .granted r.2)

/-- Register a wait (R159, R161). -/
def State.addWait (s : State) (x : SealWait) : State := { s with seals := { s.seals with waits := s.seals.waits ++ [x] } }

/-- A release by agent a: whether it held the seal (R125, R160). -/
def release (s : State) (w : Nat) (a : BitVec 13) : State × Bool :=
  match s.sealAt w with
  | some x => if x.owner = a then (passSeal s w false 0, true) else (s, false)
  | none => (s, false)

/-! ### Sorter requests -/

/-- Enter a request of depot code c at the sorter; its tag (R172). -/
def State.request (s : State) (c target beats : Nat) (t : Tid) (op : SOp) : State :=
  { s with srt := { s.srt with
      reqs := s.srt.reqs ++ [{ code := c, target := target, beats := beats, tag := s.srt.nextTag, tid := t, op := op }],
      nextTag := s.srt.nextTag + 1 } }

/-- A response leaves its target. -/
def State.respond (s : State) (t : Tid) (tag : Nat) (r : XRes) : State :=
  { s with srt := { s.srt with resps := s.srt.resps ++ [{ tid := t, tag := tag, res := r }] } }

/-- The response to request tag of thread t. -/
def State.respOf (s : State) (t : Tid) (tag : Nat) : Option XRes :=
  (s.srt.resps.find? fun r => r.tid == t && r.tag == tag).map (·.res)

/-- Take the response to request tag away. -/
def State.dropResp (s : State) (tag : Nat) : State :=
  { s with srt := { s.srt with resps := s.srt.resps.filter fun r => r.tag != tag } }

/-- Take a queued request away, before its grant (R79). -/
def State.dropReq (s : State) (tag : Nat) : State :=
  { s with srt := { s.srt with reqs := s.srt.reqs.filter (fun r => r.tag != tag), arr := s.srt.arr.filter (fun r => r.tag != tag) } }

end Sys2Proof.Machine
end

