-- ==== Sys2Proof/Machine/OpsSort.lean ====
section
/-! DEFINITION. The sorter: what inputs present, arbitration points, the accesses of agents and units at them, house cycles, masks, and the orphaning of seals (R162 to R165, R169 to R181). -/
namespace Sys2Proof.Machine

/-! ### What the inputs present -/

/-- The input where requester code c is placed by the live map; the emergency inputs 46 and 47 are fixed (R171, R183). -/
def State.inputOf (s : State) (c : Nat) : Nat :=
  ((List.range 44).find? fun i => s.srt.live.get i i == c).getD c

/-- The requests input code c presents: its oldest, and its oldest with another target; a burst in progress stays presented until its last beat has passed (R172). -/
def State.presentedBy (s : State) (c : Nat) : List SReq :=
  let mine := s.srt.reqs.filter (fun r => r.code == c)
  match s.srt.bursts.filter (fun b => b.code == c) with
  | [] => (match mine with
    | [] => []
    | a :: l => a :: (match l.find? (fun r => r.target != a.target) with | some b => [b] | none => []))
  | [b] => (match mine.find? (fun r => r.target != b.target) with | some a => [a] | none => [])
  | _ => []

/-- The requests presented to target tg (R172). -/
def State.presented (s : State) (tg : Nat) : List SReq :=
  ((List.range 44).flatMap s.presentedBy).filter fun r => r.target == tg

/-- A burst is in progress at target tg, which holds no point until its last beat (R174). -/
def State.busy (s : State) (tg : Nat) : Bool := s.srt.bursts.any fun b => b.target == tg

/-! ### The writes of the pin rings (R218 to R220) -/

/-- A unit sends a message to the depot, engine and chute named by a channel register: ch_en [31], depot [30:26], engine [25:22], chute [21:18]. -/
def sendUnit (s : State) (unit : Nat) (ch : W32) (ws : List Word) : State :=
  if bitAt ch 31 then
    { s with umsgs := s.umsgs ++ [{ unit := unit, depot := fld ch 26 5, engine := fld ch 22 4, chute := fld ch 18 4, words := ws }] }
  else s

/-- The requester code of the pin unit (Table 6.1). -/
def pinCode : Nat := 40

def State.pring (s : State) (k : Nat) : PRing := s.pins.rings.get k {}
def State.setPring (s : State) (k : Nat) (r : PRing) : State := { s with pins := { s.pins with rings := s.pins.rings.set k r {} } }
def PRing.en (r : PRing) : Bool := bitAt r.cfg 31
def PRing.records (r : PRing) : Bool := bitAt r.cfg 4
def PRing.len (r : PRing) : Nat := 64 * 2 ^ fld r.cfg 0 4
/-- Buffered words that one burst, or one record, takes. -/
def PRing.unit (r : PRing) : Nat := if r.records then 4 else 8
/-- The word address of the next data. -/
def PRing.dataAt (r : PRing) : Nat :=
  r.base.toNat + 8 + (if r.records then 4 * (r.cnt.toNat % (r.len / 4)) else r.cnt.toNat % r.len)

/-- Write n of ring k enters at input 40: the data of a WORDS ring as one burst of 8 words, everything else as a control access (R170, R219). -/
def ringRequest (s : State) (k n : Nat) : State :=
  let r := s.pring k
  (s.setPring k { r with stage := n }).request pinCode (bankOf r.base.toNat) (if n = 1 ∧ !r.records then 4 else 1) 0 (.ring k)

/-- The next burst or record of ring k, once its words are there. -/
def ringKick (s : State) (k : Nat) : State :=
  let r := s.pring k
  if r.en && r.stage == 0 && decide (r.unit ≤ r.buf.length) then ringRequest s k 1 else s

/-- Words enter the buffer of ring k, or are lost and counted where it has no room (R219). -/
def ringPush (s : State) (k : Nat) (ws : List Word) : State :=
  let r := s.pring k
  if 32 < r.buf.length + ws.length then s.setPring k { r with lost := satInc r.lost }
  else ringKick (s.setPring k { r with buf := r.buf ++ ws }) k

/-- The bank of ring k refuses its writes (R151). -/
def State.ringOff (s : State) (k : Nat) : Bool := s.bankHere (s.pring k).base.toNat && !s.bankOn (s.pring k).base.toNat

/-- The write of ring k that has won its point: the data, then the count and its message; a refused one clears en and sets ring_err (R219, R220). -/
def ringPoint (s : State) (k : Nat) : State :=
  let r := s.pring k
  if !r.en then s.setPring k { r with stage := 0 }
  else if s.ringOff k then (s.setPring k { r with cfg := clrBit r.cfg 31, buf := [], stage := 0 }).pinEvt 4
  else if r.stage = 1 then
    if r.records then ringRequest (xwriteList s 0 r.dataAt (r.buf.take 2)) k 2
    else
      let s := if r.cnt = 0 then xwriteList s 0 (r.base.toNat + 2) [r.first.extractLsb' 0 16, r.first.extractLsb' 16 16] else s
      ringRequest (xwriteList s 0 r.dataAt (r.buf.take 8)) k 3
  else if r.stage = 2 then ringRequest (xwriteList s 0 (r.dataAt + 2) ((r.buf.drop 2).take 2)) k 3
  else
    let c := r.cnt + (if r.records then 1 else 8)
    let s := xwrite2 s r.base.toNat (c.extractLsb' 0 16) (c.extractLsb' 16 16)
    let s := s.setPring k { r with cnt := c, buf := r.buf.drop r.unit, stage := 0 }
    ringKick (sendUnit s 1 r.ch [BitVec.ofNat 16 (0x9000 + k), c.extractLsb' 0 16]) k

/-! ### What a granted request does -/

/-- A request goes on with another access from its place in entry order, presented anew. -/
def insertReq (r : SReq) : List SReq → List SReq
  | [] => [r]
  | q :: l => if r.tag < q.tag then r :: q :: l else q :: insertReq r l
def State.again (s : State) (r : SReq) : State :=
  { s with srt := { s.srt with reqs := insertReq { r with wait := 0, overdue := false } s.srt.reqs } }

/-- The fault a refused thread access raises. -/
def xbusResp (s : State) (r : SReq) : State := s.respond r.tid r.tag (.fault .xbus)

/-- Perform a load: one pair-word access; an odd pair makes its second access as a new request in the first one's place (R124, R150, R173). -/
def doLoad (s : State) (r : SReq) (a n : Nat) (got : List Word) : State :=
  match threadRefused s r.tid a 0 with
  | some s => xbusResp s r
  | none =>
    let k := if n = 2 ∧ a % 2 = 0 then 2 else 1
    match xreadW s a k 0 (r.tid.setWidth 13) with
    | (s, none) => s.respond r.tid r.tag (.fault .eccXch)
    | (s, some ws) =>
      if k < n then
        let a' := (a + 1) % 2 ^ 22
        s.again { r with target := bankOf a', op := .load a' 1 ws }
      else s.respond r.tid r.tag (.data (got ++ ws))

/-- Perform a store: one pair-word access; an odd pair makes its second access as a new request in the first one's place (R124, R150, R173). -/
def doStore (s : State) (r : SReq) (a : Nat) (ws : List Word) : State :=
  match threadRefused s r.tid a 0 with
  | some s => xbusResp s r
  | none =>
    match ws with
    | [v0, v1] =>
      if a % 2 = 0 then (xwrite2 s a v0 v1).respond r.tid r.tag .done
      else
        match xwrite1 s a v0 0 (r.tid.setWidth 13) with
        | (s, false) => s.respond r.tid r.tag (.fault .eccXch)
        | (s, true) =>
          let a' := (a + 1) % 2 ^ 22
          s.again { r with target := bankOf a', op := .store a' [v1] }
    | v :: _ =>
      match xwrite1 s a v 0 (r.tid.setWidth 13) with
      | (s, false) => s.respond r.tid r.tag (.fault .eccXch)
      | (s, true) => s.respond r.tid r.tag .done
    | [] => s.respond r.tid r.tag .done

/-- An absent bank answers at once: a read gives 0, a write is ignored (R4); an acquire there reads 0 and is granted nothing but the word. -/
def doAcq (s : State) (r : SReq) (a : Nat) (try' : Bool) : State :=
  match threadRefused s r.tid a 1 with
  | some s => xbusResp s r
  | none =>
    if !s.bankHere a then s.respond r.tid r.tag (.seal 0 false)
    else
      let id := r.tid.setWidth 13
      match acquire s a id with
      | (s, .granted v) => s.respond r.tid r.tag (.seal v true)
      | (s, .held v) => if try' then s.respond r.tid r.tag (.seal v false) else s.addWait { agent := id, addr := a, tag := r.tag }
      | (s, .full v) => if try' then s.respond r.tid r.tag (.seal v false) else s.addWait { agent := id, addr := a, tag := r.tag }

def doRel (s : State) (r : SReq) (a : Nat) : State :=
  match threadRefused s r.tid a 1 with
  | some s => xbusResp s r
  | none => let x := release s a (r.tid.setWidth 13); x.1.respond r.tid r.tag (.relAck x.2)

/-- What the granted request does at its target. -/
def perform (s : State) (r : SReq) : State :=
  match r.op with
  | .load a n got => doLoad s r a n got
  | .store a ws => doStore s r a ws
  | .acq a try' => doAcq s r a try'
  | .rel a => doRel s r a
  | .resv _ _ _ => { s with srt := { s.srt with arr := s.srt.arr ++ [{ r with no := s.srt.passNo }], passNo := s.srt.passNo + 1 } }
  | .ring k => ringPoint s k
  | .burst m => { s with srt := { s.srt with bursts := s.srt.bursts ++ [{ code := r.code, target := r.target, beats := r.beats, msg := m, no := s.srt.passNo }], passNo := s.srt.passNo + 1 } }

/-! ### Arbitration points -/

/-- Emergency requests rank above the overdue lane, and that above the others (R175). -/
def SReq.rank (r : SReq) : Nat := if 44 ≤ r.code then 2 else if r.overdue then 1 else 0

/-- The winner among presented requests: the highest rank, then the highest input (R175). -/
def winner (s : State) (rs : List SReq) : Option SReq :=
  rs.foldl (fun m r => match m with
    | none => some r
    | some q => if q.rank < r.rank || (q.rank == r.rank && decide (s.inputOf q.code < s.inputOf r.code)) then some r else some q) none

/-- A requester whose window counter exceeds the threshold is flagged (R178). -/
def flagStarved (s : State) (c : Nat) : State :=
  if s.srt.starveTh ≠ 0 ∧ s.srt.starveTh.toNat < s.srt.win.get c 0 then
    ({ s with srt := { s.srt with starve := setBit s.srt.starve c } }).srtEvt 0
  else s

/-- A grant from the overdue lane is a forced win: counted, and starvation flagged above the threshold (R178). -/
def forcedWin (s : State) (c : Nat) : State :=
  let n := s.srt.win.get c 0 + 1
  let s := { s with srt := { s.srt with fwin := s.srt.fwin.set c (satInc (s.srt.fwin.get c 0)) 0, win := s.srt.win.set c n 0 } }
  flagStarved s c

/-- Blockers after a grant: the granted tag leaves every set; an overdue grant of code c notes who was in the lane (R177). -/
def newBlockers (s : State) (tg : Nat) (g : SReq) : List (Nat × Nat × List Nat) :=
  let old := s.srt.blockers.filterMap fun b =>
    let l := b.2.2.filter (fun x => x != g.tag)
    if l = [] then none else some (b.1, b.2.1, l)
  if g.overdue then
    let lane := (s.srt.reqs.filter fun r => r.target == tg && r.overdue && r.tag != g.tag).map (·.tag)
    if lane = [] then old else old.filter (fun b => !(b.1 == tg && b.2.1 == g.code)) ++ [(tg, g.code, lane)]
  else old

/-- The winner g leaves the queue, and the other requests presented to target tg count a lost point (R176, R177). -/
def losePoint (s : State) (tg : Nat) (g : SReq) : State :=
  let lost := ((s.presented tg).filter fun r => r.tag != g.tag).map (·.tag)
  { s with srt := { s.srt with
      reqs := (s.srt.reqs.filter fun r => r.tag != g.tag).map fun r => if lost.contains r.tag then { r with wait := r.wait + 1 } else r
      blockers := newBlockers s tg g } }

/-- A point won by g: a forced win from the overdue lane is counted (R176 to R178). -/
def winPoint (s : State) (tg : Nat) (g : SReq) : State :=
  let s := losePoint s tg g
  if g.overdue then forcedWin s g.code else s

/-- The word a request accesses in a bank. -/
def SReq.word (r : SReq) : Option Nat :=
  match r.op with | .load a _ _ => some a | .store a _ => some a | .acq a _ => some a | .rel a => some a | _ => none

/-- The request names a bank that is Off or still clearing (R151). -/
def SReq.off (r : SReq) (s : State) : Bool :=
  match r.op, r.word with
  | .ring k, _ => s.ringOff k
  | _, some w => s.bankHere w && !s.bankOn w
  | _, none => false

/-- Presented accesses to a bank that is Off or clearing are refused without holding a point (R181); n bounds them. -/
def refuseOff (tg : Nat) : Nat → State → State
  | 0, s => s
  | n + 1, s =>
    match (s.presented tg).find? (fun r => r.off s) with
    | none => s
    | some r => refuseOff tg n (perform { s with srt := { s.srt with reqs := s.srt.reqs.filter fun q => q.tag != r.tag } } r)

/-- One arbitration point of target tg (R174 to R178): the winner is performed, the others count a lost point. -/
def arbitrate (s : State) (tg : Nat) : State :=
  let s := refuseOff tg s.srt.reqs.length s
  if s.busy tg then s else
  match winner s (s.presented tg) with
  | none => s
  | some g => perform (winPoint s tg g) g

/-- The wait limit of requester c; 0 acts as 1 (Table 6.5). -/
def State.wlim (s : State) (c : Nat) : Nat := Nat.max 1 (s.srt.wlim.get c 0x10).toNat

/-- A presented request may enter the overdue lane of tg (R176, R177). -/
def mayEnter (s : State) (tg : Nat) (r : SReq) : Bool :=
  !r.overdue && decide (s.wlim r.code ≤ r.wait) &&
  !(s.srt.reqs.any fun q => q.code == r.code && q.target == tg && q.overdue) &&
  !(s.srt.blockers.any fun b => b.1 == tg && b.2.1 == r.code)

/-- Presented requests whose count has reached SRT_WLIM enter the lane of target tg (R176, R177). -/
def enterLane (s : State) (tg : Nat) : State :=
  let es := ((s.presented tg).filter (mayEnter s tg)).map (·.tag)
  { s with srt := { s.srt with reqs := s.srt.reqs.map fun r => if es.contains r.tag then { r with overdue := true } else r } }

/-! ### Accesses of agents and units (R14, R171) -/

/-- Points of target tg pass until the access x, presented there, has won one: waiting requests that rank above it are performed first, the others count what they lose; n bounds the points (R175 to R178). -/
def passPoints (tg : Nat) : Nat → State → SReq → State
  | 0, s, _ => s
  | n + 1, s, x =>
    let s := refuseOff tg s.srt.reqs.length s
    match winner s (x :: s.presented tg) with
    | none => s
    | some g =>
      if g.tag = x.tag then winPoint s tg x
      else
        let s := enterLane (perform (winPoint s tg g) g) tg
        let x := { x with wait := x.wait + 1 }
        passPoints tg n s { x with overdue := x.overdue || mayEnter s tg x }

/-- Requester codes of agents that are not threads, of the scrubber and debug (Table 6.1). -/
def codeOf : Agent → Nat | .pmA => 41 | .pmB => 41 | .hostS => 42 | .hostN => 43 | .dbg => 47
def pmCode : Nat := 41
def scrubCode : Nat := 46
def laneCode (l : Nat) : Nat := 32 + l

/-- An access of requester c presents at the bank of word w and wins its point there; an access to a bank that is Off or clearing holds none (R14, R174 to R176, R181). -/
def State.atPoint (s : State) (c w : Nat) : State :=
  if s.srt.reqs = [] ∨ !s.bankOn w ∨ !s.bankHere w then s
  else passPoints (bankOf w) (2 * s.srt.reqs.length + 1) s
    { code := c, target := bankOf w, beats := 1, tag := s.srt.nextTag, tid := 0, op := .rel w }

/-- The words at w, n of one pair-word, as a unit of identity id reads them; an uncorrectable pair-word is counted and what it holds is free (R152). -/
def xreadAny (s : State) (id : BitVec 13) (w n : Nat) : State × List Word :=
  let r := xreadW s w n 0 id
  match r.2 with
  | some ws => (r.1, ws)
  | none => (r.1.tick1, (List.range n).map fun i => Config.word16 (r.1.free + i))

/-- A control-class read of such words by a unit or service of code c. -/
def xtake (s : State) (c : Nat) (id : BitVec 13) (w n : Nat) : State × List Word := xreadAny (s.atPoint c w) id w n

/-- The 32-bit word at even word address w, read so. -/
def xtake32 (s : State) (c : Nat) (id : BitVec 13) (w : Nat) : State × W32 :=
  let r := xtake s c id w 2
  (r.1, (r.2.drop 1).headD 0 ++ r.2.headD 0)

/-- n 32-bit words from even word address w. -/
def xtakes (s : State) (c : Nat) (id : BitVec 13) (w : Nat) : Nat → State × List W32
  | 0 => (s, [])
  | n + 1 =>
    let r := xtake32 s c id w
    let q := xtakes r.1 c id (w + 2) n
    (q.1, r.2 :: q.2)

/-- A unit of identity id reads words [w, w + n): single errors there are corrected and counted, uncorrectable ones reported; whether there is none of those (R152). -/
def xscan (s : State) (id : BitVec 13) (w n : Nat) : State × Bool :=
  s.xch.err.foldl (fun p e => if w / 2 ≤ e.1 ∧ 2 * e.1 < w + n then (let q := xcheck p.1 e.1 0 id; (q.1, p.2 && q.2)) else p) (s, true)

/-- Control-class writes of a unit from word address w upwards, each pair-word at its own point. -/
def xctl (c : Nat) (id : BitVec 13) : Nat → State → Nat → List Word → State
  | 0, s, _, _ => s
  | _ + 1, s, _, [] => s
  | n + 1, s, w, a :: r =>
    let s := s.atPoint c w
    match w % 2 = 0, r with
    | _, [] => (xwrite1 s w a 0 id).1
    | _, b :: r' =>
      if w % 2 = 0 then xctl c id n (xwrite2 s w a b) (w + 2) r'
      else xctl c id n (xwrite1 s w a 0 id).1 (w + 1) (b :: r')
def xputs (s : State) (c : Nat) (id : BitVec 13) (w : Nat) (ws : List Word) : State := xctl c id ws.length s w ws

/-- The longest stream burst in words (R184). -/
def State.bmaxWords (s : State) : Nat := 64 / 2 ^ s.srt.bmax.toNat

/-- A stream write from word address w upwards: consecutive bursts, each within one block of the longest length, arbitrated anew (R170, R184); n bounds them. -/
def xburst (c : Nat) (id : BitVec 13) : Nat → State → Nat → List Word → State
  | 0, s, _, _ => s
  | n + 1, s, w, ws =>
    if ws = [] then s
    else
      let k := s.bmaxWords - w % s.bmaxWords
      xburst c id n (xwriteList (s.atPoint c w) id w (ws.take k)) (w + k) (ws.drop k)
def xstream (s : State) (c : Nat) (id : BitVec 13) (w : Nat) (ws : List Word) : State := xburst c id ws.length s w ws

/-- A stream read of n words from word address w upwards, each burst at its own point (R170, R184); f bounds the pair-words. -/
def xpull (c : Nat) (id : BitVec 13) : Nat → State → Nat → Nat → State × List Word
  | 0, s, _, _ => (s, [])
  | f + 1, s, w, n =>
    if n = 0 then (s, [])
    else
      let k := if w % 2 = 0 ∧ 1 < n then 2 else 1
      let r := xreadAny (if w % s.bmaxWords = 0 then s.atPoint c w else s) id w k
      let q := xpull c id f r.1 (w + k) (n - k)
      (q.1, r.2 ++ q.2)
def xload (s : State) (c : Nat) (id : BitVec 13) (w n : Nat) : State × List Word :=
  xpull c id n (if w % s.bmaxWords = 0 then s else s.atPoint c w) w n

/-! ### House cycles (R180) -/

/-- A house operation waits at target tg for a cycle that no winner takes, at most 16 points; then it is inserted, once in 17 cycles. -/
def houseWait (tg : Nat) : Nat → State → State
  | 0, s => s
  | n + 1, s =>
    let s := refuseOff tg s.srt.reqs.length s
    if s.presented tg = [] then s else houseWait tg n (arbitrate s tg)
def State.houseCycle (s : State) (w : Nat) : State := if s.srt.reqs = [] then s else houseWait (bankOf w) 16 s

/-- A mirror write of the seal unit for expiry or orphaning takes a house cycle; an operation on the seal that came first in the wait has overwritten it (R158, R180). -/
def houseMirror (s : State) (w : Nat) (v : Word) : State :=
  let s' := s.houseCycle w
  if s'.sealAt w = s.sealAt w then mirror s' w v else s'

/-! ### Orphaning (R162 to R165) -/

/-- The request is the release of seal w by agent a. -/
def SReq.isRel (r : SReq) (w : Nat) (a : BitVec 13) : Bool :=
  match r.op with | .rel w' => w' == w && r.tid.setWidth 13 == a && r.code < 44 | _ => false

/-- A release of seal w by its holder that reaches the seal unit in this FCLK cycle, because it wins its point in it, comes before the seal's expiry or its holder's sideband (R164). -/
def releaseFirst (s : State) (w : Nat) : State :=
  match s.sealAt w with
  | none => s
  | some x =>
    match winner s (s.presented (bankOf w)) with
    | some g => if g.isRel w x.owner && !s.busy (bankOf w) then arbitrate s (bankOf w) else s
    | none => s

/-- A held seal becomes ORPHAN and is released, unless a release of its holder comes first (R162 to R165). -/
def orphanSeal (s : State) (w : Nat) : State :=
  let s := releaseFirst s w
  match s.sealAt w with
  | none => s
  | some x =>
    let s := ({ s with seals := { s.seals with orphCnt := satInc s.seals.orphCnt } }).sealEvt 0
    passWith houseMirror s w true (0x4000 ||| x.owner.setWidth 16)

/-- The sideband of an agent: every seal it holds is orphaned, its wait withdrawn (R163). -/
def sealSideband (s : State) (p : BitVec 13 → Bool) : State :=
  let s := { s with seals := { s.seals with waits := s.seals.waits.filter fun x => !p x.agent } }
  let mine := s.seals.held.filterMap fun e => match e.2 with
    | some x => if p x.owner then some e.1 else none
    | none => none
  mine.foldl orphanSeal s

/-! ### Masks (R181) -/

/-- Discard what a masked input has queued; the bursts from it or to its chutes are cut and counted (R181). -/
def maskInput (s : State) (c : Nat) : State :=
  let cut := (s.srt.bursts.filter fun b => b.code == c || b.target == 64 + c).length
  let srt := { s.srt with
    reqs := s.srt.reqs.filter (fun r => r.code != c)
    arr := s.srt.arr.filter (fun r => r.code != c)
    bursts := s.srt.bursts.filter (fun b => b.code != c && b.target != 64 + c)
    blockers := s.srt.blockers.filter (fun b => b.2.1 != c)
    resps := s.srt.resps.filter (fun r => decide (32 ≤ c) || depOf r.tid != c)
    cutCnt := satAdd s.srt.cutCnt cut }
  let s := { s with srt := srt }
  if cut = 0 then s else s.srtEvt 2

end Sys2Proof.Machine
end

