-- ==== Sys2Proof/Machine/OpsChute.lean ====
section
/-! DEFINITION. Chutes: rooms, commits, receivers, dead letters, unit messages, and the withdrawal of a thread's pending wait (R79, R134 to R148). -/
namespace Sys2Proof.Machine

def Depot.chute (D : Depot) (e c : Nat) : Chute := D.chutes.get (e * 16 + c) {}
def Depot.setChute (D : Depot) (e c : Nat) (x : Chute) : Depot := { D with chutes := D.chutes.set (e * 16 + c) x {} }
def Depot.lchute (D : Depot) (l : Nat) : LChute := D.lchutes.get l {}
def Depot.setLchute (D : Depot) (l : Nat) (x : LChute) : Depot := { D with lchutes := D.lchutes.set l x {} }

/-- Words waiting in an engine chute. -/
def Chute.words (c : Chute) : Nat := (c.msgs.map (·.length)).sum
/-- The messages waiting at the start of ECLK cycle now: those whose SENDE settled before it (R134, R135). -/
def Chute.seen (c : Chute) (now : Nat) : List (List Word) :=
  c.msgs.take (c.msgs.length - (c.fresh.filter fun e => decide (now < e.1 + 2)).length)
/-- The words of messages taken whose room is not free at the start of cycle now (R135, R139). -/
def Chute.held (c : Chute) (now : Nat) : List Nat := (c.freed.filter fun e => decide (now < e.1 + 2)).map (·.2)
/-- Room at the start of cycle now for a message of n words: at most 16 words in at most 16 messages. -/
def Chute.fits (c : Chute) (now n : Nat) : Bool :=
  decide (c.words + (c.held now).sum + n ≤ 16 ∧ c.msgs.length + (c.held now).length < 16)
/-- Message m of thread t is committed in cycle now: behind the messages before it, those of the same cycle in the order of their senders (R136). -/
def Chute.commit (c : Chute) (now : Nat) (t : Tid) (m : List Word) : Chute :=
  let k := (c.fresh.reverse.takeWhile fun e => e.1 == now && decide (t.toNat < e.2.toNat)).length
  let f := c.fresh.take (c.fresh.length - k) ++ (now, t) :: c.fresh.drop (c.fresh.length - k)
  { c with
    msgs := c.msgs.take (c.msgs.length - k) ++ m :: c.msgs.drop (c.msgs.length - k)
    fresh := f.filter fun e => decide (now < e.1 + 2) }
/-- The oldest message m is taken in cycle now and r are left. -/
def Chute.take (c : Chute) (now : Nat) (m : List Word) (r : List (List Word)) : Chute :=
  { c with msgs := r, freed := (c.freed.filter fun e => decide (now < e.1 + 2)) ++ [(now, m.length)] }
/-- Words and messages of a long chute, waiting or reserved. -/
def LChute.words (c : LChute) : Nat := (c.msgs.map (·.2.1.length)).sum + (c.granted.map (·.len)).sum
def LChute.fits (c : LChute) (n : Nat) : Bool := decide (c.words + n ≤ 16 ∧ c.msgs.length + c.granted.length < 16)

/-- Messages become waiting in the order of their grants: those that have arrived before the first that has not (R141). -/
def LChute.settle (c : LChute) : LChute :=
  { c with
    msgs := c.msgs ++ (c.granted.takeWhile fun v => v.msg != []).map fun v => (v.tid, v.msg, none)
    granted := c.granted.dropWhile fun v => v.msg != [] }
/-- The message of the reservation with that tag has arrived (R140, R141). -/
def LChute.arrive (c : LChute) (tag : Nat) (ws : List Word) : LChute :=
  { c with granted := c.granted.map fun (v : Resv) => if v.tag = tag then { v with msg := ws } else v : LChute }.settle
/-- The reservations that p names are withdrawn, unless their message has arrived. -/
def LChute.withdraw (c : LChute) (p : Resv → Bool) : LChute :=
  { c with queue := c.queue.filter fun (v : Resv) => !p v, granted := c.granted.filter fun (v : Resv) => !p v || v.msg != [] : LChute }.settle

/-- Capture a dead letter in depot d (R146, R147): 8 records, then lost and counted. -/
def Depot.capture (D : Depot) (r : DlRec) : Depot :=
  if 8 ≤ D.dl.length then { D with dlLost := satInc D.dlLost } else { D with dl := D.dl ++ [r] }
def State.capture (s : State) (d : Nat) (r : DlRec) : State := s.setDep d ((s.dep d).capture r)

/-- Insert a sender or receiver that blocks in cycle now in the order of blocking, behind those before it; of the threads that blocked in the same cycle (ties) the lowest goes first (R137, R138). -/
def enqueue (ties : List (Nat × Tid)) (now : Nat) (l : List Tid) (t : Tid) : List Tid :=
  let k := (l.reverse.takeWhile fun u => ties.contains (now, u) && decide (t.toNat < u.toNat)).length
  l.take (l.length - k) ++ t :: l.drop (l.length - k)
/-- The threads that blocked in cycle now, with one more. -/
def tieWith (ties : List (Nat × Tid)) (now : Nat) (t : Tid) : List (Nat × Tid) := (ties.filter fun e => e.1 == now) ++ [(now, t)]
def Chute.queueSender (c : Chute) (now : Nat) (t : Tid) : Chute := { c with senders := enqueue c.ties now c.senders t, ties := tieWith c.ties now t }
def Chute.queueReceiver (c : Chute) (now : Nat) (t : Tid) : Chute := { c with receivers := enqueue c.ties now c.receivers t, ties := tieWith c.ties now t }
def LChute.queueReceiver (c : LChute) (now : Nat) (t : Tid) : LChute := { c with receivers := enqueue c.ties now c.receivers t, ties := tieWith c.ties now t }
/-- The ECLK cycle that begins the rotation in progress. -/
def State.rotCyc (s : State) : Nat := 8 * s.rot

/-- The pickup of a message by a thread: length in W[p], Z, C := 0 (Table 4.15). -/
def Thread.pick (h : Thread) (p : Fin 16) (m : List Word) : Thread :=
  ({ h with pickup := m }.setReg p (BitVec.ofNat 16 m.length)).flags { z := some true, c := some false }

/-- The TIMEOUT outcome of RECV (Table 4.15). -/
def Thread.recvTimeout (h : Thread) (p : Fin 16) : Thread :=
  ({ h with pickup := [] }.setReg p 0).flags { z := some false, c := some true }

/-- The committed outcome of SENDE: Z := 1, staging emptied. -/
def Thread.sent (h : Thread) : Thread := { h with staging := [] }.flags { z := some true }
/-- The dead-letter outcome: Z := 0, V := 1, staging emptied (R146). -/
def Thread.deadLettered (h : Thread) : Thread := { h with staging := [] }.flags { z := some false, v := some true }
/-- The timeout outcome: Z := 0, C := 1, staging as before (Table 4.15). -/
def Thread.sendTimeout (h : Thread) : Thread := h.flags { z := some false, c := some true }

/-- The message a SENDE commits. -/
def Thread.message (h : Thread) (w : Word) : List Word := h.staging ++ [w]

/-- The oldest waiting message of a long chute that has no uncorrectable word; those found uncorrectable are captured with cause ECC_LOST (R142). -/
def takeLong (D : Depot) (d l : Nat) : List (Tid × List Word × Option Nat) → Depot × Option (List Word)
  | [] => (D.setLchute l { D.lchute l with msgs := [] }, none)
  | (t, m, none) :: r => (let _ := t; (D.setLchute l { D.lchute l with msgs := r }, some m))
  | (t, m, some i) :: r =>
    takeLong (D.capture { cause := 5, tid := t, target := BitVec.ofNat 16 (0x8000 + d * 256 + l), words := setAt m i 0 }) d l r

/-- The oldest message of a long chute holds an uncorrectable word: IRQ_SAFE.eng_ue (R142, R395). -/
def lostEvt (s : State) (ms : List (Tid × List Word × Option Nat)) : State :=
  match ms with | (_, _, some _) :: _ => s.safeEvt 2 | _ => s

/-- A RECV of thread t that finds a message and no queued receiver takes it (R138); else it blocks, or times out at once with recv_rot 0 (R144). -/
def recvOn (t : Tid) (p : Fin 16) (ch : ChuteRef) (timed : Bool) (s : State) (h : Thread) : State :=
  let d := depOf t
  let D := s.dep d
  let dl : Option Nat := if timed then some (s.rot + fld h.tmo 0 16) else none
  let wait (s : State) (D : Depot) (D' : Depot) : State :=
    if timed ∧ fld h.tmo 0 16 = 0 then s.setDep d (D.setThr (idxOf t) ((h.recvTimeout p).complete .seq))
    else s.setDep d (D'.setThr (idxOf t) (h.block (.recv p ch dl)))
  match ch with
  | .eng e c =>
    let x := D.chute e c
    match x.seen s.clk.ecyc with
    | m :: _ =>
      if x.receivers = [] then
        s.setDep d ((D.setChute e c (x.take s.clk.ecyc m x.msgs.tail)).setThr (idxOf t) ((h.pick p m).complete .seq))
      else wait s D (D.setChute e c (x.queueReceiver s.clk.ecyc t))
    | [] => wait s D (D.setChute e c (x.queueReceiver s.clk.ecyc t))
  | .long l =>
    let x := D.lchute l
    if x.receivers = [] then
      let s := lostEvt s x.msgs
      match takeLong D d l x.msgs with
      | (D', some m) => s.setDep d (D'.setThr (idxOf t) ((h.pick p m).complete .seq))
      | (D', none) => wait s D' (D'.setLchute l ((D'.lchute l).queueReceiver s.clk.ecyc t))
    else wait s D (D.setLchute l (x.queueReceiver s.clk.ecyc t))

/-- Words of the outbound buffer of depot d that are taken: committed messages and the room taken before each reservation (R140). -/
def State.outWords (s : State) (d : Nat) : Nat :=
  ((s.dep d).outbuf.map (·.words.length)).sum +
  ((s.dep d).threads.map fun e => match e.2.pend with | .sendeLong _ _ _ _ _ => e.2.staging.length + 1 | _ => 0).sum

/-- Send the reservation of a long SENDE, or block for outbound room (R140). -/
def sendLong (t : Tid) (d l : Nat) (w : Word) (issued : Nat) (s : State) : State :=
  let h := s.thr t
  if s.outWords (depOf t) + (h.message w).length ≤ 256 then
    let tag := s.srt.nextTag
    (s.request (depOf t) (64 + d) 1 t (.resv d l (h.message w).length)).setThr t (h.block (.sendeLong tag d l w issued))
  else s.setThr t (h.block (.sendeBuf d l w issued))

/-- Threads of depot d blocked on outbound room, oldest first, send their reservations while room lasts. -/
def refillOut (s : State) (d : Nat) : State :=
  let ws := (s.dep d).threads.filterMap fun e => match e.2.pend with
    | .sendeBuf d' l w n => some (n, e.1, d', l, w)
    | _ => none
  match ws.foldl (fun m x => match m with | none => some x | some y => if x.1 < y.1 then some x else m) none with
  | none => s
  | some (n, i, d', l, w) =>
    let h := (s.dep d).thr i
    if s.outWords d + (h.message w).length ≤ 256 then sendLong (tidOf d i) d' l w n s else s

/-- As many of them as there is room for; n bounds them. -/
def refillAll (d : Nat) : Nat → State → State
  | 0, s => s
  | n + 1, s => refillAll d n (refillOut s d)

/-- SENDE of thread t to an engine chute (R134, R146): follower engines of a twin depot are dead letters; commit with room and no queue, else queue. -/
def sendEng (t : Tid) (e c : Nat) (tw w : Word) (s : State) (h : Thread) : State :=
  let d := depOf t
  let D := s.dep d
  if s.twin d ∧ e % 2 = 1 then
    s.setDep d ((D.capture { cause := 2, tid := t, target := tw, words := h.message w }).setThr (idxOf t) (h.deadLettered.complete .seq))
  else
    let x := D.chute e c
    if x.fits s.clk.ecyc (h.message w).length ∧ x.senders = [] then
      s.setDep d ((D.setChute e c (x.commit s.clk.ecyc t (h.message w))).setThr (idxOf t) (h.sent.complete .seq))
    else
      s.setDep d ((D.setChute e c (x.queueSender s.clk.ecyc t)).setThr (idxOf t) (h.block (.sende e c w s.rot)))

/-- Queued senders of a chute commit from the head while the head's whole message fits at the rotation boundary (R137); one of a frozen pair keeps its place (R388). n bounds the queue. -/
def commitQueued (d e c : Nat) : Nat → State → State
  | 0, s => s
  | n + 1, s =>
    let D := s.dep d
    let x := D.chute e c
    match x.senders with
    | [] => s
    | t :: r =>
      let h := D.thr (idxOf t)
      match h.pend with
      | .sende _ _ w _ =>
        if x.fits s.rotCyc (h.message w).length && !s.frozen t then
          commitQueued d e c n (s.setDep d
            ((D.setChute e c { x with msgs := x.msgs ++ [h.message w], senders := r }).setThr (idxOf t) (h.sent.complete .seq)))
        else s
      | _ => commitQueued d e c n (s.setDep d (D.setChute e c { x with senders := r }))

/-- The head of the queued receivers takes the oldest message waiting at the rotation boundary (R138); one of a frozen pair takes none (R388). n bounds the queue. -/
def deliverTo (d : Nat) (ch : ChuteRef) : Nat → State → State
  | 0, s => s
  | n + 1, s =>
    let D := s.dep d
    match ch with
    | .eng e c =>
      let x := D.chute e c
      match x.receivers, x.seen s.rotCyc with
      | t :: r, m :: _ =>
        let h := D.thr (idxOf t)
        match h.pend with
        | .recv p _ _ => if s.frozen t then s else
          deliverTo d ch n (s.setDep d
            ((D.setChute e c { x.take s.clk.ecyc m x.msgs.tail with receivers := r }).setThr (idxOf t) ((h.pick p m).complete .seq)))
        | _ => s
      | _, _ => s
    | .long l =>
      let x := D.lchute l
      match x.receivers with
      | [] => s
      | t :: r =>
        if s.frozen t then s else
        let s := lostEvt s x.msgs
        let h := D.thr (idxOf t)
        match h.pend, takeLong D d l x.msgs with
        | .recv p _ _, (D', some m) =>
          deliverTo d ch n (s.setDep d
            ((D'.setLchute l { D'.lchute l with receivers := r }).setThr (idxOf t) ((h.pick p m).complete .seq)))
        | _, (D', none) => s.setDep d D'
        | _, _ => s

/-- What an engine chute does at a rotation boundary: queued senders commit, then queued receivers take (R137). -/
def chuteTurn (d : Nat) (ch : ChuteRef) (s : State) : State :=
  match ch with
  | .eng e c => let s := commitQueued d e c ((s.dep d).chute e c).senders.length s; deliverTo d ch ((s.dep d).chute e c).receivers.length s
  | .long l => deliverTo d ch ((s.dep d).lchute l).receivers.length s

/-- The depot a message for depot d goes to: the one DEP_REDIR names where it is enabled (R143, R379). -/
def State.redirect (s : State) (d : Nat) : Nat := if bitAt (s.dep d).redir 31 then fld (s.dep d).redir 0 5 else d

/-! ### Withdrawal of a pending wait (R79) -/

/-- Take thread t out of every chute queue of its depot. -/
def Depot.leaveChutes (D : Depot) (t : Tid) : Depot :=
  match (D.thr (idxOf t)).pend with
  | .recv _ (.eng e c) _ => D.setChute e c { D.chute e c with receivers := (D.chute e c).receivers.erase t }
  | .recv _ (.long l) _ => D.setLchute l { D.lchute l with receivers := (D.lchute l).receivers.erase t }
  | .sende e c _ _ => D.setChute e c { D.chute e c with senders := (D.chute e c).senders.erase t }
  | _ => D

/-- Withdraw a long-chute reservation: its request, its place in the target's queue, or its granted room (R145), in the depot it named and in the one that takes that depot's messages (R379). -/
def dropResv (s : State) (d l tag : Nat) : State :=
  let drop (s : State) (d : Nat) : State := s.setDep d ((s.dep d).setLchute l (((s.dep d).lchute l).withdraw fun r => r.tag == tag))
  let s := drop ((s.dropReq tag).dropResp tag) d
  if s.redirect d = d then s else drop s (s.redirect d)

/-- Withdraw the pending wait of thread t; an exchange access, release or exact operation stays in flight. -/
def withdraw (s : State) (t : Tid) : State :=
  match (s.thr t).pend with
  | .acq tag _ =>
    let s := (s.dropReq tag).dropResp tag
    { s with seals := { s.seals with waits := s.seals.waits.filter fun x => x.tag != tag || x.agent != t.setWidth 13 } }
  | .sendeLong tag d l _ _ => dropResv s d l tag
  | _ => s.setDep (depOf t) ((s.dep (depOf t)).leaveChutes t)

/-- An operation that STOP lets complete (R79). -/
def Pend.inFlight : Pend → Bool
  | .exact _ _ => true
  | .xload _ _ _ => true
  | .xstore _ => true
  | .rel _ => true
  | _ => false

/-- Stop thread t towards state `to`: waits withdrawn with the PC kept; operations in flight complete first (R79). -/
def stopThr (s : State) (t : Tid) (fin : TState) : State :=
  let h := s.thr t
  if h.pend.inFlight then s.setThr t { h with state := .stopping, stopTo := fin }
  else
    let s' := withdraw s t
    s'.setThr t { s'.thr t with state := .stopping, stopTo := fin, pend := .none }

/-- ABORT of thread t (R80): waits withdrawn, a load's result discarded, staging discarded and counted, every seal it holds orphaned; IDLE. -/
def abortThr (s : State) (t : Tid) : State :=
  let s := withdraw s t
  let d := depOf t
  let h := s.thr t
  let D := (s.dep d).setThr (idxOf t) h.idled
  let s := s.setDep d (if h.staging = [] then D else { D with torn := satInc D.torn })
  sealSideband s (fun a => a == t.setWidth 13)

/-! ### Messages from units -/

/-- Count a dropped unit message in its unit's counter (R58, R220, R223, R241). -/
def countDrop (s : State) (unit : Nat) : State :=
  if unit = 0 then { s with pmk := { s.pmk with evtLost := satInc s.pmk.evtLost } }
  else if unit = 1 then ({ s with pins := { s.pins with msgLost := satInc s.pins.msgLost } }).pinEvt 6
  else
    let x := s.lan.lanes.get (unit - 2) {}
    { s with lan := { s.lan with msgLost := satInc s.lan.msgLost, lanes := s.lan.lanes.set (unit - 2) { x with evt := setBit x.evt 3 } {} } }

/-- Commit or drop a unit message (R143). -/
def commitUnit (s : State) (m : UnitMsg) : State :=
  let d := s.redirect m.depot
  let x := (s.dep d).chute m.engine m.chute
  if s.depRun d ∧ m.engine < 16 ∧ m.chute < 16 ∧ ¬(s.twin d ∧ m.engine % 2 = 1) ∧ x.senders = [] ∧ x.fits s.clk.ecyc m.words.length then
    s.setDep d ((s.dep d).setChute m.engine m.chute { x with msgs := x.msgs ++ [m.words] })
  else countDrop s m.unit


end Sys2Proof.Machine
end

