-- ==== Sys2Proof/Machine/OpsPmk.lean ====
section
/-! DEFINITION. The postmark unit: positions, validity, conversion, events, the tracker loop and re-lock (R30 to R60, R449 to R451). -/
namespace Sys2Proof.Machine

/-- PMK_CFG[k] and the state at reset (Table 2.7, Table 2.9). -/
def Ref.reset (k : Nat) : Ref :=
  if k = 3 ∨ k = 4 then { cfg := 0x08004000 }
  else if k = 5 then { cfg := 0x80004000, state := .locked }
  else if k = 6 ∨ k = 7 then { cfg := 0x0C004000 }
  else {}

/-- The depot pair of reference k before the first rotation boundary: position 0 at BT 0 (R52). -/
def RefCap.reset (k : Nat) : RefCap :=
  if k = 3 then { rho := 3355443200000 } else if k = 4 then { rho := 161061273600000000 }
  else if k = 5 then { valid := true, rho := 2 ^ 40, code := 2 }
  else { rho := 3221225472000000 }

def State.ref (s : State) (k : Nat) : Ref := s.pmk.refs.get k (Ref.reset k)
def State.setRef (s : State) (k : Nat) (r : Ref) : State :=
  { s with pmk := { s.pmk with refs := s.pmk.refs.set k r (Ref.reset k) } }

def RState.valid : RState → Bool | .locked => true | .holdover => true | _ => false
def RState.code : RState → Nat | .disabled => 0 | .acquiring => 1 | .locked => 2 | .holdover => 3 | .invalid => 4

/-- Reference k is valid (Table 2.2). -/
def State.refValid (s : State) (k : Nat) : Bool := k == 5 || (s.ref k).state.valid

/-- A mains tracker; a PTP reference; a user reference (Table 2.1). -/
def isMains (k : Nat) : Bool := decide (k < 3)
def isPtp (k : Nat) : Bool := k == 3 || k == 4
def isUser (k : Nat) : Bool := k == 6 || k == 7

/-- SAMP mode of a mains tracker (Table 2.9). -/
def Ref.samp (r : Ref) : Bool := fld r.cfg 26 2 == 1
def Ref.en (r : Ref) : Bool := bitAt r.cfg 31

/-! ### PTP time -/

/-- PTP time units of 1/(48 · 2^44) ns that one BT adds at a rate, and at the present rate (R44). -/
def ptpStepOf (rate : W32) : Nat := ((5 : Int) * (2 ^ 44 + rate.toInt)).toNat
def State.ptpStepBt (s : State) : Nat := ptpStepOf s.pmk.rate

/-- Units of a nanosecond, and of a second. -/
def ptpNs : Nat := 48 * 2 ^ 44
def ptpSec : Nat := ptpNs * 1000000000

/-- PTP time at BT t, t no earlier than the last change. -/
def State.ptpAt (s : State) (t : Nat) : Nat := s.pmk.ptpT + (t - s.pmk.ptpB) * s.ptpStepBt
def State.ptpNow (s : State) : Nat := s.ptpAt s.clk.bt
def State.ptpSecs (s : State) : Nat := s.ptpNow / ptpSec
def State.ptpNanos (s : State) : Nat := s.ptpNow % ptpSec / ptpNs

/-- Units of PTP time in one phase unit of PMK3 or PMK4, times 65,536. -/
def ptpPhase (k : Nat) : Nat := if k = 3 then ptpSec / 48000 else ptpSec

/-- The position an enabled PTP reference may not fall below (R40, R44), and the one a disabled reference holds (Table 2.2). -/
def State.ptpFloor (s : State) (k : Nat) : Nat := if k = 3 then s.pmk.hold3 else s.pmk.hold4

/-- Set a new PTP time at the present BT, with floors f3 and f4; the lines of the last millisecond stay known for timestamps. -/
def State.setPtp (s : State) (v f3 f4 : Nat) : State :=
  let past := (s.pmk.ptpB, s.pmk.ptpT, s.pmk.rate, s.clk.bt) :: s.pmk.ptpPast.filter fun e => decide (s.clk.bt ≤ e.2.2.2 + msBt)
  { s with pmk := { s.pmk with ptpB := s.clk.bt, ptpT := v, hold3 := f3, hold4 := f4, ptpPast := past } }

/-- PTP time at the instant BT t, which may lie before the last write of the rate or the time (R231). -/
def State.ptpOf (s : State) (t : Nat) : Nat :=
  if s.pmk.ptpB ≤ t then s.ptpAt t
  else match s.pmk.ptpPast.find? (fun e => decide (e.1 ≤ t)) with
    | some e => e.2.1 + (t - e.1) * ptpStepOf e.2.2.1
    | none => s.pmk.ptpT

/-! ### Positions -/

/-- The line of a tracker at BT t, in units of 2^-16 phase unit; with ρ = 0, a frequency of 0, it stands still. -/
def Ref.line (r : Ref) (t : Nat) : Int :=
  if r.rho = 0 then r.p else (r.p : Int) + (((t : Int) - r.b) * 2 ^ 56).fdiv r.rho

/-- The visible position of a tracker: held before b, and while disabled (R40, Table 2.2). -/
def Ref.posFine (r : Ref) (t : Nat) : Nat :=
  if r.state = .disabled ∨ t ≤ r.b then r.p else (r.line t).toNat

/-- Position of reference k at BT t in phase units, not yet reduced. -/
def State.posRaw (s : State) (k t : Nat) : Nat :=
  if k = 5 then t
  else if isPtp k then if (s.ref k).state = .disabled then s.ptpFloor k else Nat.max (s.ptpFloor k) (s.ptpAt t * 65536 / ptpPhase k)
  else (s.ref k).posFine t / 65536

/-- The 45-bit position (R36). -/
def State.posAt (s : State) (k t : Nat) : Nat := s.posRaw k t % 2 ^ 45

/-- The position as a postmark: the reference in [47:45]. -/
def State.posMark (s : State) (k : Nat) : BitVec 48 := BitVec.ofNat 48 (k % 8 * 2 ^ 45 + s.posAt k s.clk.bt)

/-- X is reached at position p (R36). -/
def reached (p x : Nat) : Bool := decide ((p + 2 ^ 45 - x % 2 ^ 45) % 2 ^ 45 < 2 ^ 44)

/-- The rate of reference k in units of 2^-40 BT per phase unit (R48). -/
def State.rhoOf (s : State) (k : Nat) : Nat :=
  if k = 5 then 2 ^ 40
  else if isPtp k then 2 ^ 40 * ptpPhase k / 65536 / (if s.ptpStepBt = 0 then 1 else s.ptpStepBt)
  else (s.ref k).rho

/-- x / n rounded half up. -/
def roundHalfUp (x : Int) (n : Nat) : Int := (2 * x + n).fdiv (2 * n)

/-- The BT time B of the triple (B, P, ρ) for the present position P: the moment the line is at P, in the future during a backward hold (R48). -/
def State.tripleB (s : State) (k : Nat) : Int :=
  let p := s.posRaw k s.clk.bt
  if k = 5 then s.clk.bt
  else if isPtp k then
    (s.pmk.ptpB : Int) + roundHalfUp (((p * ptpPhase k + 65535) / 65536 : Nat) - (s.pmk.ptpT : Int)) (if s.ptpStepBt = 0 then 1 else s.ptpStepBt)
  else ((s.ref k).b : Int) + roundHalfUp (((p * 65536 : Nat) - ((s.ref k).p : Int)) * (s.ref k).rho) (2 ^ 56)

/-- Conversion outcomes (R49). -/
inductive ConvOut
  | ok (bt : W64)
  | invalidRef
  | far
deriving DecidableEq, Repr

/-- The state of reference k that the postmark unit sends to the depots now (R48, R52). -/
def State.refCap (s : State) (k : Nat) : RefCap :=
  { pos := s.posAt k s.clk.bt, valid := s.refValid k, b := s.tripleB k, rho := s.rhoOf k
    code := if k = 5 then 2 else (s.ref k).state.code, epoch := (s.ref k).epoch }

/-- The present pair of the depots for reference k, and the pair of the boundary before (R52). -/
def State.pair (s : State) (k : Nat) : RefCap := s.pmk.capNow.get k (RefCap.reset k)
def State.pairBefore (s : State) (k : Nat) : RefCap := s.pmk.capPrev.get k (RefCap.reset k)

/-- At a rotation boundary every depot captures its pairs; the former ones are those of the boundary before (R52). -/
def captureRefs (s : State) : State :=
  { s with pmk := { s.pmk with
      capNow := (List.range 8).foldl (fun m k => SMap.set m k (s.refCap k) (RefCap.reset k)) []
      capPrev := s.pmk.capNow, capBt := s.clk.bt } }

/-- Convert a postmark of 45-bit position x with state c at BT `now` (R48, R49). -/
def RefCap.convert (c : RefCap) (now x : Nat) : ConvOut :=
  if !c.valid then .invalidRef else
  let d0 : Nat := (x + 2 ^ 45 - c.pos) % 2 ^ 45
  let d : Int := if 2 ^ 44 ≤ d0 then (d0 : Int) - 2 ^ 45 else d0
  let bt := c.b + roundHalfUp (d * c.rho) (2 ^ 40)
  if (now : Int) + 2 ^ 33 < bt then .far else .ok (BitVec.ofInt 64 bt)

/-- Convert postmark x with the present state of its reference (R48, R49, R51). -/
def State.convert (s : State) (x : BitVec 48) : ConvOut := (s.refCap (fld x 45 3)).convert s.clk.bt (fld x 0 45)

/-- Convert postmark x with the depot pair of the rotation (R57). -/
def State.pairConvert (s : State) (x : BitVec 48) : ConvOut := (s.pair (fld x 45 3)).convert s.clk.bt (fld x 0 45)


/-! ### Events -/

/-- Raise event bit b of reference k: PMK_EVT, and a 4-word message where PMK_EVCH asks (R58). -/
def State.refEvt (s : State) (k b : Nat) : State :=
  let r := s.ref k
  let s := s.setRef k { r with evt := setBit r.evt b }
  if bitAt r.evch b then
    let p := s.posAt k s.clk.bt
    sendUnit s 0 r.evch
      [BitVec.ofNat 16 (k * 256 + b), BitVec.ofNat 16 (p / 65536), BitVec.ofNat 16 (p / 2 ^ 32), BitVec.ofNat 16 p]
  else s

/-- LOSS: LOCKED to HOLDOVER, and at once to INVALID with hold_ms 0 (R39, R41, R46). -/
def State.loss (s : State) (k : Nat) : State :=
  let r := s.ref k
  let s := (s.setRef k { r with state := .holdover, holdFrom := s.clk.bt, good := 0, miss := 0, badFreq := 0 }).refEvt k 6
  if fld r.hold 0 16 = 0 then
    (s.setRef k { s.ref k with state := .invalid, acq := [], stage2 := none }).refEvt k 7
  else s

/-- The holdover time of reference k in BT (R41). -/
def Ref.holdBt (r : Ref) : Nat := Nat.min (fld r.hold 0 16) 2000 * msBt

/-! ### The decimator of a SAMP tracker (R216) -/

/-- One bit, sampled at BT t, through the integrators; every 256th bit a sample leaves the combs (sinc3, full scale 2^24). -/
def Decim.bit (x : Decim) (b : Bool) (t : Nat) : Decim :=
  let i1 := x.i1 + (if b then 1 else -1)
  let i2 := x.i2 + i1
  let i3 := x.i3 + i2
  let x := { x with i1 := i1, i2 := i2, i3 := i3, n := x.n + 1 }
  if x.n < 256 then x
  else
    let y1 := i3 - x.c1
    let y2 := y1 - x.c2
    let y := (y2 - x.c3).toInt
    { x with c1 := i3, c2 := y1, c3 := y2, n := 0, x0 := x.x1, t0 := x.t1, x1 := y, t1 := t, sq := x.sq + y.natAbs * y.natAbs, m := x.m + 1 }

/-- The mains tracker k in SAMP mode takes bits from pin n (R216). -/
def Ref.takes (r : Ref) (n : Nat) : Bool := r.samp && r.en && r.state != .disabled && fld r.cfg 16 10 == n

/-- The trackers that name pin n take its sampled bits, each with the BT of its sampling (R216). -/
def feedTrackers (s : State) (n : Nat) (bits : List (Bool × Nat)) : State :=
  (List.range 3).foldl (fun s k =>
    if (s.ref k).takes n then s.setRef k { s.ref k with dec := bits.foldl (fun x b => x.bit b.1 b.2) (s.ref k).dec } else s) s

/-- The last two samples lie on the two sides of zero, in the given direction. -/
def Decim.crosses (x : Decim) (rising : Bool) : Bool :=
  if rising then decide (x.x0 < 0 ∧ 0 ≤ x.x1) else decide (0 ≤ x.x0 ∧ x.x1 < 0)

/-- The BT of the crossing between the last two samples, interpolated. -/
def Decim.crossAt (x : Decim) : Nat := x.t0 + (x.t1 - x.t0) * x.x0.natAbs / (x.x0.natAbs + x.x1.natAbs)


/-- The RMS level of the half-cycle so far in 0.01 % of nominal (PMK_INFO): samples against the nominal peak of PMK_NOM; with no sample the input is absent and the level 0; a nominal peak of 0 leaves it open. -/
def State.halfLevel (s : State) (k : Nat) : Nat :=
  let x := (s.ref k).dec
  let peak := fld (s.ref k).nom 0 16 * 512
  if x.m = 0 then 0
  else if peak = 0 then (Config.word16 s.free).toNat
  else Nat.min 65535 (isqrt (200000000 * x.sq / (x.m * (peak * peak))))

/-! ### The tracker loop -/

/-- ρ of a filtered frequency in 2^-32 Hz. -/
def rhoOfFreq (f : Nat) : Nat := if f = 0 then 0 else secBt * 2 ^ 56 / f

/-- 2π · bw ÷ 2.06 in units of 2^-32 (R450). -/
def wnOf (bw : Nat) : Int := if bw = 0 then 6550018303 else if bw = 1 then 13100036606 else if bw = 2 then 26200073213 else 65500183032

/-- Put the line of a tracker through position p at BT tx with frequency f; where that lies below the visible position at BT now, the position holds until the line reaches it (R34, R40). -/
def Ref.relineAt (r : Ref) (now tx : Nat) (p : Int) (f : Nat) : Ref :=
  let rho := rhoOfFreq f
  let old := r.posFine now
  let r' := { r with b := tx, p := p.toNat, rho := rho, freq := f }
  if (r'.posFine now : Int) < old ∧ r.state ≠ .disabled then
    { r' with p := old, b := tx + (((old : Int) - p).toNat * rho + 2 ^ 56 - 1) / 2 ^ 56 }
  else r'

/-- The nearest crossing of the given polarity to position x, in half-cycles: even for a positive-going one. -/
def nearHalf (x : Int) (rising : Bool) : Int :=
  let c : Int := 2 ^ 32
  if rising then 2 * ((x + 2 ^ 31).fdiv c) else 2 * (x.fdiv c) + 1

/-- The loop absorbs a crossing with phase error e in units of 2^-32 cycle (R450); m updates a cycle. -/
def Ref.absorb (r : Ref) (now tx : Nat) (e : Int) (m : Nat) : Ref :=
  let wn := wnOf (fld r.cfg 13 2)
  let f : Int := if r.freq = 0 then 1 else r.freq
  let dp := (1414 * wn * e).fdiv (1000 * m * f)
  let df := (wn * wn * e).fdiv (2 ^ 32 * m * f)
  r.relineAt now tx (r.line tx + dp) (f + df).toNat

end Sys2Proof.Machine
end

