-- ==== Sys2Proof/Machine/OpsPin.lean ====
section
/-! DEFINITION. The pin unit: pins, owners, handovers, queues, pad levels, rings (R188 to R221). -/
namespace Sys2Proof.Machine

def State.pin (s : State) (n : Nat) : Pin := s.pins.pins.get n {}
def State.setPin (s : State) (n : Nat) (p : Pin) : State := { s with pins := { s.pins with pins := s.pins.pins.set n p {} } }
def State.gout (s : State) (g : Nat) : Word := s.pins.gout.get g 0
def State.goe (s : State) (g : Nat) : Word := s.pins.goe.get g 0
def State.mmOf (s : State) (g : Nat) : Word := s.pins.mm.get g 0

/-- Pin n is owned by depot d (R189). -/
def State.ownsPin (s : State) (d n : Nat) : Bool :=
  decide (n < s.nPin) && (s.pin n).ownKind == 3 && (s.pin n).ownDep.toNat == d

/-- The owner of pin n is agent ag: the Postmaster, host secure or host normal (R189). -/
def State.agOwnsPin (s : State) (ag : Agent) (n : Nat) : Bool :=
  match ag with
  | .hostS => (s.pin n).ownKind == 1
  | .hostN => (s.pin n).ownKind == 2
  | .dbg => false
  | _ => (s.pin n).ownKind == 0

/-- Fields of PIN_FUNC (Table 7.7). -/
def Pin.fsel (p : Pin) : Nat := fld p.func 0 4
def Pin.bclk (p : Pin) : Nat := fld p.func 6 5
def Pin.ring (p : Pin) : Nat := fld p.func 11 4
def Pin.sink (p : Pin) : Nat := fld p.func 15 2
def Pin.edges (p : Pin) : Nat := fld p.func 17 2
def Pin.idle (p : Pin) : Nat := fld p.func 19 2
def Pin.drop (p : Pin) : Bool := bitAt p.func 22
def Pin.ana (p : Pin) : Bool := bitAt p.elec 6
def Pin.safe (p : Pin) : Nat := fld p.elec 8 2

/-- The function of an fsel code (Table 7.1). -/
def fnOf : Nat → PinFn
  | 1 => .gpio | 2 => .edge | 3 => .ser | 4 => .des | 5 => .clk | 6 => .capture | 7 => .ref | 8 => .comp | _ => .hold

/-- Drive level v with enable oe; a change restarts the settle time (R203). -/
def Pin.drive (p : Pin) (bt : Nat) (v oe : Bool) : Pin :=
  { p with drv := v, oe := oe, chgBt := if v = p.drv ∧ oe = p.oe then p.chgBt else bt }

/-- n discarded entries counted, saturating (R193). -/
def Pin.discard (p : Pin) (n : Nat) : Pin := { p with disc := satAdd p.disc n }

/-- Bit clock k (R211): its state, and the bit in progress at BT t. -/
def State.bck (s : State) (k : Nat) : Bck := s.pins.bcks.get k {}
def State.setBck (s : State) (k : Nat) (b : Bck) : State := { s with pins := { s.pins with bcks := s.pins.bcks.set k b {} } }
/-- t_i and m_i of bit i (R211). -/
def Bck.start (b : Bck) (i : Nat) : Nat := b.t0.toNat + (i * b.per.toNat + 128) / 256
def Bck.centre (b : Bck) (i : Nat) : Nat := b.t0.toNat + (2 * i * b.per.toNat + b.per.toNat + 256) / 512
/-- The largest i with t_i at or before BT t. -/
def Bck.bit (b : Bck) (t : Nat) : Nat := (256 * (t - b.t0.toNat) + 127) / (if b.per = 0 then 1 else b.per.toNat)

/-- The idle level of a serializer (Table 7.7); the reserved code 3 leaves it open. -/
def State.idleLevel (s : State) (p : Pin) : Bool :=
  match p.idle with | 0 => false | 1 => true | 2 => p.lastBit | _ => Config.flag s.free

/-- The level of bit i of a word a serializer shifts (R213). -/
def Pin.serBit (p : Pin) (w : Word) (i : Nat) : Bool := bitAt w (if bitAt p.func 21 then 15 - i % 16 else i % 16)

/-- The BT before which bit clock b gives pin p nothing: its takeover, and the edge at which en was set (R196, R211). -/
def Pin.fromBt (p : Pin) (b : Bck) : Nat := Nat.max p.foBt b.enBt

/-- The last transition that the running bit clock b has given a CLK pin, with its level (R196, R211, R217). -/
def Pin.clkEdge (p : Pin) (b : Bck) (bt : Nat) : Option (Nat × Bool) :=
  let i := b.bit bt
  if !b.en || decide (bt < b.start i) || decide (b.start i < b.enBt) then none
  else if b.centre i ≤ bt then (if p.foBt ≤ b.centre i then some (b.centre i, false) else none)
  else if p.foBt ≤ b.start i then some (b.start i, true) else none

/-- The level pin n drives now (R196, R207, R213, R217). -/
def State.driven (s : State) (n : Nat) : Bool :=
  let p := s.pin n
  let b := s.bck p.bclk
  match p.fn with
  | .ser =>
    (match p.serWord with
     | some w => if b.en then p.serBit w (b.bit s.clk.bt) else p.drv
     | none => p.drv)
  | .clk => (match p.clkEdge b s.clk.bt with | some e => e.2 | none => p.drv)
  | _ => p.drv

/-- The driver of pin n is on: its enable, with ana = 0 (Table 7.3). -/
def Pin.padOe (p : Pin) : Bool := p.oe && !p.ana

/-- The last bit of the word in the serializer, at or before bit i, whose level differs from the bit before it. -/
def Pin.serChange (p : Pin) (w : Word) : Nat → Option Nat
  | 0 => none
  | i + 1 => if (i + 1) % 16 = 0 then none else if p.serBit w (i + 1) = p.serBit w i then p.serChange w i else some (i + 1)

/-- BT of the last change of the level that pin n drives, or of its enable (R203). -/
def State.lastChange (s : State) (n : Nat) : Nat :=
  let p := s.pin n
  let b := s.bck p.bclk
  match p.fn with
  | .ser =>
    (match p.serWord with
     | some w => if b.en then (match p.serChange w (b.bit s.clk.bt) with | some i => b.start i | none => p.chgBt) else p.chgBt
     | none => p.chgBt)
  | .clk => (match p.clkEdge b s.clk.bt with | some e => Nat.max e.1 p.chgBt | none => p.chgBt)
  | _ => p.chgBt

/-- The pad levels of group g: an input from outside, 0 for groups the build does not have; a blanked pin gives the level sampled before (R199, R202). -/
def State.ginOf (s : State) (g : Nat) : Word :=
  if s.nPin ≤ 16 * g then 0
  else (List.range 16).foldl (fun v b =>
    let p := s.pin (16 * g + b)
    if s.clk.bt < p.blankBt then putBit v b p.held else v) (Config.padLevels (s.free + g))

/-- A register or a thread has sampled pads: the free levels are taken. -/
def State.sampled (s : State) : State := { s with free := s.free + 48 }

/-- A handover of pin n to the function in its PIN_FUNC takes effect: queues discarded and counted, input stopped, takeover at rotation r + 3 (R193, R195). -/
def Pin.handover (p : Pin) (rot : Nat) (safe : Bool) : Pin :=
  { p.discard (p.eq.length + p.serq.length) with
    eq := [], serq := [], serOn := false, serWord := none, desq := [], desLost := false, wordJ := none, emit := none, hoHeld := false
    fn := .hold, ho := some (rot + 3, safe) }

def State.handover (s : State) (n : Nat) (safe : Bool) : State :=
  s.setPin n (({ s.pin n with drv := s.driven n } : Pin).handover s.pinRot safe)

/-- A handover to HOLD that the block starts writes HOLD into fsel; the other fields stay (R452). -/
def State.handoverHold (s : State) (n : Nat) (safe : Bool) : State :=
  (s.setPin n { s.pin n with func := (s.pin n).func &&& 0xFFFFFFF0 }).handover n safe

/-- Every pin of depot d starts a handover to HOLD and its safe state (R197). -/
def safePins (s : State) (d : Nat) : State :=
  s.pins.pins.foldl (fun s e => if s.ownsPin d e.1 then s.handoverHold e.1 true else s) s

/-- The pad after a takeover (R196, R197). -/
def Pin.takeover (p : Pin) (bt : Nat) (safe : Bool) (gout goe : Bool) : Pin :=
  let p := { p with ho := none, fn := fnOf p.fsel, serOn := false, serWord := none, lastBit := p.drv && p.oe, foBt := bt, wordJ := none, emit := none }
  if safe then
    (match p.safe with
     | 0 => p.drive bt false true
     | 1 => p.drive bt true true
     | 2 => p.drive bt p.drv false
     | _ => p)
  else match p.fn with
    | .hold => p
    | .gpio => p.drive bt gout goe
    | .edge | .ser | .clk => p.drive bt (p.drv && p.oe) true
    | _ => p.drive bt p.drv false

/-- The pads of group g in GPIO follow PIN_GOUT and PIN_GOE (R204, R205). -/
def gpioFollow (s : State) (g : Nat) : State :=
  (List.range 16).foldl (fun s b =>
    let p := s.pin (16 * g + b)
    if p.fn = .gpio then s.setPin (16 * g + b) (p.drive s.clk.bt (bitAt (s.gout g) b) (bitAt (s.goe g) b)) else s) s

/-- An event of wake source b is pending while the block is in Hold or on its way there (R405, R406). -/
def State.wakeSrc (s : State) (b : Nat) : State :=
  if s.pwr.state = .hold ∨ s.pwr.target = some .hold then { s with pwr := { s.pwr with wakePend := setBit s.pwr.wakePend b } } else s

/-- Set the PIN_GOUT bits of group g under a mask (R204, R205). -/
def setGout (s : State) (g : Nat) (mask v : Word) : State :=
  gpioFollow { s with pins := { s.pins with gout := s.pins.gout.set g ((s.gout g &&& ~~~ mask) ||| (v &&& mask)) 0 } } g
def setGoe (s : State) (g : Nat) (mask v : Word) : State :=
  gpioFollow { s with pins := { s.pins with goe := s.pins.goe.set g ((s.goe g &&& ~~~ mask) ||| (v &&& mask)) 0 } } g

/-- PIN_ERR_INFO takes pin and cause where it is not valid; cfg_err sets (R192). -/
def State.pinErr (s : State) (n cause : Nat) : State :=
  let s := if bitAt s.pins.errInfo 31 then s
    else { s with pins := { s.pins with errInfo := BitVec.ofNat 32 (2 ^ 31 + cause * 2 ^ 24 + n % 1024) } }
  s.pinEvt 3

/-- The queue of a pin is full: 4 entries with those still crossing (R209). -/
def Pin.eqFull (p : Pin) : Bool := decide (4 ≤ p.eq.length + p.eqX.length)

/-- The pair that posts for a thread, for R389. -/
def pairOf (t : Tid) : Nat := depOf t * 8 + engOf t / 2

/-- Post an edge entry of thread t on pin n, behind what its depot has sent before (R18, R57, R206). -/
def postEdge (s : State) (t : Tid) (n : Nat) (tau : W64) (v : Bool) : State :=
  let s := s.setPin n { s.pin n with eqX := (s.pin n).eqX ++ [(tau, v)], lastPair := some (pairOf t) }
  { s with pins := { s.pins with xord := s.pins.xord ++ [(depOf t, n)] } }

/-- Every entry of pin n that has not been applied goes, uncounted (R210). -/
def flushEdges (s : State) (n : Nat) : State :=
  let s := s.setPin n { s.pin n with eq := [], eqX := [], emit := none }
  { s with pins := { s.pins with xord := s.pins.xord.filter fun e => e.2 != n } }

/-- Queue a serializer word, or count it where the pin is not in SER (R213). -/
def postSer (s : State) (t : Tid) (n : Nat) (w : Word) : State :=
  let p := s.pin n
  if p.fsel = 3 then s.setPin n { p with serq := p.serq ++ [w], lastPair := some (pairOf t) }
  else s.setPin n (p.discard 1)

/-- A PDES finds a word: DES, sink THREAD, a word queued (R215). -/
def Pin.desWord (p : Pin) : Option (Word × Pin) :=
  if p.fn = .des ∧ p.sink = 1 then
    match p.desq with
    | w :: r => some (w, { p with desq := r, desLost := false })
    | [] => none
  else none

/-! ### Rings (R218 to R220) -/

/-- The rules of R218 for a ring configuration v at base b: a multiple of 8, len at most 9, all in one bank. -/
def ringOk (v : W32) (b : Nat) : Bool :=
  b % 8 == 0 && decide (fld v 0 4 ≤ 9) && bankOf b == bankOf (b + 7 + 64 * 2 ^ fld v 0 4)

end Sys2Proof.Machine
end

