-- ==== Sys2Proof/Machine/DepotEv.lean ====
section
/-! DEFINITION. Thread commands, drains, stall detectors, boosts and the DEP registers with rows of their own (R71 to R98). -/
namespace Sys2Proof.Machine

/-- A write by agent ag to the window of depot d reaches it (R78, R403, R411, R434). -/
def State.depWrite (s : State) (ag : Agent) (d : Nat) : Bool := s.depUp d && s.depWriter ag d

/-- A command to thread t is refused with cmd_err: depot not in RUN, or frozen pair (R78). -/
def State.cmdBarred (s : State) (t : Tid) : Bool := !s.depRun (depOf t) || s.frozen t

/-- A thread command by agent ag: dropped where the write does not reach the depot or names a follower; cmd_err where barred or where `ok` fails; else k (R78, R80). -/
def threadCmd (ag : Agent) (t : Tid) (s : State) (ok : Thread → Bool) (k : State → State) : State :=
  if !s.depWrite ag (depOf t) || s.follower t then s
  else if s.cmdBarred t || !ok (s.thr t) then s.cmdErr (depOf t)
  else k s

/-- START from IDLE, STOPPED or FAULTED, with a slice (Table 3.5). -/
def startOk (h : Thread) : Bool :=
  (h.state == .idle || h.state == .stopped || h.state == .faulted) && bitAt h.slice 15

/-- The effect of START (Table 3.5): registers reset, staging counted if it held words, RUNNING at pc. -/
def startThr (s : State) (t : Tid) (pc : Word) : State :=
  let d := depOf t
  let h := s.thr t
  let D := (s.dep d).setThr (idxOf t) (h.started pc)
  s.setDep d (if h.staging = [] then D else { D with torn := satInc D.torn })

/-- START (R78). -/
def execStart (ag : Agent) (t : Tid) (pc : Word) (s : State) : Out :=
  .next (threadCmd ag t s startOk fun s => startThr s t pc)

/-- STOP from RUNNING or BLOCKED (R79). -/
def execStop (ag : Agent) (t : Tid) (s : State) : Out :=
  .next (threadCmd ag t s (fun h => h.state == .running || h.state == .blocked) fun s => stopThr s t .stopped)

/-- RESUME from STOPPED (R78). -/
def execResume (ag : Agent) (t : Tid) (s : State) : Out :=
  .next (threadCmd ag t s (fun h => h.state == .stopped) fun s => s.setThr t { s.thr t with state := .running })

/-- ABORT from any state but IDLE (R80). -/
def execAbort (ag : Agent) (t : Tid) (s : State) : Out :=
  .next (threadCmd ag t s (fun h => h.state != .idle) fun s => abortThr s t)

/-- DEP_SLICE_WRITE: takes effect while the thread is IDLE, STOPPED or FAULTED and the slice is legal; else cmd_err (R81, R82). -/
def execDepSliceWrite (ag : Agent) (t : Tid) (v : W32) (s : State) : Out :=
  let h := s.thr t
  .next (if !s.depWrite ag (depOf t) then s
    else if (h.state = .idle ∨ h.state = .stopped ∨ h.state = .faulted) ∧ sliceOk v then
      s.setThr t { h with slice := v &&& 0x871F }
    else s.cmdErr (depOf t))

/-- DEP_XSEL_WRITE: the express selection of eight engines (R71). -/
def execDepXselWrite (ag : Agent) (d : Nat) (hi : Bool) (v : W32) (s : State) : Out :=
  .next (if !s.depWrite ag d then s
    else if hi then s.setDep d { s.dep d with xselHi := v } else s.setDep d { s.dep d with xselLo := v })

/-- The loader write (R87). -/
def loaderWrite (D : Depot) (v : W32) : Depot :=
  if D.ldAddr.toNat ≤ 0xBFFF then
    { D with code := D.code.write32 (4 * D.ldAddr.toNat) v, codeErr := D.codeErr.set D.ldAddr.toNat none none, ldAddr := D.ldAddr + 1 }
  else D

/-- A transfer is active in depot d: as its source or its spare (R378). -/
def XPhase.active : XPhase → Bool | .code => true | .wait => true | .freeze => true | _ => false
def State.xferActive (s : State) (d : Nat) : Bool :=
  (List.range 32).any fun f => (s.dep f).xfer.phase.active && (f == d || (s.dep f).xfer.spare == d)

/-- DEP_LD_DATA_WRITE (R87); during a transfer it is ignored with cmd_err (R378). -/
def execDepLdDataWrite (ag : Agent) (d : Nat) (v : W32) (s : State) : Out :=
  .next (if !s.depWrite ag d then s else if s.xferActive d then s.cmdErr d else s.setDep d (loaderWrite (s.dep d) v))

/-- The loader read: the instruction and the next address; 0 above the store (R87). -/
def loaderRead (D : Depot) : W32 × Depot :=
  if D.ldAddr.toNat ≤ 0xBFFF then (D.codeWord D.ldAddr.toNat, { D with ldAddr := D.ldAddr + 1 }) else (0, D)

/-- DEP_LD_DATA_READ (R87); every agent may read the window (R411). -/
def execDepLdDataRead (ag : Agent) (d : Nat) (s : State) : Out :=
  .next (if s.depUp d && ag != .dbg then
    { s.setDep d (loaderRead (s.dep d)).2 with rdata := (loaderRead (s.dep d)).1 } else { s with rdata := 0 })

/-- A STOPPING thread finishes (R79): its operation in flight, if any, completes and it stops. -/
def stopComplete (t : Tid) (s : State) : State :=
  let h := s.thr t
  if h.state = .stopping ∧ h.pend = .none ∧ s.depUp (depOf t) then
    let s := s.setThr t { h with state := h.stopTo }
    if h.stopTo = .halted then s.dbgEvt 0 else s
  else s

/-! ### Drain and OFF -/

/-- What a depot loses when it becomes OFF (R98): chutes, buffers, frozen pairs; threads IDLE; staging buffers counted where `torn` says (R148). -/
def Depot.off (D : Depot) (torn : Bool) : Depot :=
  let n := (D.threads.filter fun e => e.2.staging != []).length
  { D with
    state := .off
    threads := D.threads.foldl (fun m e =>
      SMap.set m e.1 { (SMap.get m e.1 (Thread.reset e.1)).idled with pickup := [] } (Thread.reset e.1)) D.threads
    chutes := [], lchutes := [], outbuf := [], frozen := 0, twinValid := false, twinGroup := 0, twinPair := 0, stallFrom := none, wideFrom := none
    torn := if torn then satAdd D.torn n else D.torn }

/-- Every agent identity of the threads of depot d. -/
def depAgent (d : Nat) (a : BitVec 13) : Bool := decide (a.toNat / 128 = d)

/-- Queued and arriving reservations for the long chutes of depot d end TARGET_DOWN at their senders (R98). -/
def refuseResvs (s : State) (d : Nat) : State :=
  let qs := (s.dep d).lchutes.flatMap fun e => e.2.queue
  let as := s.srt.arr.filter fun r => r.target == 64 + d
  let s := { s with srt := { s.srt with arr := s.srt.arr.filter fun r => r.target != 64 + d } }
  let s := qs.foldl (fun s v => s.respond v.tid v.tag (.dead 1)) s
  let s := as.foldl (fun s r => s.respond r.tid r.tag (.dead 1)) s
  s.setDep d { s.dep d with lchutes := (s.dep d).lchutes.foldl (fun m e => SMap.set m e.1 { SMap.get m e.1 ({} : LChute) with queue := [] } {}) (s.dep d).lchutes }

/-- The reservations of the threads of depot d, which is going down, are withdrawn everywhere. -/
def freeResvs (s : State) (d : Nat) : State :=
  s.deps.foldl (fun s e => s.setDep e.1 { s.dep e.1 with
    lchutes := (s.dep e.1).lchutes.foldl (fun m c => SMap.set m c.1 (c.2.withdraw fun v => depOf v.tid == d) {}) [] }) s

/-- Hardware clears a depot: memories and slice table return to 0 and reset (R404, R424); the state is CLEARING. -/
def Depot.startClear (D : Depot) : Depot :=
  { D with
    state := .clearing, edm := [], edmErr := [], code := [], codeErr := [], chutes := [], lchutes := []
    threads := D.threads.foldl (fun m e =>
      let h := SMap.get m e.1 (Thread.reset e.1)
      SMap.set m e.1 { Thread.reset e.1 with prio := h.prio, tmo := h.tmo } (Thread.reset e.1)) D.threads }

/-- The depot becomes OFF: R98, then a held write of en takes effect; a depot due to lose power stays OFF (R403), one being zeroised is cleared (R424). -/
def depotOff (s : State) (d : Nat) (torn : Bool) : State :=
  let s := freeResvs (refuseResvs s d) d
  let s := sealSideband s (depAgent d)
  let D := (s.dep d).off torn
  if bitAt s.sec.zdDeps d then s.setDep d D.startClear else
  if s.dueOff d then s.setDep d { D with en := false, enHeld := none } else
  s.setDep d (match D.enHeld with
    | some true => { D with state := .run, en := true, enHeld := none }
    | some false => { D with en := false, enHeld := none }
    | none => D)

/-- A drain starts (R97): waits withdrawn, pins of the depot to their safe state. -/
def startDrain (s : State) (d : Nat) : State :=
  let s := s.setDep d { s.dep d with state := .draining, drainFrom := s.clk.bt, drainCnt := 0 }
  let s := refuseResvs s d
  let s := (s.dep d).threads.foldl (fun s e =>
    let t := tidOf d e.1
    let h := s.thr t
    if h.pend = .none ∨ h.pend.inFlight then s
    else let s := withdraw s t; s.setThr t { s.thr t with state := if h.state = .blocked then .running else h.state, pend := .none }) s
  safePins s d

/-- The request in the sorter is an access or release that thread h does not wait for: its thread was aborted, or its pair froze (R80, R388). -/
def SReq.orphaned (r : SReq) (h : Thread) (frozen : Bool) : Bool :=
  match r.op with
  | .resv _ _ _ => false
  | .burst _ => false
  | _ => frozen || !(match h.pend with | .xload g _ _ => g == r.tag | .xstore g => g == r.tag | .rel g => g == r.tag | _ => false)

/-- Operations of depot d still outstanding (R97): accesses, releases and exact operations in flight of threads that can end them, requests of threads that cannot, committed long-chute messages. -/
def State.outstanding (s : State) (d : Nat) : Nat :=
  ((s.dep d).threads.filter fun e => e.2.pend.inFlight && !s.frozen (tidOf d e.1)).length
  + (s.srt.reqs.filter fun r => r.code == d && r.orphaned (s.thr r.tid) (s.frozen r.tid)).length + (s.dep d).outbuf.length

/-- The end of a drain (R97, R98). -/
def finishDrain (s : State) (d : Nat) : State := (depotOff s d true).depEvt d 3

/-- DEPOT_ENABLE: setting DEP_CTL.en (R98). -/
def enableDepot (s : State) (d : Nat) : State :=
  let D := s.dep d
  match D.state with
  | .off => if s.dueOff d then s else s.setDep d { D with state := .run, en := true }
  | .run => s
  | _ => s.setDep d { D with enHeld := some true }
def execDepotEnable (ag : Agent) (d : Nat) (s : State) : Out := .next (if s.depWrite ag d then enableDepot s d else s)

/-- DEPOT_DRAIN: clearing DEP_CTL.en (R97, R98). -/
def drainDepot (s : State) (d : Nat) : State :=
  let D := s.dep d
  match D.state with
  | .run => startDrain (s.setDep d { D with en := false }) d
  | .off => s.setDep d { D with en := false }
  | _ => s.setDep d { D with enHeld := some false }
def execDepotDrain (ag : Agent) (d : Nat) (s : State) : Out := .next (if s.depWrite ag d then drainDepot s d else s)

/-- DRAIN_COMPLETE: nothing is outstanding (R97). -/
def execDrainComplete (d : Nat) (s : State) : Out :=
  .next (if s.depUp d ∧ (s.dep d).state = .draining ∧ s.outstanding d = 0 then finishDrain s d else s)

/-- DRAIN_TIMEOUT: DEP_DRAIN_TMO has passed with operations outstanding: they are aborted and counted, outbound messages captured with cause ABORTED (R97). -/
def execDrainTimeout (d : Nat) (s : State) : Out :=
  .next (if s.depUp d ∧ (s.dep d).state = .draining ∧ s.outstanding d ≠ 0
      ∧ (s.dep d).drainFrom + (s.dep d).drainTmo.toNat * 9600 ≤ s.clk.bt then
    let n := s.outstanding d
    let s := (s.dep d).outbuf.foldl (fun s m => s.capture d
      { cause := 4, tid := m.tid, target := BitVec.ofNat 16 (0x8000 + m.depot * 256 + m.lc), words := m.words }) s
    let srt := { s.srt with
      reqs := s.srt.reqs.filter (fun r => r.code != d), arr := s.srt.arr.filter (fun r => r.code != d)
      bursts := s.srt.bursts.filter (fun b => b.code != d), resps := s.srt.resps.filter (fun r => depOf r.tid != d) }
    let s := { s with srt := srt }
    let s := (s.setDep d { s.dep d with drainCnt := satAdd 0 n }).depEvt d 4
    finishDrain s d
  else s)

/-! ### Stall detectors (R93 to R95) -/

/-- The wait of thread index i of depot d is internal; wide also counts long chutes and seals of any thread (R93, R95). -/
def State.internal (s : State) (d : Nat) (h : Thread) (wide : Bool) : Bool :=
  match h.pend with
  | .recv _ (.eng e c) none => !bitAt ((s.dep d).chx.get e 0) c
  | .recv _ (.long _) none => wide
  | .sende _ _ _ _ => true
  | .sendeLong _ _ _ _ _ => wide
  | .sendeBuf _ _ _ _ => wide
  | .acq tag _ =>
    match s.seals.waits.find? (fun x => x.tag == tag && x.agent.toNat < 4096) with
    | some x => (match s.sealAt x.addr with
      | some y => decide (y.owner.toNat < 4096) && (wide || depAgent d y.owner)
      | none => false)
    | none => false
  | _ => false

/-- The live threads of a depot for the detectors: RUNNING, BLOCKED or STOPPING, pair not frozen. -/
def State.liveThreads (s : State) (d : Nat) : List Thread :=
  ((s.dep d).threads.filter fun e =>
    (e.2.state == .running || e.2.state == .blocked || e.2.state == .stopping) && !s.frozen (tidOf d e.1)).map (·.2)

/-- The stall condition of depot d (R94, R95). -/
def State.stallCond (s : State) (d : Nat) (wide : Bool) : Bool :=
  s.depRun d && s.liveThreads d != [] &&
    (s.liveThreads d).all fun h => h.state == .blocked && s.internal d h wide

/-- DEPOT_STALL: the stall counter reaches its limit (R94). -/
def execDepotStall (d : Nat) (s : State) : Out :=
  let D := s.dep d
  .next (match D.stallFrom with
    | some r =>
      if D.stallLim ≠ 0 ∧ r + D.stallLim.toNat ≤ s.rot ∧ D.stallFired = false ∧ s.stallCond d false then
        (s.setDep d { D with stallFired := true }).depEvt d 1
      else s
    | none => s)

/-- The depots the block-wide detector looks at: in RUN with a live thread (R95). -/
def State.liveDepots (s : State) : List Nat := (List.range s.nDep).filter fun d => s.depRun d && s.liveThreads d != []

/-- The condition of the block-wide detector (R95). -/
def State.blockStalled (s : State) : Bool :=
  s.liveDepots != [] && s.liveDepots.all fun d =>
    (s.dep d).stallLim != 0 && s.stallCond d true &&
    (match (s.dep d).wideFrom with | some r => decide (r + (s.dep d).stallLim.toNat ≤ s.rot) | none => false)

/-- BLOCK_STALL: the detector fires once: DEP_FSTAT.bstall in each of those depots, which raises the Postmaster's interrupt (R95). -/
def execBlockStall (s : State) : Out :=
  .next (if s.blockStalled ∧ s.irq.bstallFired = false then
    let ds := s.liveDepots
    let s := ds.foldl (fun s d => s.depEvt d 2) s
    ({ s with irq := { s.irq with bstallFired := true } }).safeEvt 7
  else s)

/-- The detectors' counters at a clock edge: a counter runs while its condition holds and returns to 0 when it fails (R94, R95). -/
def stallTick (s : State) : State :=
  let s := s.deps.foldl (fun s e =>
    let d := e.1
    let D := s.dep d
    let n := s.stallCond d false
    let w := s.stallCond d true
    s.setDep d { D with
      stallFrom := if n then some (D.stallFrom.getD s.rot) else none
      wideFrom := if w then some (D.wideFrom.getD s.rot) else none
      stallFired := D.stallFired && n }) s
  if s.blockStalled then s else { s with irq := { s.irq with bstallFired := false } }

/-! ### Boosts (R91, R167) -/

/-- BOOST_START: the effective priority of a holder above its own takes effect as its boost (R91, R167, R388). -/
def execBoostStart (t : Tid) (s : State) : Out :=
  let v := s.prioOf (t.setWidth 13)
  .next (if s.live t ∧ (s.thr t).prio.toNat < v then s.setThr t { s.thr t with boost := some v } else s)

/-- BOOST_END: the effective priority has fallen to the thread's own (R91, R167). -/
def execBoostEnd (t : Tid) (s : State) : Out :=
  .next (if s.live t ∧ (s.thr t).boost ≠ none ∧ s.prioOf (t.setWidth 13) = (s.thr t).prio.toNat then
    s.setThr t { s.thr t with boost := none } else s)

/-! ### Issue slots (R64 to R70, R92) -/

/-- The express selection of an engine (Table 3.9): its thread, where it has one. -/
def Depot.express (D : Depot) (e : Nat) : Option Nat :=
  let v := if e < 8 then D.xselLo else D.xselHi
  if bitAt v (4 * (e % 8) + 3) then some (fld v (4 * (e % 8)) 3) else none

/-- A thread with own slot e that last issued `since` cycles ago may take the lent slot k (R69). -/
def lentOk (e k since : Nat) : Bool := decide (4 ≤ since) && decide (1 ≤ (k + 8 - e) % 8 ∧ (k + 8 - e) % 8 ≤ 4)

/-- Who issues in slot k of engine e of depot d (R68 to R70, R92): the owner when ready; else a boosted thread by inherited priority, lower number first; else the express thread, to which a boost of its own gives nothing. since gives the cycles since each thread's last issue. -/
def slotWinner (s : State) (d e k : Nat) (since : List Nat) : Option Nat :=
  let rdy (i : Nat) : Bool := s.ready (tidOf d (8 * e + i))
  let old (i : Nat) : Nat := since[i]?.getD 4
  let D := s.dep d
  if rdy k then (if D.express e = some k ∧ old k < 4 then none else some k)
  else
    let boosted := (List.range 8).filter fun i => (D.thr (8 * e + i)).boost.isSome && D.express e != some i && rdy i && lentOk i k (old i)
    let best := boosted.foldl (fun m i => match m with
      | none => some i
      | some j => if (D.thr (8 * e + j)).boost.getD 0 < (D.thr (8 * e + i)).boost.getD 0 then some i else m) none
    match best with
    | some i => some i
    | none => match D.express e with
      | some x => if rdy x && lentOk x k (old x) then some x else none
      | none => none

end Sys2Proof.Machine
end

