-- ==== Sys2Proof/Machine/EngChute.lean ====
section
/-! DEFINITION. The meanings of the chute instructions and of the events of chutes (R126, R127, R134 to R147). -/
namespace Sys2Proof.Machine

/-- SEND: stages W[p] while fewer than 15 words are staged; V tells a full buffer (R127). -/
def execSend (t : Tid) (p : Reg) (s : State) : Out :=
  .next (alu t s fun h =>
    if h.staging.length < 15 then { h with staging := h.staging ++ [h.reg p] }.flags { v := some false }
    else h.flags { v := some true })

/-- SENDE: appends the final word and commits, queues, reserves or dead-letters the message (R126, R127, R134, R140, R146). -/
def execSende (t : Tid) (tgt : TgtOp) (p : Reg) (s : State) : Out :=
  .next (issue t s fun s h =>
    let tw := tgtWord h tgt
    match targetOf s.nDep (engOf t) tw with
    | none => s.faultThr t .chuteTarget
    | some (.eng e c) => sendEng t e c tw (h.reg p) s h
    | some (.long d l) => sendLong t d l (h.reg p) s.rot s)

/-- RECV: takes the oldest waiting message, times out at once, or blocks (R127, R138, R144). A chute field above 15 of an engine chute is reserved. -/
def execRecv (t : Tid) (p : Reg) (long : Bool) (ch : BitVec 8) (timed : Bool) (s : State) : Out :=
  .next (issue t s fun s h =>
    if !long && decide (15 < ch.toNat) then s.faultThr t .illegal
    else recvOn t p (if long then .long ch.toNat else .eng (engOf t) ch.toNat) timed s h)

/-- The index of TAKE. -/
def takeIndex (h : Thread) : TakeIdx → Nat
  | .imm i => i.val
  | .reg q => (h.reg q).toNat

/-- TAKE: p := pickup[index]; an index at or above the length gives 0 with Z and V (R127). -/
def execTake (t : Tid) (p : Reg) (i : TakeIdx) (s : State) : Out :=
  .next (alu t s fun h =>
    match h.pickup[takeIndex h i]? with
    | some v => (h.setReg p v).flags { z := some (v == 0), n := some v.msb, v := some false }
    | none => (h.setReg p 0).flags { z := some true, v := some true })

/-- SENDE_QUEUED_COMMIT: at a rotation boundary queued senders commit from the head while room fits (R137). -/
def execSendeQueuedCommit (d e c : Nat) (s : State) : Out :=
  .next (if s.depIssues d then commitQueued d e c ((s.dep d).chute e c).senders.length s else s)

/-- RECV_DELIVERY: at a rotation boundary waiting messages go to the heads of the blocked receivers, after the queued senders have committed (R137, R138). -/
def execRecvDelivery (d : Nat) (ch : ChuteRef) (s : State) : Out :=
  .next (if s.depIssues d then chuteTurn d ch s else s)

/-- RECV_TIMEOUT: a timed RECV ends with TIMEOUT when its rotation has come and no message waits for it (R144). -/
def execRecvTimeout (t : Tid) (s : State) : Out :=
  let h := s.thr t
  .next (match h.pend with
    | .recv p ch (some dl) =>
      if dl ≤ s.rot ∧ s.live t then
        let s := chuteTurn (depOf t) ch s
        match (s.thr t).pend with
        | .recv _ _ _ =>
          let D := (s.dep (depOf t)).leaveChutes t
          s.setDep (depOf t) (D.setThr (idxOf t) (((D.thr (idxOf t)).recvTimeout p).complete .seq))
        | _ => s
      else s
    | _ => s)

/-- SENDE_TIMEOUT: a blocked SENDE ends with the timeout outcome after send_rot; a commit at the same boundary, or a grant that has reached the sender, wins (R137, R145). -/
def execSendeTimeout (t : Tid) (s : State) : Out :=
  let h := s.thr t
  let due (n : Nat) : Bool := bitAt h.tmo 31 && decide (n + fld h.tmo 16 15 ≤ s.rot) && s.live t
  let fin (s : State) : State := s.setThr t ((s.thr t).sendTimeout.complete .seq)
  .next (match h.pend with
    | .sende e c _ n =>
      if due n then
        let d := depOf t
        let s := if s.depIssues d then commitQueued d e c ((s.dep d).chute e c).senders.length s else s
        match (s.thr t).pend with
        | .sende _ _ _ _ => fin (withdraw s t)
        | _ => s
      else s
    | .sendeBuf _ _ _ n => if due n then fin s else s
    | .sendeLong tag _ _ _ n =>
      if due n then (match s.respOf t tag with | some .grant => s | _ => fin (withdraw s t)) else s
    | _ => s)

/-- UNIT_MESSAGE_COMMIT: the oldest unit message crosses into its depot and is committed, or dropped and counted; a depot in a transfer freeze holds it (R143, R379). -/
def execUnitMessageCommit (s : State) : Out :=
  .next (match s.umsgs with
    | [] => s
    | m :: r => if (s.dep m.depot).xfer.phase = .freeze then s else commitUnit { s with umsgs := r } m)

/-- Judge a reservation at its target (R140, R142, R146): dead letter, grant, or queue. -/
def judgeResv (s : State) (r : SReq) (d l len : Nat) : State :=
  let x := (s.dep d).lchute l
  if !s.depRun d then s.respond r.tid r.tag (.dead 1)
  else if s.depNormal (depOf r.tid) != s.depNormal d && !bitAt (s.dep d).lxdom l then
    let s := s.respond r.tid r.tag (.dead 3)
    if s.depNormal (depOf r.tid) then s.violation 3 (r.tid.setWidth 13) (BitVec.ofNat 32 (0x8000 + d * 256 + l)) else s
  else
    let v : Resv := { tid := r.tid, len := len, tag := r.tag }
    if x.fits len ∧ x.queue = [] then
      (s.setDep d ((s.dep d).setLchute l { x with granted := x.granted ++ [v] })).respond r.tid r.tag .grant
    else s.setDep d ((s.dep d).setLchute l { x with queue := x.queue ++ [v] })

/-- Offer freed room of each long chute of depot d to the head of its queued reservations (R140). -/
def offerRoom (s : State) (d : Nat) : State :=
  (s.dep d).lchutes.foldl (fun s e =>
    let x := (s.dep d).lchute e.1
    match x.queue with
    | v :: q =>
      if x.fits v.len then
        (s.setDep d ((s.dep d).setLchute e.1 { x with granted := x.granted ++ [v], queue := q })).respond v.tid v.tag .grant
      else s
    | [] => s) s

/-- Of the accesses of one input to one depot none overtakes another (R173): a reservation waits for the bursts, and a burst for the reservations, that passed before it. -/
def State.resvReady (s : State) (d : Nat) (r : SReq) : Bool :=
  r.target == 64 + d && !s.srt.bursts.any fun b => b.target == 64 + d && b.code == r.code && decide (b.no < r.no)
def State.burstReady (s : State) (d : Nat) (b : Burst) : Bool :=
  b.target == 64 + d && !s.srt.arr.any fun r => r.target == 64 + d && r.code == b.code && decide (r.no < b.no)

/-- LONG_CHUTE_RESERVATION: depot d judges the oldest reservation the sorter has passed to it; with none, freed room is offered to queued ones, and threads blocked on the depot's own outbound buffer send theirs (R140). -/
def execLongChuteReservation (d : Nat) (s : State) : Out :=
  .next (match s.srt.arr.find? (s.resvReady d) with
    | some r =>
      let s := { s with srt := { s.srt with arr := s.srt.arr.filter fun q => q.tag != r.tag } }
      match r.op with
      | .resv d' l len => judgeResv s r (s.redirect d') l len
      | _ => s
    | none => refillAll d (s.dep d).threads.length (offerRoom s d))

/-- LONG_CHUTE_GRANT: the sender copies the message to its outbound buffer, posts the burst and completes; a dead letter is captured (R140, R146). -/
def execLongChuteGrant (t : Tid) (s : State) : Out :=
  let h := s.thr t
  .next (if !s.live t then s else match h.pend with
    | .sendeLong tag d l w _ =>
      match s.respOf t tag with
      | some .grant =>
        let m : OutMsg := { tid := t, depot := s.redirect d, lc := l, tag := tag, words := h.message w }
        let n := if m.words.length ≤ 8 then 4 else 8
        let s := (s.dropResp tag).setThr t (h.sent.complete .seq)
        let s := s.setDep (depOf t) { s.dep (depOf t) with outbuf := (s.dep (depOf t)).outbuf ++ [m] }
        s.request (depOf t) (64 + m.depot) n t (.burst m)
      | some (.dead c) =>
        let s := (s.dropResp tag).setThr t (h.deadLettered.complete .seq)
        refillOut (s.capture (depOf t)
          { cause := c, tid := t, target := BitVec.ofNat 16 (0x8000 + d * 256 + l), words := h.message w }) (depOf t)
      | _ => s
    | _ => s)

/-- LONG_CHUTE_DELIVERY: the oldest burst at depot d has arrived; its message waits in the long chute in the order of the grants, or is dead-lettered where the depot is down or has lost the reservation since (R140 to R142). -/
def execLongChuteDelivery (d : Nat) (s : State) : Out :=
  .next (match s.srt.bursts.find? (s.burstReady d) with
    | none => s
    | some b =>
      let s := { s with srt := { s.srt with bursts := s.srt.bursts.erase b } }
      let src := depOf b.msg.tid
      let s := s.setDep src { s.dep src with outbuf := (s.dep src).outbuf.filter fun m => m.tag != b.msg.tag }
      let x := (s.dep d).lchute b.msg.lc
      let s := if s.depRun d ∧ x.granted.any fun v => v.tag == b.msg.tag then
          s.setDep d ((s.dep d).setLchute b.msg.lc (x.arrive b.msg.tag b.msg.words))
        else s.capture src
          { cause := 1, tid := b.msg.tid, target := BitVec.ofNat 16 (0x8000 + d * 256 + b.msg.lc), words := b.msg.words }
      refillOut s src)

/-- Discard the oldest dead-letter record of depot d (R147). -/
def popDl (s : State) (d : Nat) : State := s.setDep d { s.dep d with dl := (s.dep d).dl.drop 1 }

/-- CHUTE_DL_POP: a write by an agent that may write the DEP window discards the oldest record (R147). -/
def execChuteDlPop (ag : Agent) (d : Nat) (s : State) : Out :=
  .next (if s.depUp d && s.depWriter ag d then popDl s d else s)

end Sys2Proof.Machine
end

