-- ==== Sys2Proof/Machine/EngCode.lean ====
section
/-! DEFINITION. The encodings of the engine instructions: forms, major opcodes, functions, reserved fields (R108 to R110, R113 to R133, R454, Tables 4.3 to 4.17). -/
namespace Sys2Proof

/-- A register as a 4-bit field, and back. -/
def regBits (r : Fin 16) : BitVec 4 := BitVec.ofFin r
def bitsReg (v : BitVec 4) : Fin 16 := v.toFin
/-- A small index as its field. -/
def bit1 (n : Fin 2) : BitVec 1 := BitVec.ofFin n
def bit2 (n : Fin 4) : BitVec 2 := BitVec.ofFin n
def bits3 (n : Fin 8) : BitVec 3 := BitVec.ofFin n
def boolBit (b : Bool) : BitVec 1 := BitVec.ofBool b

/-- The forms of Table 4.3; forms C and F have the shape of form B. -/
def formA (maj : BitVec 6) (d a b : BitVec 4) (m : BitVec 8) (f : BitVec 6) : W32 := maj ++ d ++ a ++ b ++ m ++ f
def formB (maj : BitVec 6) (d a : BitVec 4) (x : BitVec 2) (imm : BitVec 16) : W32 := maj ++ d ++ a ++ x ++ imm
def formD (acc : BitVec 1) (a b : BitVec 4) (m : BitVec 1) (f : BitVec 4) (imm : BitVec 12) : W32 :=
  0x18#6 ++ acc ++ a ++ b ++ m ++ f ++ imm
def formE (maj : BitVec 6) (c : BitVec 4) (x : BitVec 6) (tg : BitVec 16) : W32 := maj ++ c ++ x ++ tg

/-- Fields of a word by position (Table 4.3). -/
def fMaj (w : W32) : BitVec 6 := w.extractLsb' 26 6
def f22 (w : W32) : BitVec 4 := w.extractLsb' 22 4
def f18 (w : W32) : BitVec 4 := w.extractLsb' 18 4
def f14 (w : W32) : BitVec 4 := w.extractLsb' 14 4
def fMod (w : W32) : BitVec 8 := w.extractLsb' 6 8
def fFunc (w : W32) : BitVec 6 := w.extractLsb' 0 6
def fX (w : W32) : BitVec 2 := w.extractLsb' 16 2
def fImm (w : W32) : BitVec 16 := w.extractLsb' 0 16
def fX6 (w : W32) : BitVec 6 := w.extractLsb' 16 6
def fAcc (w : W32) : BitVec 1 := w.extractLsb' 25 1
def fDa (w : W32) : BitVec 4 := w.extractLsb' 21 4
def fDb (w : W32) : BitVec 4 := w.extractLsb' 17 4
def fDm (w : W32) : BitVec 1 := w.extractLsb' 16 1
def fDf (w : W32) : BitVec 4 := w.extractLsb' 12 4
def fDi (w : W32) : BitVec 12 := w.extractLsb' 0 12

/-- An instruction where its reserved fields are 0 (R109). -/
def keep (ok : Bool) (i : Instr) : Option Instr := if ok then some i else none

/-- Major 0x00 (Table 4.6). -/
def decodeAlu (t : Tid) (w : W32) : Option Instr :=
  let d := bitsReg (f22 w)
  let a := bitsReg (f18 w)
  let b := bitsReg (f14 w)
  let m0 := fMod w == 0
  match (fFunc w).toNat with
  | 0 => keep m0 (.add t d a b)
  | 1 => keep m0 (.adc t d a b)
  | 2 => keep m0 (.sub t d a b)
  | 3 => keep m0 (.sbb t d a b)
  | 4 => keep (m0 && f22 w == 0) (.cmp t a b)
  | 5 => keep (m0 && f14 w == 0) (.neg t d a)
  | 6 => keep (m0 && f14 w == 0) (.abs t d a)
  | 7 => keep m0 (.min t d a b)
  | 8 => keep m0 (.max t d a b)
  | 9 => keep m0 (.and t d a b)
  | 10 => keep m0 (.or t d a b)
  | 11 => keep m0 (.xor t d a b)
  | 12 => keep m0 (.andn t d a b)
  | 13 => keep (m0 && f14 w == 0) (.not t d a)
  | 14 => keep (m0 && f22 w == 0) (.tst t a b)
  | 15 => keep (m0 && f14 w == 0) (.mov t d a)
  | 16 => keep m0 (.shl t d a b)
  | 17 => keep m0 (.shr t d a b)
  | 18 => keep m0 (.sar t d a b)
  | 19 => keep m0 (.rol t d a b)
  | 20 => keep (m0 && f14 w == 0) (.par t d a)
  | 21 => keep (f14 w == 0 && (fMod w).extractLsb' 4 4 == 0) (.brev t d a (bitsReg ((fMod w).extractLsb' 0 4)))
  | 22 => keep (m0 && f14 w == 0) (.clz t d a)
  | 23 => keep (m0 && f14 w == 0) (.swapb t d a)
  | _ => none

/-- Majors 0x01 to 0x07 (Table 4.7): x is reserved. -/
def decodeImm (t : Tid) (w : W32) : Option Instr :=
  let d := bitsReg (f22 w)
  let a := bitsReg (f18 w)
  let x0 := fX w == 0
  match (fMaj w).toNat with
  | 1 => keep x0 (.addi t d a (fImm w))
  | 2 => keep (x0 && f22 w == 0) (.cmpi t a (fImm w))
  | 3 => keep x0 (.andi t d a (fImm w))
  | 4 => keep x0 (.ori t d a (fImm w))
  | 5 => keep x0 (.xori t d a (fImm w))
  | 6 => keep (x0 && f18 w == 0) (.movi t d (fImm w))
  | 7 => keep (x0 && f22 w == 0) (.tsti t a (fImm w))
  | _ => none

/-- Majors 0x08 and 0x09 (Table 4.7). -/
def decodeBit (t : Tid) (w : W32) : Option Instr :=
  let d := bitsReg (f22 w)
  let a := bitsReg (f18 w)
  let n := bitsReg (w.extractLsb' 0 4)
  let i0 := w.extractLsb' 4 12 == 0
  match (fMaj w).toNat, (fX w).toNat with
  | 8, 0 => keep i0 (.shli t d a n)
  | 8, 1 => keep i0 (.shri t d a n)
  | 8, 2 => keep i0 (.sari t d a n)
  | 9, 0 => keep i0 (.bset t d a n)
  | 9, 1 => keep i0 (.bclr t d a n)
  | 9, 2 => keep (i0 && f22 w == 0) (.btst t a n)
  | _, _ => none

/-- Majors 0x10 to 0x17 (Table 4.8). A base register beside sp = 2 is not used, and reserved. -/
def decodeMem (t : Tid) (w : W32) : Option Instr :=
  let r := bitsReg (f22 w)
  let b := bitsReg (f18 w)
  let n : Fin 4 := (w.extractLsb' 18 2).toFin
  let sp : Space := (fX w).toFin
  let b0 := fX w != 2 || f18 w == 0
  let p0 := w.extractLsb' 20 2 == 0
  let z := w.extractLsb' 0 22 == 0
  match (fMaj w).toNat with
  | 0x10 => keep b0 (.ld t r b sp (fImm w))
  | 0x11 => keep b0 (.st t r b sp (fImm w))
  | 0x12 => keep b0 (.ldd t r b sp (fImm w))
  | 0x13 => keep b0 (.std t r b sp (fImm w))
  | 0x14 => keep p0 (.ldp t r n sp (fImm w))
  | 0x15 => keep p0 (.stp t r n sp (fImm w))
  | 0x16 => keep z (.push t r)
  | 0x17 => keep z (.pop t r)
  | _ => none

/-- Operand b of an accumulator instruction (R117). -/
def decodeMulB (w : W32) : Option MulB :=
  if fDm w = 0 then some (.reg (bitsReg (fDb w)))
  else if (fDb w).extractLsb' 2 2 = 0 then some (.mem ((fDb w).extractLsb' 0 2).toFin)
  else none

/-- Major 0x18 (Table 4.10). -/
def decodeAcc (t : Tid) (w : W32) : Option Instr :=
  let c : Fin 2 := (fAcc w).toFin
  let a := bitsReg (fDa w)
  let i0 := fDi w == 0
  let bm0 := fDb w == 0 && fDm w == 0
  let abm0 := bm0 && fDa w == 0
  let mul (k : MulB → Instr) : Option Instr := if i0 then (decodeMulB w).map k else none
  match (fDf w).toNat with
  | 0 => mul (.mul t c a)
  | 1 => mul (.mac t c a)
  | 2 => mul (.msu t c a)
  | 3 => mul (.mulu t c a)
  | 4 => mul (.macd t c a)
  | 5 => mul (.msud t c a)
  | 6 => keep (abm0 && i0) (.clra t c)
  | 7 => keep (bm0 && i0) (.lda t c a)
  | 8 => keep (bm0 && w.extractLsb' 1 11 == 0) (.sta t c a (w.getLsbD 0))
  | 9 => keep (abm0 && w.extractLsb' 6 6 == 0) (.sha t c (w.extractLsb' 0 6))
  | 10 => keep (abm0 && i0) (.adda t c)
  | 11 => keep (abm0 && i0) (.suba t c)
  | 12 => keep (abm0 && i0) (.nega t c)
  | 13 => keep (abm0 && i0) (.absa t c)
  | _ => none

/-- Majors 0x19 to 0x1D: division, special registers, postmark instructions (Tables 4.11, 4.12, 4.16). -/
def decodeSpec (t : Tid) (w : W32) : Option Instr :=
  let d := bitsReg (f22 w)
  let a := bitsReg (f18 w)
  let n : Fin 2 := (w.extractLsb' 16 1).toFin
  match (fMaj w).toNat with
  | 0x19 =>
    (match (fFunc w).toNat with
     | 0 => keep (fMod w == 0) (.div t d a (bitsReg (f14 w)))
     | 1 => keep (fMod w == 0) (.divl t d a (bitsReg (f14 w)))
     | _ => none)
  | 0x1A => keep (f22 w == 0 && w.extractLsb' 6 12 == 0) (.mvs t (w.extractLsb' 0 6) a)
  | 0x1B => keep (f18 w == 0 && w.extractLsb' 6 12 == 0) (.mvf t d (w.extractLsb' 0 6))
  | 0x1C =>
    (match (w.extractLsb' 12 4).toNat with
     | 0 => keep (w.extractLsb' 17 5 == 0 && w.extractLsb' 0 12 == 0) (.setpm t n d)
     | 1 => keep (w.extractLsb' 17 5 == 0 && w.extractLsb' 0 12 == 0) (.getpm t n d)
     | 2 => keep (w.extractLsb' 16 6 == 0 && w.extractLsb' 11 1 == 0 && w.extractLsb' 4 4 == 0)
         (.pmrd t d (w.extractLsb' 8 3).toFin (bitsReg (w.extractLsb' 0 4)))
     | _ => none)
  | 0x1D => keep (f22 w == 0 && f18 w == 0) (.addpm t n (w.getLsbD 17) (fImm w))
  | _ => none

/-- Majors 0x20 to 0x26: control, SYS, SEL (Table 4.13). -/
def decodeCtl (t : Tid) (w : W32) : Option Instr :=
  let d := bitsReg (f22 w)
  let a := bitsReg (f18 w)
  match (fMaj w).toNat with
  | 0x20 => keep (w.extractLsb' 16 5 == 0) (.b t d (w.getLsbD 21) (fImm w))
  | 0x21 => keep (w.extractLsb' 16 10 == 0) (.call t (fImm w))
  | 0x22 =>
    (match (fFunc w).toNat with
     | 0 => keep (f22 w == 0 && w.extractLsb' 14 4 == 0 && w.extractLsb' 6 7 == 0) (.jmpr t a (w.getLsbD 13))
     | 1 => keep (f22 w == 0 && w.extractLsb' 6 12 == 0) (.callr t a)
     | 2 => keep (w.extractLsb' 14 12 == 0 && w.extractLsb' 6 7 == 0) (.ret t (w.getLsbD 13))
     | _ => none)
  | 0x23 => some (.loop t (w.extractLsb' 16 10) (fImm w))
  | 0x24 => keep (w.extractLsb' 16 6 == 0) (.loopr t d (fImm w))
  | 0x25 =>
    (match (fFunc w).toNat with
     | 0 => keep (w.extractLsb' 6 20 == 0) (.nop t)
     | 1 => keep (w.extractLsb' 6 20 == 0) (.brk t)
     | _ => none)
  | 0x26 => keep (w.extractLsb' 10 4 == 0 && fFunc w == 0) (.sel t (bitsReg (w.extractLsb' 6 4)) d a (bitsReg (f14 w)))
  | _ => none

/-- The exchange operand (R124): W[q] is used only when s[16] is 1. -/
def decodeXAddr (w : W32) : Option XAddr :=
  let n : Fin 2 := (w.extractLsb' 17 1).toFin
  if w.getLsbD 16 then some { n := n, q := some (bitsReg (f18 w)), k := fImm w }
  else if f18 w = 0 then some { n := n, q := none, k := fImm w }
  else none

/-- Majors 0x30 to 0x39: exchange, seals, chutes (Tables 4.14, 4.15). -/
def decodeXch (t : Tid) (w : W32) : Option Instr :=
  let p := bitsReg (f22 w)
  let q := bitsReg (f18 w)
  match (fMaj w).toNat with
  | 0x30 => (decodeXAddr w).map (.xld t p)
  | 0x31 => (decodeXAddr w).map (.xst t p)
  | 0x32 => (decodeXAddr w).map (.xldd t p)
  | 0x33 => (decodeXAddr w).map (.xstd t p)
  | 0x34 => (decodeXAddr w).map (.acq t p)
  | 0x35 => if f22 w = 0 then (decodeXAddr w).map (.rel t) else none
  | 0x36 => keep (w.extractLsb' 0 22 == 0) (.send t p)
  | 0x37 =>
    if w.getLsbD 16 then keep (!w.getLsbD 17 && fImm w == 0) (.sende t (.reg q) p)
    else keep (!w.getLsbD 17 && f18 w == 0) (.sende t (.imm (fImm w)) p)
  | 0x38 =>
    if w.getLsbD 15 then
      keep (!w.getLsbD 16 && f18 w == 0 && w.extractLsb' 8 7 == 0) (.recv t p true (w.extractLsb' 0 8) (w.getLsbD 17))
    else keep (!w.getLsbD 16 && f18 w == 0 && w.extractLsb' 4 11 == 0) (.recv t p false (w.extractLsb' 0 8) (w.getLsbD 17))
  | 0x39 =>
    if w.getLsbD 16 then keep (!w.getLsbD 17 && fImm w == 0) (.take t p (.reg q))
    else keep (!w.getLsbD 17 && f18 w == 0 && w.extractLsb' 4 12 == 0) (.take t p (.imm (bitsReg (w.extractLsb' 0 4))))
  | _ => none

/-- Majors 0x3A to 0x3D: WAITP, PEDGE, pins, CRC (Tables 4.16, 4.17, R130, R132, R133). -/
def decodePin (t : Tid) (w : W32) : Option Instr :=
  let p := bitsReg (f22 w)
  let q := bitsReg (f18 w)
  let n : Fin 2 := (w.extractLsb' 16 1).toFin
  let s0 := fX w == 0
  let k0 := w.extractLsb' 0 12 == 0
  match (fMaj w).toNat with
  | 0x3A => keep (w.extractLsb' 17 9 == 0 && fImm w == 0) (.waitp t n)
  | 0x3B =>
    if w.extractLsb' 0 14 ≠ 0 then none
    else if w.getLsbD 17 then keep (!w.getLsbD 16 && !w.getLsbD 14) (.pedge t p (.bt q) (w.getLsbD 15))
    else if w.getLsbD 14 then some (.pedge t p (.pm n (some q)) (w.getLsbD 15))
    else keep (f18 w == 0) (.pedge t p (.pm n none) (w.getLsbD 15))
  | 0x3C =>
    (match (w.extractLsb' 12 4).toNat with
     | 0 => keep (s0 && k0 && f18 w == 0) (.pflush t p)
     | 1 => keep (s0 && k0) (.pser t p q)
     | 2 => keep (s0 && k0) (.pdes t p q)
     | 3 => keep (s0 && k0) (.prd t p q)
     | 4 => keep (s0 && k0) (.pwr t p q)
     | _ => none)
  | 0x3D =>
    (match (w.extractLsb' 12 4).toNat with
     | 0 => keep (s0 && w.extractLsb' 1 11 == 0) (.crcs t p q (w.getLsbD 0))
     | 1 => keep (s0 && k0) (.crcw t p q)
     | _ => none)
  | _ => none

/-- The instruction a word spells for thread t; none raises ILLEGAL (R109, R110). -/
def decodeEng (t : Tid) (w : W32) : Option Instr :=
  let m := (fMaj w).toNat
  if m = 0 then decodeAlu t w
  else if m < 8 then decodeImm t w
  else if m < 0x10 then decodeBit t w
  else if m < 0x18 then decodeMem t w
  else if m = 0x18 then decodeAcc t w
  else if m < 0x20 then decodeSpec t w
  else if m < 0x30 then decodeCtl t w
  else if m < 0x3A then decodeXch t w
  else decodePin t w

/-- The register field b and the m bit of operand b (R117). -/
def mulBits : MulB → BitVec 4 × BitVec 1
  | .reg b => (regBits b, 0)
  | .mem n => (0#2 ++ bit2 n, 1)

/-- An exchange instruction's word (R124). -/
def encX (maj : BitVec 6) (p : BitVec 4) (x : XAddr) : W32 :=
  match x.q with
  | some q => formB maj p (regBits q) (bit1 x.n ++ 1#1) x.k
  | none => formB maj p 0 (bit1 x.n ++ 0#1) x.k

/-- The word of an engine instruction (Tables 4.3 to 4.17); none for a command that is no engine instruction. -/
def encodeEng : Instr → Option W32
  | .add _ d a b => some (formA 0 (regBits d) (regBits a) (regBits b) 0 0)
  | .adc _ d a b => some (formA 0 (regBits d) (regBits a) (regBits b) 0 1)
  | .sub _ d a b => some (formA 0 (regBits d) (regBits a) (regBits b) 0 2)
  | .sbb _ d a b => some (formA 0 (regBits d) (regBits a) (regBits b) 0 3)
  | .cmp _ a b => some (formA 0 0 (regBits a) (regBits b) 0 4)
  | .neg _ d a => some (formA 0 (regBits d) (regBits a) 0 0 5)
  | .abs _ d a => some (formA 0 (regBits d) (regBits a) 0 0 6)
  | .min _ d a b => some (formA 0 (regBits d) (regBits a) (regBits b) 0 7)
  | .max _ d a b => some (formA 0 (regBits d) (regBits a) (regBits b) 0 8)
  | .and _ d a b => some (formA 0 (regBits d) (regBits a) (regBits b) 0 9)
  | .or _ d a b => some (formA 0 (regBits d) (regBits a) (regBits b) 0 10)
  | .xor _ d a b => some (formA 0 (regBits d) (regBits a) (regBits b) 0 11)
  | .andn _ d a b => some (formA 0 (regBits d) (regBits a) (regBits b) 0 12)
  | .not _ d a => some (formA 0 (regBits d) (regBits a) 0 0 13)
  | .tst _ a b => some (formA 0 0 (regBits a) (regBits b) 0 14)
  | .mov _ d a => some (formA 0 (regBits d) (regBits a) 0 0 15)
  | .shl _ d a b => some (formA 0 (regBits d) (regBits a) (regBits b) 0 16)
  | .shr _ d a b => some (formA 0 (regBits d) (regBits a) (regBits b) 0 17)
  | .sar _ d a b => some (formA 0 (regBits d) (regBits a) (regBits b) 0 18)
  | .rol _ d a b => some (formA 0 (regBits d) (regBits a) (regBits b) 0 19)
  | .par _ d a => some (formA 0 (regBits d) (regBits a) 0 0 20)
  | .brev _ d a n => some (formA 0 (regBits d) (regBits a) 0 (0#4 ++ regBits n) 21)
  | .clz _ d a => some (formA 0 (regBits d) (regBits a) 0 0 22)
  | .swapb _ d a => some (formA 0 (regBits d) (regBits a) 0 0 23)
  | .addi _ d a imm => some (formB 1 (regBits d) (regBits a) 0 imm)
  | .cmpi _ a imm => some (formB 2 0 (regBits a) 0 imm)
  | .andi _ d a imm => some (formB 3 (regBits d) (regBits a) 0 imm)
  | .ori _ d a imm => some (formB 4 (regBits d) (regBits a) 0 imm)
  | .xori _ d a imm => some (formB 5 (regBits d) (regBits a) 0 imm)
  | .movi _ d imm => some (formB 6 (regBits d) 0 0 imm)
  | .tsti _ a imm => some (formB 7 0 (regBits a) 0 imm)
  | .shli _ d a n => some (formB 8 (regBits d) (regBits a) 0 (0#12 ++ regBits n))
  | .shri _ d a n => some (formB 8 (regBits d) (regBits a) 1 (0#12 ++ regBits n))
  | .sari _ d a n => some (formB 8 (regBits d) (regBits a) 2 (0#12 ++ regBits n))
  | .bset _ d a n => some (formB 9 (regBits d) (regBits a) 0 (0#12 ++ regBits n))
  | .bclr _ d a n => some (formB 9 (regBits d) (regBits a) 1 (0#12 ++ regBits n))
  | .btst _ a n => some (formB 9 0 (regBits a) 2 (0#12 ++ regBits n))
  | .ld _ r b sp off => some (formB 16 (regBits r) (regBits b) (bit2 sp) off)
  | .st _ r b sp off => some (formB 17 (regBits r) (regBits b) (bit2 sp) off)
  | .ldd _ r b sp off => some (formB 18 (regBits r) (regBits b) (bit2 sp) off)
  | .std _ r b sp off => some (formB 19 (regBits r) (regBits b) (bit2 sp) off)
  | .ldp _ r n sp off => some (formB 20 (regBits r) (0#2 ++ bit2 n) (bit2 sp) off)
  | .stp _ r n sp off => some (formB 21 (regBits r) (0#2 ++ bit2 n) (bit2 sp) off)
  | .push _ r => some (formB 0x16 (regBits r) 0 0 0)
  | .pop _ r => some (formB 0x17 (regBits r) 0 0 0)
  | .mul _ c a b => some (formD (bit1 c) (regBits a) (mulBits b).1 (mulBits b).2 0 0)
  | .mac _ c a b => some (formD (bit1 c) (regBits a) (mulBits b).1 (mulBits b).2 1 0)
  | .msu _ c a b => some (formD (bit1 c) (regBits a) (mulBits b).1 (mulBits b).2 2 0)
  | .mulu _ c a b => some (formD (bit1 c) (regBits a) (mulBits b).1 (mulBits b).2 3 0)
  | .macd _ c a b => some (formD (bit1 c) (regBits a) (mulBits b).1 (mulBits b).2 4 0)
  | .msud _ c a b => some (formD (bit1 c) (regBits a) (mulBits b).1 (mulBits b).2 5 0)
  | .clra _ c => some (formD (bit1 c) 0 0 0 6 0)
  | .lda _ c a => some (formD (bit1 c) (regBits a) 0 0 7 0)
  | .sta _ c a p => some (formD (bit1 c) (regBits a) 0 0 8 (0#11 ++ boolBit p))
  | .sha _ c n => some (formD (bit1 c) 0 0 0 9 (0#6 ++ n))
  | .adda _ c => some (formD (bit1 c) 0 0 0 10 0)
  | .suba _ c => some (formD (bit1 c) 0 0 0 11 0)
  | .nega _ c => some (formD (bit1 c) 0 0 0 12 0)
  | .absa _ c => some (formD (bit1 c) 0 0 0 13 0)
  | .div _ d a b => some (formA 0x19 (regBits d) (regBits a) (regBits b) 0 0)
  | .divl _ d a b => some (formA 0x19 (regBits d) (regBits a) (regBits b) 0 1)
  | .mvs _ n a => some (formB 0x1A 0 (regBits a) 0 (0#10 ++ n))
  | .mvf _ d n => some (formB 0x1B (regBits d) 0 0 (0#10 ++ n))
  | .setpm _ n p => some (formB 0x1C (regBits p) 0 (0#1 ++ bit1 n) 0)
  | .getpm _ n p => some (formB 0x1C (regBits p) 0 (0#1 ++ bit1 n) 0x1000)
  | .pmrd _ p ref sel => some (formB 0x1C (regBits p) 0 0 (2#4 ++ 0#1 ++ bits3 ref ++ 0#4 ++ regBits sel))
  | .addpm _ n cyc imm => some (formB 0x1D 0 0 (boolBit cyc ++ bit1 n) imm)
  | .b _ cc lx tg => some (formE 0x20 (regBits cc) (boolBit lx ++ 0#5) tg)
  | .call _ tg => some (formE 0x21 0 0 tg)
  | .jmpr _ a lx => some (formA 0x22 0 (regBits a) 0 (boolBit lx ++ 0#7) 0)
  | .callr _ a => some (formA 0x22 0 (regBits a) 0 0 1)
  | .ret _ lx => some (formA 0x22 0 0 0 (boolBit lx ++ 0#7) 2)
  | .loop _ n e => some (0x23#6 ++ n ++ e)
  | .loopr _ c e => some (formE 0x24 (regBits c) 0 e)
  | .nop _ => some (formA 0x25 0 0 0 0 0)
  | .brk _ => some (formA 0x25 0 0 0 0 1)
  | .sel _ cc d a b => some (formA 0x26 (regBits d) (regBits a) (regBits b) (0#4 ++ regBits cc) 0)
  | .xld _ p x => some (encX 0x30 (regBits p) x)
  | .xst _ p x => some (encX 0x31 (regBits p) x)
  | .xldd _ p x => some (encX 0x32 (regBits p) x)
  | .xstd _ p x => some (encX 0x33 (regBits p) x)
  | .acq _ p x => some (encX 0x34 (regBits p) x)
  | .rel _ x => some (encX 0x35 0 x)
  | .send _ p => some (formB 0x36 (regBits p) 0 0 0)
  | .sende _ (.imm k) p => some (formB 0x37 (regBits p) 0 0 k)
  | .sende _ (.reg q) p => some (formB 0x37 (regBits p) (regBits q) 1 0)
  | .recv _ p long ch timed => some (formB 0x38 (regBits p) 0 (boolBit timed ++ 0#1) (boolBit long ++ 0#7 ++ ch))
  | .take _ p (.imm i) => some (formB 0x39 (regBits p) 0 0 (0#12 ++ regBits i))
  | .take _ p (.reg q) => some (formB 0x39 (regBits p) (regBits q) 1 0)
  | .waitp _ n => some (formB 0x3A 0 0 (0#1 ++ bit1 n) 0)
  | .pedge _ p (.pm n none) v => some (formB 0x3B (regBits p) 0 (0#1 ++ bit1 n) (boolBit v ++ 0#15))
  | .pedge _ p (.pm n (some q)) v => some (formB 0x3B (regBits p) (regBits q) (0#1 ++ bit1 n) (boolBit v ++ 1#1 ++ 0#14))
  | .pedge _ p (.bt q) v => some (formB 0x3B (regBits p) (regBits q) 2 (boolBit v ++ 0#15))
  | .pflush _ p => some (formB 0x3C (regBits p) 0 0 0)
  | .pser _ p q => some (formB 0x3C (regBits p) (regBits q) 0 0x1000)
  | .pdes _ p q => some (formB 0x3C (regBits p) (regBits q) 0 0x2000)
  | .prd _ p q => some (formB 0x3C (regBits p) (regBits q) 0 0x3000)
  | .pwr _ p q => some (formB 0x3C (regBits p) (regBits q) 0 0x4000)
  | .crcs _ p q byte => some (formB 0x3D (regBits p) (regBits q) 0 (0#15 ++ boolBit byte))
  | .crcw _ p q => some (formB 0x3D (regBits p) (regBits q) 0 0x1000)
  | _ => none

/-- The thread an engine instruction names. -/
def engTid : Instr → Tid
  | .add t _ _ _ => t
  | .adc t _ _ _ => t
  | .sub t _ _ _ => t
  | .sbb t _ _ _ => t
  | .cmp t _ _ => t
  | .neg t _ _ => t
  | .abs t _ _ => t
  | .min t _ _ _ => t
  | .max t _ _ _ => t
  | .and t _ _ _ => t
  | .or t _ _ _ => t
  | .xor t _ _ _ => t
  | .andn t _ _ _ => t
  | .not t _ _ => t
  | .tst t _ _ => t
  | .mov t _ _ => t
  | .shl t _ _ _ => t
  | .shr t _ _ _ => t
  | .sar t _ _ _ => t
  | .rol t _ _ _ => t
  | .par t _ _ => t
  | .brev t _ _ _ => t
  | .clz t _ _ => t
  | .swapb t _ _ => t
  | .addi t _ _ _ => t
  | .cmpi t _ _ => t
  | .andi t _ _ _ => t
  | .ori t _ _ _ => t
  | .xori t _ _ _ => t
  | .movi t _ _ => t
  | .tsti t _ _ => t
  | .shli t _ _ _ => t
  | .shri t _ _ _ => t
  | .sari t _ _ _ => t
  | .bset t _ _ _ => t
  | .bclr t _ _ _ => t
  | .btst t _ _ => t
  | .sel t _ _ _ _ => t
  | .ld t _ _ _ _ => t
  | .st t _ _ _ _ => t
  | .ldd t _ _ _ _ => t
  | .std t _ _ _ _ => t
  | .ldp t _ _ _ _ => t
  | .stp t _ _ _ _ => t
  | .push t _ => t
  | .pop t _ => t
  | .mul t _ _ _ => t
  | .mac t _ _ _ => t
  | .msu t _ _ _ => t
  | .mulu t _ _ _ => t
  | .macd t _ _ _ => t
  | .msud t _ _ _ => t
  | .clra t _ => t
  | .lda t _ _ => t
  | .sta t _ _ _ => t
  | .sha t _ _ => t
  | .adda t _ => t
  | .suba t _ => t
  | .nega t _ => t
  | .absa t _ => t
  | .div t _ _ _ => t
  | .divl t _ _ _ => t
  | .mvs t _ _ => t
  | .mvf t _ _ => t
  | .b t _ _ _ => t
  | .call t _ => t
  | .jmpr t _ _ => t
  | .callr t _ => t
  | .ret t _ => t
  | .loop t _ _ => t
  | .loopr t _ _ => t
  | .nop t => t
  | .brk t => t
  | .xld t _ _ => t
  | .xst t _ _ => t
  | .xldd t _ _ => t
  | .xstd t _ _ => t
  | .acq t _ _ => t
  | .rel t _ => t
  | .send t _ => t
  | .sende t _ _ => t
  | .recv t _ _ _ _ => t
  | .take t _ _ => t
  | .setpm t _ _ => t
  | .getpm t _ _ => t
  | .pmrd t _ _ _ => t
  | .addpm t _ _ _ => t
  | .waitp t _ => t
  | .pedge t _ _ _ => t
  | .pflush t _ => t
  | .pser t _ _ => t
  | .pdes t _ _ => t
  | .prd t _ _ => t
  | .pwr t _ _ => t
  | .crcs t _ _ _ => t
  | .crcw t _ _ => t
  | _ => 0

end Sys2Proof
end

