-- ==== Sys2Proof/Machine/EngAlu.lean ====
section
/-! DEFINITION. The meanings of the register arithmetic and logic instructions (R111 to R113). -/
namespace Sys2Proof.Machine

/-- A reserved field combination raises ILLEGAL (R109). -/
def illegalIf (b : Bool) (r : EngRes) : EngRes := if b then .fault .illegal else r

/-- ADD: d := a + b by R105, Z N C V (R111). -/
def execAdd (t : Tid) (d a b : Reg) (s : State) : Out :=
  .next (alu t s fun h => h.put d (resAdd (stsSatEn h.sts) (h.reg a) (h.reg b)))

/-- ADC: d := a + b + C by R105, Z N C V (R111). -/
def execAdc (t : Tid) (d a b : Reg) (s : State) : Out :=
  .next (alu t s fun h => h.put d (resAdc (stsSatEn h.sts) (stsC h.sts) (h.reg a) (h.reg b)))

/-- SUB: d := a − b by R105, Z N C V (R111). -/
def execSub (t : Tid) (d a b : Reg) (s : State) : Out :=
  .next (alu t s fun h => h.put d (resSub (stsSatEn h.sts) (h.reg a) (h.reg b)))

/-- SBB: d := a − b − (1 − C) by R105, Z N C V (R111). -/
def execSbb (t : Tid) (d a b : Reg) (s : State) : Out :=
  .next (alu t s fun h => h.put d (resSbb (stsSatEn h.sts) (stsC h.sts) (h.reg a) (h.reg b)))

/-- CMP: the flags of a − b, no result, never saturates (R111). -/
def execCmp (t : Tid) (a b : Reg) (s : State) : Out :=
  .next (alu t s fun h => h.putF (resSub false (h.reg a) (h.reg b)))

/-- NEG: d := 0 − a by R105, Z N C V (R111). -/
def execNeg (t : Tid) (d a : Reg) (s : State) : Out :=
  .next (alu t s fun h => h.put d (resNeg (stsSatEn h.sts) (h.reg a)))

/-- ABS: d := |a| by R105, Z N V (R111). -/
def execAbs (t : Tid) (d a : Reg) (s : State) : Out :=
  .next (alu t s fun h => h.put d (resAbs (stsSatEn h.sts) (h.reg a)))

/-- MIN: the signed minimum, Z N (R111). -/
def execMin (t : Tid) (d a b : Reg) (s : State) : Out :=
  .next (alu t s fun h => h.put d (znRes (if (h.reg a).slt (h.reg b) then h.reg a else h.reg b)))

/-- MAX: the signed maximum, Z N (R111). -/
def execMax (t : Tid) (d a b : Reg) (s : State) : Out :=
  .next (alu t s fun h => h.put d (znRes (if (h.reg a).slt (h.reg b) then h.reg b else h.reg a)))

/-- AND: d := a & b, Z N (R111). -/
def execAnd (t : Tid) (d a b : Reg) (s : State) : Out :=
  .next (alu t s fun h => h.put d (znRes (h.reg a &&& h.reg b)))

/-- OR: d := a | b, Z N (R111). -/
def execOr (t : Tid) (d a b : Reg) (s : State) : Out :=
  .next (alu t s fun h => h.put d (znRes (h.reg a ||| h.reg b)))

/-- XOR: d := a ^ b, Z N (R111). -/
def execXor (t : Tid) (d a b : Reg) (s : State) : Out :=
  .next (alu t s fun h => h.put d (znRes (h.reg a ^^^ h.reg b)))

/-- ANDN: d := a & ~b, Z N (R111). -/
def execAndn (t : Tid) (d a b : Reg) (s : State) : Out :=
  .next (alu t s fun h => h.put d (znRes (h.reg a &&& ~~~ h.reg b)))

/-- NOT: d := ~a, Z N (R111). -/
def execNot (t : Tid) (d a : Reg) (s : State) : Out :=
  .next (alu t s fun h => h.put d (znRes (~~~ h.reg a)))

/-- TST: the flags Z N of a & b (R111). -/
def execTst (t : Tid) (a b : Reg) (s : State) : Out :=
  .next (alu t s fun h => h.putF (znRes (h.reg a &&& h.reg b)))

/-- MOV: d := a, no flags (R111). -/
def execMov (t : Tid) (d a : Reg) (s : State) : Out :=
  .next (alu t s fun h => h.put d ({ val := h.reg a, upd := {} }))

/-- SHL: d := a << b[4:0] by R105 and R112. -/
def execShl (t : Tid) (d a b : Reg) (s : State) : Out :=
  .next (alu t s fun h => h.put d (resShl (stsSatEn h.sts) (h.reg a) (fld (h.reg b) 0 5)))

/-- SHR: d := a >> b[4:0], zero fill (R112). -/
def execShr (t : Tid) (d a b : Reg) (s : State) : Out :=
  .next (alu t s fun h => h.put d (resShr (h.reg a) (fld (h.reg b) 0 5)))

/-- SAR: d := a >> b[4:0], sign fill (R112). -/
def execSar (t : Tid) (d a b : Reg) (s : State) : Out :=
  .next (alu t s fun h => h.put d (resSar (h.reg a) (fld (h.reg b) 0 5)))

/-- ROL: d := a rotated left by b[3:0] (R112). -/
def execRol (t : Tid) (d a b : Reg) (s : State) : Out :=
  .next (alu t s fun h => h.put d (resRol (h.reg a) (fld (h.reg b) 0 4)))

/-- PAR: d := parity of a, Z (R111). -/
def execPar (t : Tid) (d a : Reg) (s : State) : Out :=
  .next (alu t s fun h => h.put d ({ val := if parity (h.reg a) then 1 else 0, upd := { z := some (!parity (h.reg a)) } }))

/-- BREV: the low n + 1 bits of a reversed; the operand is n − 1 of the assembler (Table 4.6). -/
def execBrev (t : Tid) (d a : Reg) (n : Fin 16) (s : State) : Out :=
  .next (alu t s fun h => h.put d (znRes (bitReverse (h.reg a) (n.val + 1))))

/-- CLZ: d := leading zeros of a, 0 to 16, Z (R111). -/
def execClz (t : Tid) (d a : Reg) (s : State) : Out :=
  .next (alu t s fun h => h.put d ({ val := BitVec.ofNat 16 (leadZeros (h.reg a)), upd := { z := some (leadZeros (h.reg a) == 0) } }))

/-- SWAPB: the bytes of a exchanged, Z N (R111). -/
def execSwapb (t : Tid) (d a : Reg) (s : State) : Out :=
  .next (alu t s fun h => h.put d (znRes ((h.reg a).extractLsb' 0 8 ++ (h.reg a).extractLsb' 8 8)))

/-- ADDI: d := a + imm by R105 (R113). -/
def execAddi (t : Tid) (d a : Reg) (imm : Word) (s : State) : Out :=
  .next (alu t s fun h => h.put d (resAdd (stsSatEn h.sts) (h.reg a) imm))

/-- CMPI: the flags of a − imm (R113). -/
def execCmpi (t : Tid) (a : Reg) (imm : Word) (s : State) : Out :=
  .next (alu t s fun h => h.putF (resSub false (h.reg a) imm))

/-- ANDI: d := a & imm, Z N (R113). -/
def execAndi (t : Tid) (d a : Reg) (imm : Word) (s : State) : Out :=
  .next (alu t s fun h => h.put d (znRes (h.reg a &&& imm)))

/-- ORI: d := a | imm, Z N (R113). -/
def execOri (t : Tid) (d a : Reg) (imm : Word) (s : State) : Out :=
  .next (alu t s fun h => h.put d (znRes (h.reg a ||| imm)))

/-- XORI: d := a ^ imm, Z N (R113). -/
def execXori (t : Tid) (d a : Reg) (imm : Word) (s : State) : Out :=
  .next (alu t s fun h => h.put d (znRes (h.reg a ^^^ imm)))

/-- MOVI: d := imm, no flags (R113). -/
def execMovi (t : Tid) (d : Reg) (imm : Word) (s : State) : Out :=
  .next (alu t s fun h => h.setReg d imm)

/-- TSTI: the flags Z N of a & imm (R113). -/
def execTsti (t : Tid) (a : Reg) (imm : Word) (s : State) : Out :=
  .next (alu t s fun h => h.putF (znRes (h.reg a &&& imm)))

/-- SHLI: as SHL by a fixed amount (R113). -/
def execShli (t : Tid) (d a : Reg) (n : Fin 16) (s : State) : Out :=
  .next (alu t s fun h => h.put d (resShl (stsSatEn h.sts) (h.reg a) n.val))

/-- SHRI: as SHR by a fixed amount (R113). -/
def execShri (t : Tid) (d a : Reg) (n : Fin 16) (s : State) : Out :=
  .next (alu t s fun h => h.put d (resShr (h.reg a) n.val))

/-- SARI: as SAR by a fixed amount (R113). -/
def execSari (t : Tid) (d a : Reg) (n : Fin 16) (s : State) : Out :=
  .next (alu t s fun h => h.put d (resSar (h.reg a) n.val))

/-- BSET: d := a with bit n set, no flags (R113). -/
def execBset (t : Tid) (d a : Reg) (n : Fin 16) (s : State) : Out :=
  .next (alu t s fun h => h.setReg d (setBit (h.reg a) n.val))

/-- BCLR: d := a with bit n cleared, no flags (R113). -/
def execBclr (t : Tid) (d a : Reg) (n : Fin 16) (s : State) : Out :=
  .next (alu t s fun h => h.setReg d (clrBit (h.reg a) n.val))

/-- BTST: Z := NOT a[n] (R113). -/
def execBtst (t : Tid) (a : Reg) (n : Fin 16) (s : State) : Out :=
  .next (alu t s fun h => h.flags { z := some (!bitAt (h.reg a) n.val) })

/-- SEL: d := a when cc holds, else b; no flags; the reserved condition raises ILLEGAL (R113, Table 4.12). -/
def execSel (t : Tid) (cc : Cond) (d a b : Reg) (s : State) : Out :=
  .next (engine t s fun _ h =>
    match condHolds h.sts cc with
    | none => .fault .illegal
    | some c => .done (h.setReg d (if c then h.reg a else h.reg b)) [] [] .seq)

end Sys2Proof.Machine
end

