-- ==== Sys2Proof/Machine/EngMem.lean ====
section
/-! DEFINITION. The meanings of the slice memory instructions (R114, R115). -/
namespace Sys2Proof.Machine

/-- A load of one word at slice address a into the registers k makes of it. -/
def loadWord (t : Tid) (D : Depot) (h : Thread) (a : Nat) (k : Word → Thread) : EngRes :=
  match sliceWord t h a with
  | none => .fault .sliceRange
  | some w => .done (k (D.word w)) [w] [] .seq

/-- A store of one word at slice address a. -/
def storeWord (t : Tid) (h : Thread) (a : Nat) (v : Word) (h' : Thread) : EngRes :=
  match sliceWord t h a with
  | none => .fault .sliceRange
  | some w => .done h' [] [(w, v)] .seq

/-- A space fault, or the access. -/
def spaced (f : Option TFault) (r : EngRes) : EngRes := match f with | some c => .fault c | none => r

/-- LD: t := mem[address] (R114). -/
def execLd (t : Tid) (r b : Reg) (sp : Space) (off : Word) (s : State) : Out :=
  .next (engine t s fun D h => spaced (loadSpace sp) (loadWord t D h (dataAddr h b sp off) fun v => h.setReg r v))

/-- ST: mem[address] := t (R114). -/
def execSt (t : Tid) (r b : Reg) (sp : Space) (off : Word) (s : State) : Out :=
  .next (engine t s fun _ h => spaced (storeSpace sp) (storeWord t h (dataAddr h b sp off) (h.reg r) h))

/-- LDD: pair t := mem[address], mem[address + 1]; t even (R102, R114). -/
def execLdd (t : Tid) (r b : Reg) (sp : Space) (off : Word) (s : State) : Out :=
  .next (engine t s fun D h => illegalIf (!pairOk r) (spaced (loadSpace sp)
    (match sliceWord t h (dataAddr h b sp off), sliceWord t h (dataAddr h b sp off + 1) with
     | some w0, some w1 => .done (h.setPair r (D.word w1 ++ D.word w0)) [w0, w1] [] .seq
     | _, _ => .fault .sliceRange)))

/-- STD: mem[address], mem[address + 1] := pair t; t even (R102, R114). -/
def execStd (t : Tid) (r b : Reg) (sp : Space) (off : Word) (s : State) : Out :=
  .next (engine t s fun _ h => illegalIf (!pairOk r) (spaced (storeSpace sp)
    (match sliceWord t h (dataAddr h b sp off), sliceWord t h (dataAddr h b sp off + 1) with
     | some w0, some w1 => .done h [] [(w0, h.reg r), (w1, h.regN (r.val + 1))] .seq
     | _, _ => .fault .sliceRange)))

/-- LDP: t := mem[APn], then APn stepped (R114, R115). -/
def execLdp (t : Tid) (r : Reg) (n : Fin 4) (sp : Space) (stp : Word) (s : State) : Out :=
  .next (engine t s fun D h => spaced (loadSpaceP sp)
    (loadWord t D h (h.ptr n).toNat fun v => (h.stepAp n stp.toInt).setReg r v))

/-- STP: mem[APn] := t, then APn stepped (R114, R115). -/
def execStp (t : Tid) (r : Reg) (n : Fin 4) (sp : Space) (stp : Word) (s : State) : Out :=
  .next (engine t s fun _ h => spaced (storeSpaceP sp)
    (storeWord t h (h.ptr n).toNat (h.reg r) (h.stepAp n stp.toInt)))

/-- PUSH: W15 := W15 − 1; mem[W15] := t, read before the change (R107, R114). -/
def execPush (t : Tid) (r : Reg) (s : State) : Out :=
  .next (engine t s fun _ h =>
    storeWord t h (h.reg 15 - 1).toNat (h.reg r) (h.setReg 15 (h.reg 15 - 1)))

/-- POP: t := mem[W15]; W15 := W15 + 1; the loaded word wins in W15 (R107, R114). -/
def execPop (t : Tid) (r : Reg) (s : State) : Out :=
  .next (engine t s fun D h =>
    loadWord t D h (h.reg 15).toNat fun v => (h.setReg 15 (h.reg 15 + 1)).setReg r v)

end Sys2Proof.Machine
end

