-- ==== Sys2Proof/Machine/EngAcc.lean ====
section
/-! DEFINITION. The meanings of the accumulator, divide and CRC instructions (R117 to R119, R132, R133), and the end of an exact operation (R72). -/
namespace Sys2Proof.Machine

/-- Operand b of a multiply: the word, the thread with the pointer stepped by 1, and the slice word read (R117). -/
def mulOperand (t : Tid) (D : Depot) (h : Thread) (b : MulB) (k : Word → Thread → List Nat → EngRes) : EngRes :=
  match b with
  | .reg r => k (h.reg r) h []
  | .mem n =>
    match sliceWord t h (h.ptr n).toNat with
    | none => .fault .sliceRange
    | some w => k (D.word w) (h.stepAp n 1) [w]

/-- A one-rotation accumulator instruction with two operands: f gets the old accumulator, the mode, a and b. -/
def accMul (t : Tid) (i : Fin 2) (a : Reg) (b : MulB) (s : State) (f : Int → Bool → Word → Word → Int) : State :=
  engine t s fun D h => mulOperand t D h b fun v h' rs =>
    .done (h'.putAcc i (accRes (f (h.acc i).toInt (stsQ15 h.sts) (h.reg a) v))) rs [] .seq

/-- MUL: ACc := p (R117). -/
def execMul (t : Tid) (acc : Fin 2) (a : Reg) (b : MulB) (s : State) : Out :=
  .next (accMul t acc a b s fun _ q x y => product q x y)
/-- MAC: ACc := ACc + p (R117). -/
def execMac (t : Tid) (acc : Fin 2) (a : Reg) (b : MulB) (s : State) : Out :=
  .next (accMul t acc a b s fun c q x y => c + product q x y)
/-- MSU: ACc := ACc − p (R117). -/
def execMsu (t : Tid) (acc : Fin 2) (a : Reg) (b : MulB) (s : State) : Out :=
  .next (accMul t acc a b s fun c q x y => c - product q x y)
/-- MULU: ACc := unsigned a × unsigned b, never shifted (R117). -/
def execMulu (t : Tid) (acc : Fin 2) (a : Reg) (b : MulB) (s : State) : Out :=
  .next (accMul t acc a b s fun _ _ x y => (x.toNat : Int) * y.toNat)

/-- MACD and MSUD: the second operand from pair a, rounded, exact with k = 2 (R117, Table 3.3). -/
def accMulD (t : Tid) (i : Fin 2) (a : Reg) (b : MulB) (sgn : Int) (s : State) : State :=
  engine t s fun D h => illegalIf (!pairOk a) (mulOperand t D h b fun v h' rs =>
    let k := if stsQ15 h.sts then 15 else 16
    let r := accRes ((h.acc i).toInt + sgn * roundBy (stsRnd h.sts) ((h.pair a).toInt * v.toInt) k)
    .block h' rs (.exact (s.rot + 2) (.acc i r.1 r.2)))
def execMacd (t : Tid) (acc : Fin 2) (a : Reg) (b : MulB) (s : State) : Out := .next (accMulD t acc a b 1 s)
def execMsud (t : Tid) (acc : Fin 2) (a : Reg) (b : MulB) (s : State) : Out := .next (accMulD t acc a b (-1) s)

/-- An accumulator instruction with no memory operand. -/
def accOp (t : Tid) (i : Fin 2) (s : State) (f : Thread → Int) : State :=
  alu t s fun h => h.putAcc i (accRes (f h))

/-- The other accumulator. -/
def otherAcc (i : Fin 2) : Fin 2 := if i = 0 then 1 else 0

/-- CLRA: ACc := 0 (R117). -/
def execClra (t : Tid) (acc : Fin 2) (s : State) : Out := .next (accOp t acc s fun _ => 0)
/-- LDA: ACc := sign-extended pair a (R117). -/
def execLda (t : Tid) (acc : Fin 2) (a : Reg) (s : State) : Out :=
  .next (engine t s fun _ h => illegalIf (!pairOk a) (.done (h.putAcc acc (accRes (h.pair a).toInt)) [] [] .seq))
/-- STA: stores ACc by R118; the accumulator stays. -/
def execSta (t : Tid) (acc : Fin 2) (a : Reg) (pair : Bool) (s : State) : Out :=
  .next (engine t s fun _ h =>
    let se := stsSatEn h.sts
    if pair then illegalIf (!pairOk a) <|
      let r := saturate 32 se (h.acc acc).toInt
      let u : FlagUpd := { z := some (r.1 == 0), n := some r.1.msb, v := some r.2.1 }
      let h' := h.setPair a r.1
      .done { h' with sts := setSat (setFlags h'.sts u) r.2.2 } [] [] .seq
    else
      let x := if stsQ15 h.sts then roundBy (stsRnd h.sts) (h.acc acc).toInt 16 else (h.acc acc).toInt
      .done (h.put a (satRes se x none)) [] [] .seq)
/-- SHA: left with zero fill, or right by R104 (R117). -/
def execSha (t : Tid) (acc : Fin 2) (n : BitVec 6) (s : State) : Out :=
  .next (accOp t acc s fun h =>
    if 0 ≤ n.toInt then (h.acc acc).toInt * 2 ^ n.toInt.toNat
    else roundBy (stsRnd h.sts) (h.acc acc).toInt n.toInt.natAbs)
/-- ADDA: ACc := ACc + the other accumulator (R117). -/
def execAdda (t : Tid) (acc : Fin 2) (s : State) : Out :=
  .next (accOp t acc s fun h => (h.acc acc).toInt + (h.acc (otherAcc acc)).toInt)
/-- SUBA: ACc := ACc − the other accumulator (R117). -/
def execSuba (t : Tid) (acc : Fin 2) (s : State) : Out :=
  .next (accOp t acc s fun h => (h.acc acc).toInt - (h.acc (otherAcc acc)).toInt)
/-- NEGA: ACc := −ACc (R117). -/
def execNega (t : Tid) (acc : Fin 2) (s : State) : Out := .next (accOp t acc s fun h => -(h.acc acc).toInt)
/-- ABSA: ACc := |ACc| (R117). -/
def execAbsa (t : Tid) (acc : Fin 2) (s : State) : Out :=
  .next (accOp t acc s fun h => ((h.acc acc).toInt.natAbs : Int))

/-- The result of a division in W[d] and W[d + 1], with Z N from the quotient and V (R119). -/
def divOut (d : Reg) (r : Word × Word × Bool) : ExactRes :=
  .regs d ⟨(d.val + 1) % 16, by omega⟩ r.1 r.2.1 { zn r.1 with v := some r.2.2 }

/-- DIV: 9 rotations exact (R119). -/
def execDiv (t : Tid) (d a b : Reg) (s : State) : Out :=
  .next (engine t s fun _ h => illegalIf (!pairOk d)
    (.block h [] (.exact (s.rot + 9) (divOut d (divRes (h.reg a) (h.reg b))))))
/-- DIVL: 17 rotations exact; the dividend is pair a (R119). -/
def execDivl (t : Tid) (d a b : Reg) (s : State) : Out :=
  .next (engine t s fun _ h => illegalIf (!pairOk d || !pairOk a)
    (.block h [] (.exact (s.rot + 17) (divOut d (divlRes (h.pair a) (h.reg b))))))

/-- CRCS: one CRC step of 8 or 16 bits (R132). -/
def execCrcs (t : Tid) (p q : Reg) (byte : Bool) (s : State) : Out :=
  .next (alu t s fun h =>
    let r := crcStep (fld h.crcp 16 4 + 1) (bitAt h.crcp 22) (h.crcp.extractLsb' 0 16) (h.reg p) (h.reg q) (if byte then 8 else 16)
    (h.setReg p r).flags { z := some (r == 0) })

/-- CRCW: a CRC-32 over pair q, 2 rotations exact (R133). -/
def execCrcw (t : Tid) (p q : Reg) (s : State) : Out :=
  .next (engine t s fun _ h => illegalIf (!pairOk p || !pairOk q) <|
    let refl := bitAt h.crcp 23
    let r := crc32Word refl (crc32Word refl (h.pair p) (h.reg q)) (h.regN (q.val + 1))
    .block h [] (.exact (s.rot + 2)
      (.regs p ⟨(p.val + 1) % 16, by omega⟩ (r.extractLsb' 0 16) (r.extractLsb' 16 16) { z := some (r == 0) })))

/-- Write the result of an exact operation; the later-named register wins (R107). -/
def Thread.exactWrite (h : Thread) : ExactRes → Thread
  | .acc i v f => (h.setAcc i v).flags f
  | .regs r0 r1 v0 v1 f => ((h.setReg r0 v0).setReg r1 v1).flags f

/-- An exact operation of thread t ends when its rotation has come: registers, flags, loop test, next instruction (R72, R73, R123). -/
def exactEnd (t : Tid) (s : State) : State :=
  match (s.thr t).pend with
  | .exact until' r => if until' ≤ s.rot ∧ s.live t then s.setThr t (((s.thr t).exactWrite r).complete .seq) else s
  | _ => s

/-- EXACT_OP_COMPLETE (R72): the thread becomes ready k rotations after its issue. -/
def execExactOpComplete (t : Tid) (s : State) : Out := .next (exactEnd t s)

end Sys2Proof.Machine
end

