-- ==== Sys2Proof/Machine/EngCtl.lean ====
section
/-! DEFINITION. The meanings of the special register and control instructions (R120 to R123). -/
namespace Sys2Proof.Machine

/-- MVS: writes W[a] to special register n; a read-only or reserved number raises ILLEGAL (R120). -/
def execMvs (t : Tid) (n : BitVec 6) (a : Reg) (s : State) : Out :=
  .next (engine t s fun _ h =>
    match h.setSpecial n.toNat (h.reg a) with
    | none => .fault .illegal
    | some h' => .done h' [] [] .seq)

/-- MVF: reads special register n into W[d]; no flags (R120). -/
def execMvf (t : Tid) (d : Reg) (n : BitVec 6) (s : State) : Out :=
  .next (engine t s fun _ h =>
    match h.special t n.toNat with
    | none => .fault .illegal
    | some v => .done (h.setReg d v) [] [] .seq)

/-- B: if cc holds, PC := target (R121). -/
def execB (t : Tid) (cc : Cond) (lx : Bool) (target : Word) (s : State) : Out :=
  .next (engine t s fun _ h =>
    match condHolds h.sts cc with
    | none => .fault .illegal
    | some c => .done h [] [] (if c then .jump target lx else .seq))

/-- CALL: LK := PC + 1; PC := target (R121). -/
def execCall (t : Tid) (target : Word) (s : State) : Out :=
  .next (engine t s fun _ h => .done { h with lk := h.pc + 1 } [] [] (.jump target false))

/-- JMPR: PC := W[a] (R121). -/
def execJmpr (t : Tid) (a : Reg) (lx : Bool) (s : State) : Out :=
  .next (engine t s fun _ h => .done h [] [] (.jump (h.reg a) lx))

/-- CALLR: LK := PC + 1; PC := W[a] (R121). -/
def execCallr (t : Tid) (a : Reg) (s : State) : Out :=
  .next (engine t s fun _ h => .done { h with lk := h.pc + 1 } [] [] (.jump (h.reg a) false))

/-- RET: PC := LK (R121). -/
def execRet (t : Tid) (lx : Bool) (s : State) : Out :=
  .next (engine t s fun _ h => .done h [] [] (.jump h.lk lx))

/-- Open a loop set with count n and end e (R122). -/
def openLoop (h : Thread) (n : Nat) (e : Word) : EngRes :=
  if e.toNat ≤ h.pc.toNat then .fault .illegal
  else if n = 0 then .done h [] [] (.jump (e + 1) false)
  else if h.ldep = 3 then .fault .loopDepth
  else .done { h.setLoop h.ldep.toNat { lst := h.pc + 1, len := e, lcn := BitVec.ofNat 16 n } with ldep := h.ldep + 1 }
    [] [] (.jump (h.pc + 1) false)

/-- LOOP: a fixed count 0 to 1,023 (R122). -/
def execLoop (t : Tid) (n : BitVec 10) (e : Word) (s : State) : Out :=
  .next (engine t s fun _ h => openLoop h n.toNat e)

/-- LOOPR: the count in W[c] (R122). -/
def execLoopr (t : Tid) (c : Reg) (e : Word) (s : State) : Out :=
  .next (engine t s fun _ h => openLoop h (h.reg c).toNat e)

/-- NOP (R121). -/
def execNop (t : Tid) (s : State) : Out := .next (alu t s fun h => h)

/-- Breakpoints are enabled for depot d at the current debug level (R121, R420). -/
def State.brkOn (s : State) (d : Nat) : Bool :=
  bitAt s.dbg.brkDep d && (s.dbg.level == 3 || (s.dbg.level == 2 && s.depNormal d))

/-- BRK: halts with the PC after it where breakpoints are enabled, else acts as NOP (R121). -/
def execBrk (t : Tid) (s : State) : Out :=
  .next (issue t s fun s h =>
    if s.brkOn (depOf t) then
      (s.setThr t { h.complete .seq with state := .halted, stepping := false }).dbgEvt 0
    else s.setThr t (h.complete .seq))

end Sys2Proof.Machine
end

