-- ==== Sys2Proof/Machine/EngPin.lean ====
section
/-! DEFINITION. The meanings of the pin instructions (R57, R130, R131, R202 to R215) and of the events that end a blocked one. -/
namespace Sys2Proof.Machine

/-- PIN_OWNER where the depot of t does not own pin n (R131), else k. -/
def ownPin (s : State) (t : Tid) (n : Nat) (k : State) : State :=
  if s.ownsPin (depOf t) n then k else s.faultThr t .pinOwner

/-- The flags of a PEDGE that queued, or that failed (R57, R130). -/
def Thread.edgeOk (h : Thread) : Thread := h.flags { z := some true, n := some false, v := some false }
def Thread.edgeInvalid (h : Thread) : Thread := h.flags { z := some false, v := some true }
def Thread.edgeFar (h : Thread) : Thread := h.flags { z := some false, n := some true }

/-- The time operand of PEDGE (R130): a BT quad, or a postmark with an optional added register, converted with the depot pair of the rotation (R57). -/
def edgeTime (s : State) (h : Thread) : EdgeTime → ConvOut
  | .bt q => .ok (h.quad q)
  | .pm n off =>
    let x := h.pm[n]
    let a : BitVec 45 := match off with | some q => (h.reg q).setWidth 45 | none => 0
    s.pairConvert (x.extractLsb' 45 3 ++ (x.extractLsb' 0 45 + a))

/-- PEDGE: posts an edge, or reports INVALID_REF or FAR, or blocks while the queue is full (R57, R130, R209). -/
def execPedge (t : Tid) (p : Reg) (at' : EdgeTime) (level : Bool) (s : State) : Out :=
  .next (issue t s fun s h =>
    let n := fld (h.reg p) 0 10
    let bad := match at' with | .bt q => !quadOk q | _ => false
    if bad then s.faultThr t .illegal else
    ownPin s t n <|
      match edgeTime s h at' with
      | .invalidRef => s.setThr t (h.edgeInvalid.complete .seq)
      | .far => s.setThr t (h.edgeFar.complete .seq)
      | .ok tau =>
        if (s.pin n).eqFull then s.setThr t (h.block (.pedge n tau level))
        else (postEdge s t n tau level).setThr t (h.edgeOk.complete .seq))


/-- PFLUSH: discards the queued edges of pin W[p], uncounted (R210). -/
def execPflush (t : Tid) (p : Reg) (s : State) : Out :=
  .next (issue t s fun s h =>
    let n := (h.reg p).toNat
    ownPin s t n ((flushEdges s n).setThr t (h.complete .seq)))

/-- PSER: queues W[q] on the serializer of pin W[p], or blocks while it is full (R213). -/
def execPser (t : Tid) (p q : Reg) (s : State) : Out :=
  .next (issue t s fun s h =>
    let n := (h.reg p).toNat
    ownPin s t n <|
      if (s.pin n).fsel = 3 ∧ 4 ≤ (s.pin n).serq.length then s.setThr t (h.block (.pser n (h.reg q)))
      else (postSer s t n (h.reg q)).setThr t (h.complete .seq))

/-- PDES: W[p] := the next word of pin W[q], C tells lost words; blocks until one exists (R215, Table 4.17). -/
def execPdes (t : Tid) (p q : Reg) (s : State) : Out :=
  .next (issue t s fun s h =>
    let n := (h.reg q).toNat
    ownPin s t n <|
      match (s.pin n).desWord with
      | some (w, pn) => (s.setPin n pn).setThr t (((h.setReg p w).flags { c := some (s.pin n).desLost }).complete .seq)
      | none => s.setThr t (h.block (.pdes p n)))

/-- The bits of group g that depot d owns. -/
def State.ownMask (s : State) (d g : Nat) : Word :=
  (List.range 16).foldl (fun m b => if s.ownsPin d (16 * g + b) then setBit m b else m) 0

/-- PRD: the pad levels of group W[q]; bits of pins not owned read 0; Z N (R131, R202). The levels come from outside: a free value. -/
def execPrd (t : Tid) (p q : Reg) (s : State) : Out :=
  .next (issue t s fun s h =>
    let g := (h.reg q).toNat
    if s.nPin ≤ 16 * g then s.faultThr t .pinOwner
    else s.sampled.setThr t ((h.put p (znRes (s.ginOf g &&& s.ownMask (depOf t) g))).complete .seq))

/-- PWR: drives W[p] on group W[q] under the mask W[q + 1]; q even (R131, R205). -/
def execPwr (t : Tid) (p q : Reg) (s : State) : Out :=
  .next (issue t s fun s h =>
    let g := (h.reg q).toNat
    let m := h.regN (q.val + 1)
    if !pairOk q then s.faultThr t .illegal
    else if s.nPin ≤ 16 * g ∨ m &&& ~~~ s.ownMask (depOf t) g ≠ 0 then s.faultThr t .pinOwner
    else (setGout s g m (h.reg p)).setThr t (h.complete .seq))

/-- QUEUE_ROOM: a freed place ends a blocked PEDGE or PSER (R209). -/
def execQueueRoom (t : Tid) (s : State) : Out :=
  let h := s.thr t
  .next (if !s.live t then s else match h.pend with
    | .pedge n tau v =>
      if (s.pin n).eqFull then s else (postEdge s t n tau v).setThr t (h.edgeOk.complete .seq)
    | .pser n w =>
      if (s.pin n).fsel = 3 ∧ 4 ≤ (s.pin n).serq.length then s else (postSer s t n w).setThr t (h.complete .seq)
    | _ => s)

/-- PDES_WORD: a word ends a blocked PDES (R215). -/
def execPdesWord (t : Tid) (s : State) : Out :=
  let h := s.thr t
  .next (if !s.live t then s else match h.pend with
    | .pdes p n =>
      match (s.pin n).desWord with
      | some (w, pn) => (s.setPin n pn).setThr t (((h.setReg p w).flags { c := some (s.pin n).desLost }).complete .seq)
      | none => s
    | _ => s)

end Sys2Proof.Machine
end

