-- ==== Sys2Proof/Machine/EngPmk.lean ====
section
/-! DEFINITION. The meanings of the postmark instructions (R52, R53, R128, R129). -/
namespace Sys2Proof.Machine

def Thread.pmk (h : Thread) (n : Fin 2) : BitVec 48 := h.pm[n]
def Thread.setPm (h : Thread) (n : Fin 2) (v : BitVec 48) : Thread := { h with pm := h.pm.set n v }

/-- SETPM: PMN := triple p (R128). -/
def execSetpm (t : Tid) (n : Fin 2) (p : Reg) (s : State) : Out :=
  .next (engine t s fun _ h => illegalIf (!tripleOk p) (.done (h.setPm n (h.triple p)) [] [] .seq))
/-- GETPM: triple p := PMN (R128). -/
def execGetpm (t : Tid) (n : Fin 2) (p : Reg) (s : State) : Out :=
  .next (engine t s fun _ h => illegalIf (!tripleOk p) (.done (h.setTriple p (h.pmk n)) [] [] .seq))

/-- The snapshot of reference k from the depot pair of the rotation (R129): P, B, ρ in units of 2^-24, state, epoch, BT of the rotation boundary. -/
def State.snapshot (s : State) (k : Nat) : Snapshot :=
  let c := s.pair k
  { pos := BitVec.ofNat 48 (k % 8 * 2 ^ 45 + c.pos), bt := BitVec.ofInt 64 c.b, rho := BitVec.ofNat 48 (c.rho / 2 ^ 16)
    state := BitVec.ofNat 3 c.code, epoch := c.epoch, boundary := BitVec.ofNat 64 s.pmk.capBt }

/-- Word sel of a snapshot; sel 15 is reserved (R129). -/
def Snapshot.word (x : Snapshot) (sel : Nat) : Word :=
  if sel < 3 then BitVec.ofNat 16 (fld x.pos (16 * sel) 16)
  else if sel = 3 then x.epoch ++ x.state.setWidth 8
  else if sel < 8 then BitVec.ofNat 16 (fld x.bt (16 * (sel - 4)) 16)
  else if sel < 11 then BitVec.ofNat 16 (fld x.rho (16 * (sel - 8)) 16)
  else BitVec.ofNat 16 (fld x.boundary (16 * (sel - 11)) 16)

/-- PMRD: sel 0 takes a snapshot; every other sel returns a word of the latest one (R129). -/
def execPmrd (t : Tid) (p : Reg) (ref : Fin 8) (sel : Fin 16) (s : State) : Out :=
  .next (engine t s fun _ h =>
    if sel = 15 then .fault .illegal
    else
      let x := if sel = 0 then s.snapshot ref.val else h.snap
      .done ({ h with snap := x }.setReg p (x.word sel.val)) [] [] .seq)

/-- ADDPM: PMN[44:0] moves by imm, or by imm cycles; bits [47:45] stay (R128). -/
def execAddpm (t : Tid) (n : Fin 2) (cyc : Bool) (imm : Word) (s : State) : Out :=
  .next (alu t s fun h =>
    let x := h.pmk n
    h.setPm n (x.extractLsb' 45 3 ++ (x.extractLsb' 0 45 + BitVec.ofInt 45 (imm.toInt * (if cyc then 65536 else 1)))))

/-- The outcomes of WAITP in the flags (R53). -/
def Thread.waitReached (h : Thread) : Thread := h.flags { z := some true, c := some false }
def Thread.waitLate (h : Thread) : Thread := { h with sts := setBit h.sts 15 }.flags { z := some false, c := some true }
def Thread.waitInvalid (h : Thread) : Thread := h.flags { z := some false, v := some true }

/-- WAITP: ends at once as INVALID_REF, LATE or REACHED by the depot pairs of this boundary and the one before, or blocks (R52). -/
def execWaitp (t : Tid) (n : Fin 2) (s : State) : Out :=
  .next (engine t s fun _ h =>
    let x := h.pmk n
    let k := fld x 45 3
    if !(s.pair k).valid then .done h.waitInvalid [] [] .seq
    else if reached (s.pairBefore k).pos (fld x 0 45) then .done h.waitLate [] [] .seq
    else if reached (s.pair k).pos (fld x 0 45) then .done h.waitReached [] [] .seq
    else .block h [] (.waitp x))

/-- WAITP_RESUME: a blocked wait ends INVALID_REF or REACHED by the pair of the present rotation boundary (R52, R54, R62). -/
def execWaitpResume (t : Tid) (s : State) : Out :=
  let h := s.thr t
  .next (if !s.live t then s else match h.pend with
    | .waitp x =>
      let k := fld x 45 3
      if !(s.pair k).valid then s.setThr t (h.waitInvalid.complete .seq)
      else if reached (s.pair k).pos (fld x 0 45) then s.setThr t (h.waitReached.complete .seq)
      else s
    | _ => s)

end Sys2Proof.Machine
end

