-- ==== Sys2Proof/Machine/EngXch.lean ====
section
/-! DEFINITION. The meanings of the exchange and seal instructions (R124, R125) and of the responses that end them (R72). -/
namespace Sys2Proof.Machine

/-- Send one control-class request of thread t and block on it (R124, R172). -/
def xissue (t : Tid) (s : State) (h : Thread) (w : Nat) (op : SOp) (p : Nat → Pend) : State :=
  let tag := s.srt.nextTag
  (s.request (depOf t) (bankOf w) 1 t op).setThr t (h.block (p tag))

/-- ILLEGAL for a bad base, else the request. -/
def xpair (t : Tid) (s : State) (ok : Bool) (k : State) : State := if ok then k else s.faultThr t .illegal

/-- XLD: p := xmem[address] (R124). -/
def execXld (t : Tid) (p : Reg) (x : XAddr) (s : State) : Out :=
  .next (issue t s fun s h => xissue t s h (xaddr h x) (.load (xaddr h x) 1 []) (fun g => .xload g p false))
/-- XST: xmem[address] := p (R124). -/
def execXst (t : Tid) (p : Reg) (x : XAddr) (s : State) : Out :=
  .next (issue t s fun s h => xissue t s h (xaddr h x) (.store (xaddr h x) [h.reg p]) .xstore)
/-- XLDD: pair p := xmem[address], xmem[address + 1] (R124). -/
def execXldd (t : Tid) (p : Reg) (x : XAddr) (s : State) : Out :=
  .next (issue t s fun s h => xpair t s (pairOk p)
    (xissue t s h (xaddr h x) (.load (xaddr h x) 2 []) (fun g => .xload g p true)))
/-- XSTD: xmem[address], xmem[address + 1] := pair p (R124). -/
def execXstd (t : Tid) (p : Reg) (x : XAddr) (s : State) : Out :=
  .next (issue t s fun s h => xpair t s (pairOk p)
    (xissue t s h (xaddr h x) (.store (xaddr h x) [h.reg p, h.regN (p.val + 1)]) .xstore))
/-- ACQ: an acquire of the seal at the address; k[15] is try (R124, R125). -/
def execAcq (t : Tid) (p : Reg) (x : XAddr) (s : State) : Out :=
  .next (issue t s fun s h => xissue t s h (xaddrAcq h x) (.acq (xaddrAcq h x) (bitAt x.k 15)) (fun g => .acq g p))
/-- REL: a release of the seal at the address (R124, R125). -/
def execRel (t : Tid) (x : XAddr) (s : State) : Out :=
  .next (issue t s fun s h => xissue t s h (xaddr h x) (.rel (xaddr h x)) .rel)

/-- The registers of a load (R124): one word, or a pair. -/
def loadRegs (h : Thread) (p : Fin 16) (pair : Bool) (ws : List Word) : Thread :=
  if pair then (h.setReg p (ws.headD 0)).setRegN (p.val + 1) ((ws.drop 1).headD 0) else h.setReg p (ws.headD 0)

/-- An exchange load or store response becomes usable: the instruction completes, or its fault is taken (R72, R89). -/
def xferEnd (t : Tid) (s : State) : State :=
  let h := s.thr t
  if !s.live t then s else
  match h.pend with
  | .xload tag p pair =>
    match s.respOf t tag with
    | some (.data ws) => (s.dropResp tag).setThr t ((loadRegs h p pair ws).complete .seq)
    | some (.fault c) => (s.dropResp tag).setThr t (h.fault c)
    | _ => s
  | .xstore tag =>
    match s.respOf t tag with
    | some .done => (s.dropResp tag).setThr t (h.complete .seq)
    | some (.fault c) => (s.dropResp tag).setThr t (h.fault c)
    | _ => s
  | _ => s

/-- The outcome of an acquire in the registers of its thread (R125). -/
def acqRegs (h : Thread) (p : Fin 16) (v : Word) (granted : Bool) : Thread :=
  (h.setReg p v).flags { z := some granted, c := some (granted && bitAt v 14) }

/-- A seal response becomes usable: W[p] takes the seal word, Z the grant, C its ORPHAN (R125). -/
def sealEnd (t : Tid) (s : State) : State :=
  let h := s.thr t
  if !s.live t then s else
  match h.pend with
  | .acq tag p =>
    match s.respOf t tag with
    | some (.seal v g) => (s.dropResp tag).setThr t ((acqRegs h p v g).complete .seq)
    | some (.fault c) => (s.dropResp tag).setThr t (h.fault c)
    | _ => s
  | _ => s

/-- A release acknowledgement becomes usable: Z is 1 when the seal was released (R125). -/
def relEnd (t : Tid) (s : State) : State :=
  let h := s.thr t
  if !s.live t then s else
  match h.pend with
  | .rel tag =>
    match s.respOf t tag with
    | some (.relAck ok) => (s.dropResp tag).setThr t ((h.flags { z := some ok }).complete .seq)
    | some (.fault c) => (s.dropResp tag).setThr t (h.fault c)
    | _ => s
  | _ => s

/-- EXCHANGE_RESPONSE (R72). -/
def execExchangeResponse (t : Tid) (s : State) : Out := .next (xferEnd t s)
/-- SEAL_GRANT (R125). -/
def execSealGrant (t : Tid) (s : State) : Out := .next (sealEnd t s)
/-- REL_ACK (R125). -/
def execRelAck (t : Tid) (s : State) : Out := .next (relEnd t s)

end Sys2Proof.Machine
end

