-- ==== Sys2Proof/Machine/Issue.lean ====
section
/-! DEFINITION. The instruction at a thread's pc, as the block's own issue takes it (R64, R109, R421), and the end of a STOPPING thread (R79). -/
namespace Sys2Proof.Machine

/-- The state of an outcome; a command of the block's own that stops keeps the state. -/
def outState (s : State) : Out → State
  | .next s' => s'
  | _ => s

/-- The effect of an engine instruction; any other command has none here. -/
def runEng (s : State) : Instr → State
  | .add t d a b => outState s (execAdd t d a b s)
  | .adc t d a b => outState s (execAdc t d a b s)
  | .sub t d a b => outState s (execSub t d a b s)
  | .sbb t d a b => outState s (execSbb t d a b s)
  | .cmp t a b => outState s (execCmp t a b s)
  | .neg t d a => outState s (execNeg t d a s)
  | .abs t d a => outState s (execAbs t d a s)
  | .min t d a b => outState s (execMin t d a b s)
  | .max t d a b => outState s (execMax t d a b s)
  | .and t d a b => outState s (execAnd t d a b s)
  | .or t d a b => outState s (execOr t d a b s)
  | .xor t d a b => outState s (execXor t d a b s)
  | .andn t d a b => outState s (execAndn t d a b s)
  | .not t d a => outState s (execNot t d a s)
  | .tst t a b => outState s (execTst t a b s)
  | .mov t d a => outState s (execMov t d a s)
  | .shl t d a b => outState s (execShl t d a b s)
  | .shr t d a b => outState s (execShr t d a b s)
  | .sar t d a b => outState s (execSar t d a b s)
  | .rol t d a b => outState s (execRol t d a b s)
  | .par t d a => outState s (execPar t d a s)
  | .brev t d a n => outState s (execBrev t d a n s)
  | .clz t d a => outState s (execClz t d a s)
  | .swapb t d a => outState s (execSwapb t d a s)
  | .addi t d a imm => outState s (execAddi t d a imm s)
  | .cmpi t a imm => outState s (execCmpi t a imm s)
  | .andi t d a imm => outState s (execAndi t d a imm s)
  | .ori t d a imm => outState s (execOri t d a imm s)
  | .xori t d a imm => outState s (execXori t d a imm s)
  | .movi t d imm => outState s (execMovi t d imm s)
  | .tsti t a imm => outState s (execTsti t a imm s)
  | .shli t d a n => outState s (execShli t d a n s)
  | .shri t d a n => outState s (execShri t d a n s)
  | .sari t d a n => outState s (execSari t d a n s)
  | .bset t d a n => outState s (execBset t d a n s)
  | .bclr t d a n => outState s (execBclr t d a n s)
  | .btst t a n => outState s (execBtst t a n s)
  | .sel t cc d a b => outState s (execSel t cc d a b s)
  | .ld t r b sp off => outState s (execLd t r b sp off s)
  | .st t r b sp off => outState s (execSt t r b sp off s)
  | .ldd t r b sp off => outState s (execLdd t r b sp off s)
  | .std t r b sp off => outState s (execStd t r b sp off s)
  | .ldp t r n sp stp => outState s (execLdp t r n sp stp s)
  | .stp t r n sp stp => outState s (execStp t r n sp stp s)
  | .push t r => outState s (execPush t r s)
  | .pop t r => outState s (execPop t r s)
  | .mul t acc a b => outState s (execMul t acc a b s)
  | .mac t acc a b => outState s (execMac t acc a b s)
  | .msu t acc a b => outState s (execMsu t acc a b s)
  | .mulu t acc a b => outState s (execMulu t acc a b s)
  | .macd t acc a b => outState s (execMacd t acc a b s)
  | .msud t acc a b => outState s (execMsud t acc a b s)
  | .clra t acc => outState s (execClra t acc s)
  | .lda t acc a => outState s (execLda t acc a s)
  | .sta t acc a pair => outState s (execSta t acc a pair s)
  | .sha t acc n => outState s (execSha t acc n s)
  | .adda t acc => outState s (execAdda t acc s)
  | .suba t acc => outState s (execSuba t acc s)
  | .nega t acc => outState s (execNega t acc s)
  | .absa t acc => outState s (execAbsa t acc s)
  | .div t d a b => outState s (execDiv t d a b s)
  | .divl t d a b => outState s (execDivl t d a b s)
  | .mvs t n a => outState s (execMvs t n a s)
  | .mvf t d n => outState s (execMvf t d n s)
  | .b t cc lx target => outState s (execB t cc lx target s)
  | .call t target => outState s (execCall t target s)
  | .jmpr t a lx => outState s (execJmpr t a lx s)
  | .callr t a => outState s (execCallr t a s)
  | .ret t lx => outState s (execRet t lx s)
  | .loop t n e => outState s (execLoop t n e s)
  | .loopr t c e => outState s (execLoopr t c e s)
  | .nop t => outState s (execNop t s)
  | .brk t => outState s (execBrk t s)
  | .xld t p x => outState s (execXld t p x s)
  | .xst t p x => outState s (execXst t p x s)
  | .xldd t p x => outState s (execXldd t p x s)
  | .xstd t p x => outState s (execXstd t p x s)
  | .acq t p x => outState s (execAcq t p x s)
  | .rel t x => outState s (execRel t x s)
  | .send t p => outState s (execSend t p s)
  | .sende t tgt p => outState s (execSende t tgt p s)
  | .recv t p long ch timed => outState s (execRecv t p long ch timed s)
  | .take t p i => outState s (execTake t p i s)
  | .setpm t n p => outState s (execSetpm t n p s)
  | .getpm t n p => outState s (execGetpm t n p s)
  | .pmrd t p ref sel => outState s (execPmrd t p ref sel s)
  | .addpm t n cyc imm => outState s (execAddpm t n cyc imm s)
  | .waitp t n => outState s (execWaitp t n s)
  | .pedge t p at' level => outState s (execPedge t p at' level s)
  | .pflush t p => outState s (execPflush t p s)
  | .pser t p q => outState s (execPser t p q s)
  | .pdes t p q => outState s (execPdes t p q s)
  | .prd t p q => outState s (execPrd t p q s)
  | .pwr t p q => outState s (execPwr t p q s)
  | .crcs t p q byte => outState s (execCrcs t p q byte s)
  | .crcw t p q => outState s (execCrcw t p q s)
  | _ => s

/-- Thread t issues the instruction at its pc (R64, R88, R109). -/
def issueAtPc (t : Tid) (s : State) : State :=
  match decodeEng t ((s.dep (depOf t)).codeWord (s.thr t).pc.toNat) with
  | some i => runEng s i
  | none => issue t s fun s _ => s.faultThr t .illegal

/-- STOP_COMPLETE (R79): the operation in flight of a STOPPING thread has completed, and the thread stops. -/
def execStopComplete (t : Tid) (s : State) : Out :=
  .next (if (s.thr t).state = .stopping then stopComplete t (relEnd t (xferEnd t (exactEnd t s))) else s)

end Sys2Proof.Machine
end

