-- ==== Sys2Proof/Machine/OpsSheow.lean ====
section
/-! DEFINITION. Sheow's letterboxes: rings in letterbox RAM, replies, events, the dead-letter log (R312 to R336). -/
namespace Sys2Proof.Machine

/-! ### Letterbox RAM -/

def State.lb32 (s : State) (a : Nat) : W32 := s.xch.lb.read32 a
/-- A whole-byte write replaces the byte's parity (R155). -/
def clearPar (m : SMap Bool) (a : Nat) : Nat → SMap Bool
  | 0 => m
  | n + 1 => clearPar (m.set (a + n) false false) a n
def State.lbPut32 (s : State) (a : Nat) (v : W32) : State :=
  { s with xch := { s.xch with lb := s.xch.lb.write32 a v, lbErr := clearPar s.xch.lbErr a 4 } }

/-- A read of n bytes of letterbox RAM at byte a that finds a parity error: lb_par, LB_PAR_ADDR, IRQ_SAFE.lb_par (R155, R395). -/
def lbParity (s : State) (a n : Nat) : State × Bool :=
  match (List.range n).find? fun i => s.xch.lbErr.get (a + i) false with
  | none => (s, true)
  | some i =>
    let s := if bitAt s.seals.evt 2 then s
      else { s with xch := { s.xch with parValid := true, parAddr := BitVec.ofNat 13 ((a + i) / 8) } }
    ((s.sealEvt 2).safeEvt 4, false)

/-- Byte offsets in the RAM of the two halves of letterbox n (Table 11.1). -/
def h2pBase (n : Nat) : Nat := n * 0x1000
def p2hBase (n : Nat) : Nat := n * 0x1000 + 0x800

/-- Ring word i of the half at base b. -/
def ringAddr (b i : Nat) : Nat := b + 0x20 + 4 * (i % 504)
def State.ringWords (s : State) (b i n : Nat) : List W32 := (List.range n).map fun j => s.lb32 (ringAddr b (i + j))
def putRing (s : State) (b i : Nat) : List W32 → State
  | [] => s
  | w :: r => putRing (s.lbPut32 (ringAddr b i) w) b (i + 1) r

/-! ### Boxes -/

/-- The classes a letterbox accepts at start (Table 11.5): bit = class code. -/
def Box.reset (n : Nat) : Box := { classes := if n = 0 then 0x1B0E else if n = 1 then 0x0400 else if n = 2 then 0x0050 else 0 }
def State.box (s : State) (n : Nat) : Box := s.sheow.boxes.get n (Box.reset n)
def State.setBox (s : State) (n : Nat) (b : Box) : State :=
  { s with sheow := { s.sheow with boxes := s.sheow.boxes.set n b (Box.reset n) } }

/-- Sheow runs: started, not halted for a swap, the Postmaster pair not frozen, the block awake and out of reset. -/
def State.shUp (s : State) : Bool :=
  s.sheow.state != .down && !s.sheow.halted && !s.irq.pmFrozen && !s.dbg.haltA && !s.pwr.retention && s.pwr.state != .hold && s.pwr.state != .off && !s.inReset

def ShState.code : ShState → Nat | .down => 0 | .config => 1 | .run => 2

/-- The P2H state word of every letterbox (Table 11.1). -/
def stateWord (x : Sheow) : W32 :=
  BitVec.ofNat 32 (b2n (x.state != .down) * 2 ^ 31 + b2n x.halted * 2 ^ 30 + x.epoch.toNat * 65536 + (if x.halted then 3 else x.state.code))
def writeStates (s : State) : State :=
  (List.range 16).foldl (fun s n => s.lbPut32 (p2hBase n + 8) (stateWord s.sheow)) s

/-! ### The dead-letter log (R336) -/

/-- Add an entry: 512 at most, the oldest overwritten and counted; IRQ_DL.pend sets. -/
def logRec (s : State) (e : DlEntry) : State :=
  let full := decide (512 ≤ s.sheow.dlLog.length)
  { s with
    sheow := { s.sheow with
      dlLog := (if full then s.sheow.dlLog.drop 1 else s.sheow.dlLog) ++ [e]
      dlOver := if full then s.sheow.dlOver + 1 else s.sheow.dlOver }
    irq := { s.irq with dl := true } }

/-- An entry with cause, source kind, letterbox or depot, record words and detail (Table 11.11). -/
def dlEntry (s : State) (cause kind unit : Nat) (ws : List W32) (detail : Nat) : DlEntry :=
  { e0 := BitVec.ofNat 32 (cause + kind * 256 + unit * 65536), bt := s.bt64
    e3 := ws.headD 0, e4 := (ws.drop 1).headD 0, e5 := (ws.drop 2).headD 0, e6 := (ws.drop 3).headD 0
    e7 := BitVec.ofNat 32 detail }

/-! ### Replies and events -/

/-- The words of a letter to the host (Table 11.3). -/
def OutLetter.words (l : OutLetter) (seq : Word) : List W32 :=
  [ BitVec.ofNat 32 (l.cls * 2 ^ 24 + l.op * 65536), BitVec.ofNat 32 ((if l.event then 0 else l.tag.toNat) * 65536 + seq.toNat),
    BitVec.ofNat 32 l.body.length,
    BitVec.ofNat 32 ((if l.event then 2 ^ 30 else 2 ^ 31) + b2n l.more * 2 ^ 28 + (if l.event then 0 else l.status.toNat)) ] ++ l.body

/-- Free room of the P2H ring of letterbox n (R313); a consumer index out of range leaves none. -/
def State.p2hRoom (s : State) (n : Nat) : Nat :=
  let c := fld (s.lb32 (p2hBase n + 4)) 0 9
  if 503 < c then 0 else (c + 504 - (s.box n).prodOut - 1) % 504

/-- Letters waiting for room leave in order while they fit; each sets the doorbell (R313, R318, R327). -/
def flushBox (n : Nat) : Nat → State → State
  | 0, s => s
  | k + 1, s =>
    let b := s.box n
    match b.outq with
    | [] => s
    | l :: r =>
      let ws := l.words b.seqOut
      if ws.length ≤ s.p2hRoom n then
        let s := putRing s (p2hBase n) b.prodOut ws
        let p := (b.prodOut + ws.length) % 504
        let s := s.lbPut32 (p2hBase n) (BitVec.ofNat 32 p)
        let s := s.setBox n { b with outq := r, prodOut := p, seqOut := b.seqOut + 1 }
        flushBox n k { s with irq := { s.irq with p2h := setBit s.irq.p2h n } }
      else s

/-- Post a letter to the host on letterbox n. -/
def postOut (s : State) (n : Nat) (l : OutLetter) : State :=
  let b := s.box n
  flushBox n (b.outq.length + 1) (s.setBox n { b with outq := b.outq ++ [l] })

/-- An event on letterbox n. -/
def eventOn (s : State) (n cls op : Nat) (body : List W32) : State :=
  postOut s n { cls := cls, op := op, tag := 0, event := true, more := false, status := 0, body := body, since := s.clk.bt }

/-- An event of a class, on the letterbox REPORT_BOX names for it, or LB0 (R327). Sheow sends none while it does not run. -/
def sendEvent (s : State) (cls op : Nat) (body : List W32) : State :=
  if s.shUp then eventOn s (s.sheow.reportBox.get cls 0) cls op body else s

/-- Status codes of Table 11.4. -/
inductive LStat
  | ok | header | cls | box | domain | len | range | state | absent | conflict | capacity | unsupported | verify | busy | fault
deriving DecidableEq, Repr
def LStat.code : LStat → Nat
  | .ok => 0 | .header => 1 | .cls => 2 | .box => 3 | .domain => 4 | .len => 5 | .range => 6 | .state => 7 | .absent => 8
  | .conflict => 9 | .capacity => 10 | .unsupported => 11 | .verify => 12 | .busy => 13 | .fault => 14

/-- The result of a letter: OK with a reply body, a refusal naming the first body word at fault (0xFFFF: none) and a detail (R322), or no reply yet. -/
inductive LRes
  | ok (body : List W32)
  | err (c : LStat) (idx detail : Nat)
  | wait
deriving DecidableEq, Repr

/-- Reply to letter l on letterbox n; a quiet OK sends none (R321, R322). -/
def replyTo (s : State) (n : Nat) (l : Letter) (r : LRes) : State :=
  match r with
  | .ok body =>
    if l.quiet then s
    else postOut s n { cls := l.cls, op := l.op, tag := l.tag, event := false, more := false, status := 0, body := body, since := s.clk.bt }
  | .err c i d =>
    postOut s n { cls := l.cls, op := l.op, tag := l.tag, event := false, more := false, status := BitVec.ofNat 16 c.code
                  body := [BitVec.ofNat 32 (i * 65536 + d % 65536)], since := s.clk.bt }
  | .wait => s

/-- The letter in service on letterbox n ends. -/
def endService (s : State) (n : Nat) : State := s.setBox n { s.box n with svc := none }

/-- A refusal for E_BOX or E_DOMAIN is also recorded (R323, Table 11.11). -/
def logRefused (s : State) (n : Nat) (l : Letter) (c : LStat) : State :=
  if c = .box ∨ c = .domain then logRec s (dlEntry s 4 0 n l.hdr c.code) else s

/-- Serve the letter in service on letterbox n when it is the letter (cls, op): f gives the new state and the result; a refusal changes nothing (R321); the reply follows the effect. -/
def serve (n cls op : Nat) (s : State) (f : State → Letter → State × LRes) : State :=
  if !s.shUp || (n != 2 && (s.box 2).svc.isSome) then s else
  match (s.box n).svc with
  | none => s
  | some l =>
    if l.cls = cls ∧ l.op = op then
      match f s l with
      | (s', .ok b) => replyTo (endService s' n) n l (.ok b)
      | (_, .err c i d) => replyTo (logRefused (endService s n) n l c) n l (.err c i d)
      | (s', .wait) => s'
    else s

/-- The letter in service on letterbox n has begun an effect that takes time: its reply follows when the effect is complete (R321). -/
def beginService (s : State) (n : Nat) : State :=
  match (s.box n).svc with
  | some l => s.setBox n { s.box n with svc := some { l with begun := true } }
  | none => s

/-- A refusal at body word i. -/
def bad (s : State) (c : LStat) (i : Nat) (d : Nat := 0) : State × LRes := (s, .err c i d)
/-- A refusal of the whole letter. -/
def bad0 (s : State) (c : LStat) : State × LRes := (s, .err c 0xFFFF 0)
def done0 (s : State) : State × LRes := (s, .ok [])
def doneW (s : State) (b : List W32) : State × LRes := (s, .ok b)

/-- Body word i. -/
def Letter.b (l : Letter) (i : Nat) : W32 := l.body[i]?.getD 0
/-- The body has n words, else E_LEN. -/
def needLen (s : State) (l : Letter) (n : Nat) (k : State × LRes) : State × LRes :=
  if l.body.length = n then k else bad0 s .len

/-- The sender of a letter on letterbox n is secure (R409, R410). -/
def State.secureBox (s : State) (n : Nat) : Bool := decide (n < 3) || !bitAt s.sec.lbDom n

/-- Parameter records: ids and signed 24-bit values (R328). -/
def recId (w : W32) : Nat := fld w 24 8
def recVal (w : W32) : Int := (w.extractLsb' 0 24).toInt
/-- A record word of a value. -/
def recWord (id : Nat) (v : Int) : W32 := BitVec.ofNat 32 (id * 2 ^ 24) ||| (BitVec.ofInt 24 v).setWidth 32

/-! ### Reference events to the host -/

/-- PMK REF: Sheow reports a reference state change (R331). -/
def reportRef (s : State) (k : Nat) : State :=
  let r := s.ref k
  sendEvent s 9 0x80 [BitVec.ofNat 32 (k + r.state.code * 256 + r.epoch.toNat * 65536), BitVec.ofNat 32 s.clk.bt, BitVec.ofNat 32 (s.clk.bt / 2 ^ 32)]

/-- DEPOT DEVENT (R329): kind 1 stall, 2 block stall, 3 twin mismatch, 4 takeover done, 5 admission lost. -/
def devent (s : State) (d kind : Nat) (detail : W32) : State := sendEvent s 3 0x80 [BitVec.ofNat 32 (d + kind * 256), detail]

end Sys2Proof.Machine
end

