-- ==== Sys2Proof/Machine/PmkEv.lean ====
section
/-! DEFINITION. Commands of the postmark unit: latched reads, conversion, references, crossings, PTP time, the alarm (R31 to R62, R449 to R451). -/
namespace Sys2Proof.Machine

/-- An agent's reads of block registers are answered: out of reset, and for debug at level 1 or above (R411, R420). -/
def State.mayRead (s : State) (ag : Agent) : Bool := !s.inReset && (ag != .dbg || s.dbg.level != 0)

/-- Answer a register read with v where the agent may read, else with 0. -/
def answer (s : State) (ag : Agent) (v : W32) : State := { s with rdata := if s.mayRead ag then v else 0 }

/-- The PMK bank of an agent (R31). -/
def State.pbank (s : State) (ag : Agent) : PmkBank := s.pmk.banks.get (bankKey (s.who ag)) {}
def State.setPbank (s : State) (ag : Agent) (b : PmkBank) : State :=
  { s with pmk := { s.pmk with banks := s.pmk.banks.set (bankKey (s.who ag)) b {} } }

/-- PMK_BT_LO_READ (R31). -/
def btLoRead (s : State) (ag : Agent) : State :=
  if s.mayRead ag then
    { s.setPbank ag { s.pbank ag with btHi := s.bt64.extractLsb' 32 32 } with rdata := s.bt64.extractLsb' 0 32 }
  else { s with rdata := 0 }
def execPmkBtLoRead (ag : Agent) (s : State) : Out := .next (btLoRead s ag)

/-- PMK_PTP_NS_READ (R31). -/
def ptpNsRead (s : State) (ag : Agent) : State :=
  if s.mayRead ag then
    { s.setPbank ag { s.pbank ag with secLo := BitVec.ofNat 32 s.ptpSecs, secHi := BitVec.ofNat 16 (s.ptpSecs / 2 ^ 32) }
      with rdata := BitVec.ofNat 32 s.ptpNanos }
  else { s with rdata := 0 }
def execPmkPtpNsRead (ag : Agent) (s : State) : Out := .next (ptpNsRead s ag)

/-- PMK_POS_LO_READ (R31). -/
def posLoRead (s : State) (ag : Agent) (k : Nat) : State :=
  if s.mayRead ag ∧ k < 8 then
    let b := s.pbank ag
    { s.setPbank ag { b with posHi := b.posHi.set k ((s.posMark k).extractLsb' 32 16) 0 } with rdata := (s.posMark k).extractLsb' 0 32 }
  else { s with rdata := 0 }
def execPmkPosLoRead (ag : Agent) (k : Nat) (s : State) : Out := .next (posLoRead s ag k)

/-- PMK_CONV_START (R51): a failed conversion leaves a BT value the manual does not state. Debug needs level 1. -/
def convStart (s : State) (ag : Agent) (hi : W32) : State :=
  if !s.mayRead ag then s else
  let b := { s.pbank ag with convHi := hi.extractLsb' 0 16 }
  match s.convert (b.convHi ++ b.convLo) with
  | .ok t => s.setPbank ag { b with convBt := t, convSt := 0 }
  | .invalidRef => (s.tick1).setPbank ag { b with convBt := Config.word32 s.free ++ Config.word32 (s.free + 1), convSt := 1 }
  | .far => (s.tick1).setPbank ag { b with convBt := Config.word32 s.free ++ Config.word32 (s.free + 1), convSt := 2 }
def execPmkConvStart (ag : Agent) (hi : W32) (s : State) : Out := .next (convStart s ag hi)

/-! ### PMK_CFG (R62) -/

/-- Reference k supports mode m (R62). -/
def modeOk (k m : Nat) : Bool :=
  if k < 3 then m == 0 || m == 1 else if k < 5 then m == 2 else if k = 5 then m == 0 else m == 3

/-- The frequency a tracker runs at before its first lock: 50 Hz, or PMK_NOM of a user reference (R42). -/
def Ref.restFreq (r : Ref) (k : Nat) : Nat :=
  if r.everLocked then r.freq else if isUser k then fld r.nom 0 27 * 2 ^ 24 else 50 * 2 ^ 32

/-- The hold of PTP reference k becomes h. -/
def setHold (s : State) (k h : Nat) : State :=
  if k = 3 then { s with pmk := { s.pmk with hold3 := h } }
  else if k = 4 then { s with pmk := { s.pmk with hold4 := h } } else s

/-- The reference in state DISABLED, its position held where it is (Table 2.2). -/
def refOff (s : State) (k : Nat) : State :=
  let r := s.ref k
  let h := s.posRaw k s.clk.bt
  let s := s.setRef k { r with
    p := r.posFine s.clk.bt, b := s.clk.bt, state := .disabled, acq := [], stage2 := none, miss := 0, good := 0 }
  setHold s k h

/-- The line runs on from the position at BT t with frequency f. -/
def Ref.restart (r : Ref) (t f : Nat) : Ref := { r with p := r.posFine t, b := t, freq := f, rho := rhoOfFreq f }

/-- The reference enters ACQUIRING; a PTP reference follows the PTP time, another continues from the position it holds (R42). -/
def refOn (s : State) (k : Nat) : State :=
  let r := s.ref k
  let r := if isPtp k then r else r.restart s.clk.bt (r.restFreq k)
  let s := setHold s k 0
  s.setRef k { r with
    state := .acquiring, acq := [], stage2 := none, lastX := 0, miss := 0, badFreq := 0, good := 0,
    sagged := false, swelled := false, dec := {} }

/-- A write of PMK_CFG[k] (R62, Table 2.9): an unsupported mode voids it; the other fields change only while en is 0. -/
def writeCfg (s : State) (k : Nat) (v : W32) : State :=
  let r := s.ref k
  if !modeOk k (fld v 26 2) ∨ k = 5 ∨ 8 ≤ k then s
  else if r.en then
    if bitAt v 31 then s
    else reportRef (refOff (s.setRef k { r with cfg := clrBit r.cfg 31 }) k) k
  else
    let s := s.setRef k { r with cfg := v &&& 0x8FFFE000 }
    if bitAt v 31 then reportRef (refOn s k) k else s

/-- Who may write the PMK window: the Postmaster and host secure (R411); normal agents only the banked PMK_CONV. -/
def State.pmkWriter (s : State) (ag : Agent) : Bool := pmOrHostS ag && !s.inReset

/-- REF_ENABLE: a write of PMK_CFG[k] with en 1 (R62). -/
def execRefEnable (ag : Agent) (k : Nat) (v : W32) (s : State) : Out :=
  .next (if s.pmkWriter ag then writeCfg s k (setBit v 31) else s)
/-- REF_DISABLE: a write of PMK_CFG[k] with en 0 (R62); pending waits end at the next rotation boundary. -/
def execRefDisable (ag : Agent) (k : Nat) (v : W32) (s : State) : Out :=
  .next (if s.pmkWriter ag then writeCfg s k (clrBit v 31) else s)

/-! ### Trackers -/

/-- A period in BT lies in the range of reference k: 45 to 65 Hz, or within ±5 % of nominal between 10 Hz and 100 kHz (R37, R47). -/
def periodOk (r : Ref) (k sp : Nat) : Bool :=
  if isUser k then
    let n := fld r.nom 0 27
    decide (95 * n * sp ≤ 25600 * secBt ∧ 25600 * secBt ≤ 105 * n * sp ∧ sp * 10 ≤ secBt ∧ secBt ≤ sp * 100000)
  else decide (sp * 45 ≤ secBt ∧ secBt ≤ sp * 65)

/-- A filtered frequency in 2^-32 Hz lies in that range. -/
def freqOk (r : Ref) (k : Nat) : Bool :=
  if isUser k then
    let n := fld r.nom 0 27 * 2 ^ 24
    decide (95 * n ≤ 100 * r.freq ∧ 100 * r.freq ≤ 105 * n)
  else decide (45 * 2 ^ 32 ≤ r.freq ∧ r.freq ≤ 65 * 2 ^ 32)

/-- Enter LOCKED (Table 2.4, R35): LOCK and a new epoch from ACQUIRING or INVALID, RESTORED from HOLDOVER. -/
def enterLocked (s : State) (k : Nat) : State :=
  let r := s.ref k
  let s := match r.state with
    | .holdover => (s.setRef k { r with state := .locked, everLocked := true, miss := 0, badFreq := 0, good := 0 }).refEvt k 8
    | _ => (s.setRef k { r with state := .locked, everLocked := true, epoch := r.epoch + 1, miss := 0, badFreq := 0, good := 0, acq := [], stage2 := none }).refEvt k 0
  reportRef s k

/-- The largest of a list, and the smallest. -/
def listMax (l : List Nat) : Nat := l.foldl Nat.max 0
def listMin (l : List Nat) : Nat := l.foldl Nat.min (l.headD 0)

/-- Spacings of a list of times, newest first. -/
def spacings : List Nat → List Nat
  | a :: b :: r => (a - b) :: spacings (b :: r)
  | _ => []

/-- A positive-going crossing, or edge, in ACQUIRING or INVALID (R451). -/
def acquireX (s : State) (k tx : Nat) : State :=
  let r := s.ref k
  let restart := s.setRef k { r with acq := [tx], stage2 := none }
  match r.stage2 with
  | none =>
    let l := tx :: r.acq
    let sp := spacings l
    if sp.all (fun x => periodOk r k x) && decide (listMax sp * 100 ≤ 101 * listMin sp) then
      if sp.length = 4 then s.setRef k { r with acq := [], stage2 := some (0, tx, sp.sum) } else s.setRef k { r with acq := l }
    else restart
  | some (n, last, sum) =>
    let err := ((4 * tx : Int) - 4 * last - (n + 1) * sum).natAbs
    if err * 360 < sum then
      if n = 3 then
        let f := secBt * 2 ^ 32 * 4 / sum
        let h := nearHalf (r.line tx) true
        let r' := r.relineAt s.clk.bt tx (h * 2 ^ 31) f
        enterLocked (s.setRef k { r' with nextC := (h + (if isUser k then 2 else 1)).toNat, prevRise := tx }) k
      else s.setRef k { r with stage2 := some (n + 1, last, sum) }
    else restart

/-- SAMP levels at the end of a half-cycle: SAG and SWELL with their 2 % return (Table 2.4, Table 2.10). They are judged in every state of an enabled tracker (DESIGN CHOICE). -/
def levels (s : State) (k rms : Nat) : State :=
  let r := s.ref k
  if !r.samp then s else
  let sag := 100 * fld r.bound 16 8
  let swell := 100 * fld r.bound 24 8
  let s := s.setRef k { r with
    dec := { r.dec with sq := 0, m := 0 }
    rms := BitVec.ofNat 16 (Nat.min rms 65535)
    sagged := decide (rms < sag) || (r.sagged && decide (rms < sag + 200))
    swelled := decide (swell < rms) || (r.swelled && decide (swell < rms + 200)) }
  let s := if rms < sag ∧ !r.sagged then s.refEvt k 1 else s
  if swell < rms ∧ !r.swelled then s.refEvt k 2 else s

/-- The half-cycle counts as missing by its level (SAMP only, Table 2.4). -/
def lossLevel (r : Ref) (rms : Nat) : Bool := r.samp && decide (rms < 100 * fld r.bound 8 8)

/-- The loop takes a crossing at tx (R39, R40, R450): absorbed within 30°, else a re-lock. -/
def takeCrossing (s : State) (k : Nat) (rising : Bool) (tx : Nat) : State :=
  let r := s.ref k
  let h := nearHalf (r.line tx) rising
  let e := h * 2 ^ 31 - r.line tx
  let next := (h + (if isUser k then 2 else 1)).toNat
  if 12 * e.natAbs ≤ 2 ^ 32 then
    s.setRef k { r.absorb s.clk.bt tx e (if isUser k then 1 else 2) with nextC := next, miss := 0 }
  else
    (s.setRef k { r.relineAt s.clk.bt tx (h * 2 ^ 31) r.freq with nextC := next, miss := 0 }).refEvt k 4

/-- The full-cycle tests at a positive-going crossing: FSTEP against the filtered frequency, also where the crossing re-locks (DESIGN CHOICE), and loss after 2 cycles out of range (Table 2.4). -/
def cycleTests (s : State) (k tx freq0 : Nat) : State :=
  let r := s.ref k
  let per : Nat := tx - r.prevRise
  let fm : Nat := if per = 0 then 0 else secBt * 2 ^ 32 / per
  let s := if r.prevRise ≠ 0 ∧ fld r.bound 0 8 * 2 ^ 32 < 100 * ((fm : Int) - freq0).natAbs then s.refEvt k 3 else s
  let bad := if freqOk r k then 0 else r.badFreq + 1
  let s := s.setRef k { s.ref k with prevRise := tx, badFreq := bad }
  if 2 ≤ bad then reportRef (s.loss k) k else s

/-- A crossing in HOLDOVER is good (R47, R451). -/
def goodCrossing (r : Ref) (k : Nat) (rising : Bool) (tx rms : Nat) : Bool :=
  r.lastX != 0 && (isUser k || rising != r.lastRise) &&
    (if isUser k then periodOk r k (tx - r.lastX) else periodOk r k (2 * (tx - r.lastX))) && !lossLevel r rms

/-- A crossing of a mains tracker, or an edge of a user reference, at BT tx. -/
def crossing (s : State) (k : Nat) (rising : Bool) (tx rms : Nat) : State :=
  let s := levels s k rms
  let r := s.ref k
  let s' := match r.state with
    | .acquiring => if rising then acquireX s k tx else s
    | .invalid => if rising then acquireX s k tx else s
    | .locked =>
      if lossLevel r rms then s
      else
        let s := takeCrossing s k rising tx
        if rising then cycleTests s k tx r.freq else s
    | .holdover =>
      if goodCrossing r k rising tx rms then
        if r.good = 0 then s.setRef k { r with good := 1 }
        else
          let s := takeCrossing s k rising tx
          enterLocked (s.setRef k { s.ref k with prevRise := if rising then tx else r.lastX }) k
      else s.setRef k { r with good := 0 }
    | .disabled => s
  s'.setRef k { s'.ref k with lastX := tx, lastRise := rising }

/-- A crossing time the tracker can report: not in the future, later than the one before. -/
def State.freshX (s : State) (k tx : Nat) : Bool :=
  decide (tx ≤ s.clk.bt ∧ (s.ref k).lastX < tx) && (s.ref k).state != .disabled && !s.inReset

/-- The pin a reference names (Table 2.9). -/
def Ref.pin (r : Ref) : Nat := fld r.cfg 16 10

/-- The BT of the crossing at the input of tracker k, where its pin gives one: in COMP the mean of the two comparator transitions at t1 and t2 of a pin in COMP (R200); in SAMP between the last two samples of a pin in DES (R216). -/
def State.crossTime (s : State) (k : Nat) (rising : Bool) (t1 t2 : Nat) : Option Nat :=
  let r := s.ref k
  if r.samp then
    if (s.pin r.pin).fn = .des ∧ r.dec.crosses rising then some r.dec.crossAt else none
  else if (s.pin r.pin).fn = .comp ∧ t1 ≤ s.clk.bt ∧ t2 ≤ s.clk.bt then some ((t1 + t2) / 2) else none

/-- The level of the half-cycle that ends: of a SAMP tracker, from its samples; COMP has none (R38). -/
def State.level (s : State) (k : Nat) : Nat := if (s.ref k).samp then s.halfLevel k else 0

/-- MAINS_CROSSING: the input of tracker k crosses zero; t1 and t2 are the BT of the transitions of below_lo and above_hi in COMP (R200, R216, R450, R451, Table 2.4). -/
def execMainsCrossing (k : Nat) (rising : Bool) (t1 t2 : Nat) (s : State) : Out :=
  .next (match s.crossTime k rising t1 t2 with
    | none => s
    | some tx => if isMains k && s.freshX k tx then crossing s.tick1 k rising tx (s.level k) else s)

/-- CROSSING_WINDOW_END: the window of the predicted crossing, number c, has ended without a counting crossing: MISS, and LOSS at the third (Table 2.4). -/
def execCrossingWindowEnd (k c : Nat) (s : State) : Out :=
  let r := s.ref k
  .next (if (isMains k || isUser k) && r.state == .locked && c == r.nextC && decide ((r.nextC * 2 ^ 31 + 2 ^ 29 : Nat) ≤ r.line s.clk.bt) && !s.inReset then
    let s := levels s.tick1 k (s.level k)
    let s := (s.setRef k { s.ref k with nextC := r.nextC + (if isUser k then 2 else 1), miss := r.miss + 1, prevRise := if r.nextC % 2 = 0 then 0 else r.prevRise }).refEvt k 5
    if 2 ≤ r.miss then reportRef (s.loss k) k else s
  else s)

/-- HOLDOVER_EXPIRY (R41). -/
def execHoldoverExpiry (k : Nat) (s : State) : Out :=
  let r := s.ref k
  .next (if r.state = .holdover ∧ r.holdFrom + r.holdBt ≤ s.clk.bt ∧ !s.inReset then
    reportRef ((s.setRef k { r with state := .invalid, acq := [], stage2 := none }).refEvt k 7) k
  else s)

/-- REF_EDGE: an edge of the chosen polarity of the pin in REF that user reference k names, its input not blanked (R47, R199, R221). -/
def execRefEdge (k : Nat) (tx : Nat) (s : State) : Out :=
  let p := s.pin (s.ref k).pin
  .next (if isUser k && s.freshX k tx && p.fn == .ref && decide (p.blankBt ≤ tx) then crossing s k true tx 10000 else s)

/-! ### PTP time (R43 to R46) -/

/-- The watchdog counts from now (R46). -/
def State.kickPtp (s : State) : State := { s with pmk := { s.pmk with wdogFrom := s.clk.bt } }

/-- Only the Postmaster writes the PMK_PTP registers (R43). -/
def State.ptpWriter (s : State) (ag : Agent) : Bool := isPm ag && !s.inReset

/-- PTP_RATE_WRITE (R44): the time so far keeps the old rate. -/
def rateWrite (s : State) (v : W32) : State :=
  let s := s.setPtp s.ptpNow s.pmk.hold3 s.pmk.hold4
  { s with pmk := { s.pmk with rate := v } }.kickPtp
def execPtpRateWrite (ag : Agent) (v : W32) (s : State) : Out := .next (if s.ptpWriter ag then rateWrite s v else s)

/-- The hold of reference k when the time v is loaded: an enabled one does not fall below its position now, a disabled one takes the new position (R40, R45). -/
def State.loadHold (s : State) (k v : Nat) : Nat :=
  if (s.ref k).state = .disabled then v * 65536 / ptpPhase k else s.posRaw k s.clk.bt

/-- LOAD_TIME (R45): only while PMK3 and PMK4 are both not valid. -/
def loadTime (s : State) : State :=
  if s.refValid 3 || s.refValid 4 then s
  else
    let v := s.pmk.setSec.toNat * ptpSec + s.pmk.setNs.toNat * ptpNs
    s.setPtp v (s.loadHold 3 v) (s.loadHold 4 v)
def execLoadTime (ag : Agent) (s : State) : Out := .next (if s.ptpWriter ag then loadTime s else s)

/-- APPLY_STEP (R44): a step beyond ±1 s is ignored; STEPPED in each enabled PTP reference (Table 2.11). -/
def applyStep (s : State) : State :=
  let s := s.kickPtp
  if 1000000000 < s.pmk.step.toInt.natAbs then s
  else
    let s := s.setPtp ((s.ptpNow : Int) + s.pmk.step.toInt * ptpNs).toNat (s.posRaw 3 s.clk.bt) (s.posRaw 4 s.clk.bt)
    let s := if (s.ref 3).state = .disabled then s else s.refEvt 3 9
    if (s.ref 4).state = .disabled then s else s.refEvt 4 9
def execApplyStep (ag : Agent) (s : State) : Out := .next (if s.ptpWriter ag then applyStep s else s)

/-- Mark one PTP reference locked (R45). -/
def markRef (s : State) (k : Nat) : State :=
  match (s.ref k).state with
  | .acquiring => enterLocked s k
  | .invalid => enterLocked s k
  | .holdover => enterLocked s k
  | _ => s
/-- MARK_LOCKED (R45). -/
def markLocked (s : State) : State := markRef (markRef s.kickPtp 3) 4
def execMarkLocked (ag : Agent) (s : State) : Out := .next (if s.ptpWriter ag then markLocked s else s)

/-- PTP_WATCHDOG_EXPIRY (R46). -/
def execPtpWatchdogExpiry (s : State) : Out :=
  .next (if s.pmk.wdog ≠ 0 ∧ s.pmk.wdogFrom + s.pmk.wdog.toNat * msBt ≤ s.clk.bt ∧ !s.inReset then
    let s := if (s.ref 3).state = .locked then reportRef (s.loss 3) 3 else s
    if (s.ref 4).state = .locked then reportRef (s.loss 4) 4 else s
  else s)

/-- POSTMARK_ALARM (R60). -/
def execPostmarkAlarm (s : State) : Out :=
  let k := fld s.pmk.alarmPm 45 3
  .next (if s.pmk.alarmEn && s.refValid k && reached (s.posAt k s.clk.bt) (fld s.pmk.alarmPm 0 45) && !s.inReset then
    ({ s with pmk := { s.pmk with alarm := true, alarmEn := false } }).wakeSrc 2 else s)

end Sys2Proof.Machine
end

