-- ==== Sys2Proof/Machine/PinEv.lean ====
section
/-! DEFINITION. Commands of the pin unit: register writes with effects, handovers, edges, bit clocks, serializers, deserializers, captures, patterns, rings (R188 to R223). -/
namespace Sys2Proof.Machine

/-- The pin unit runs: not in reset, Hold or Off (R224). -/
def State.pinRuns (s : State) : Bool := !s.inReset && s.pwr.state != .hold && s.pwr.state != .off

/-- Pin n is a normal object (R410). -/
def State.pinNormal (s : State) (n : Nat) : Bool := bitAt (s.sec.pinDom.get (n / 16) 0) (n % 16)

/-- Agent ag may write the per-pin registers of pin n (R190, R420). -/
def State.pinWriter (s : State) (ag : Agent) (n : Nat) : Bool :=
  !s.inReset && decide (n < s.nPin) &&
  (match ag with
   | .hostN => (s.pin n).ownKind == 2
   | .dbg => s.dbg.level == 3 || (s.dbg.level == 2 && s.pinNormal n)
   | _ => true)

/-- PIN_OWN[n] := v (R189, R191, R411). -/
def writeOwn (s : State) (ag : Agent) (n : Nat) (v : W32) : State :=
  let p := s.pin n
  let kind : BitVec 2 := v.extractLsb' 5 2
  let d : BitVec 5 := v.extractLsb' 0 5
  let normal := kind == 2 || (kind == 3 && s.depNormal d.toNat)
  let s' := s.setPin n { p with ownKind := kind, ownDep := d }
  if s.inReset ∨ s.nPin ≤ n then s
  else if !s.globalWriter ag || (normal && !s.pinNormal n) then s.pinErr n 1
  else if kind = p.ownKind ∧ (kind ≠ 3 ∨ d = p.ownDep) then s'
  else if kind = 3 ∧ p.ownKind = 3 ∧ bitAt v 7 then s' else s'.handoverHold n false

/-- PIN_OWN_WRITE (R191). -/
def execPinOwnWrite (ag : Agent) (n : Nat) (v : W32) (s : State) : Out := .next (writeOwn s ag n v)

/-- Another pin feeds word ring k. -/
def State.ringFed (s : State) (k n : Nat) : Bool :=
  s.pins.pins.any fun e => e.1 != n && e.2.fsel == 4 && e.2.sink == 2 && e.2.ring == k

/-- Why a PIN_FUNC value is refused (R192, R199, R217, Table 7.6): none when it is accepted. -/
def funcCause (s : State) (n : Nat) (v : W32) : Option Nat :=
  let p := { s.pin n with func := v }
  let f := p.fsel
  if 8 < f then some 5
  else if (f = 2 ∨ f = 3 ∨ (f = 4 ∧ p.sink = 1)) ∧ p.ownKind ≠ 3 then some 2
  else if (f = 8 ∧ !p.ana) ∨ (f ≠ 0 ∧ f ≠ 8 ∧ p.ana) then some 3
  else if (f = 6 ∧ !(s.pring p.ring).records) ∨ (f = 4 ∧ p.sink = 2 ∧ ((s.pring p.ring).records ∨ s.ringFed p.ring n)) then some 4
  else if f = 5 ∧ (s.bck p.bclk).per.toNat < 12288 then some 6
  else none

/-- PIN_FUNC[n] := v (R192, R193). -/
def writeFunc (s : State) (ag : Agent) (n : Nat) (v : W32) : State :=
  if !s.pinWriter ag n then s else
  match funcCause s n v with
  | some c => s.pinErr n c
  | none =>
    let s := s.handover n false
    s.setPin n { s.pin n with func := v &&& 0x0FFFFFCF }

/-- PIN_FUNC_WRITE (R193). -/
def execPinFuncWrite (ag : Agent) (n : Nat) (v : W32) (s : State) : Out := .next (writeFunc s ag n v)

/-! ### Edge queue -/

/-- τ0: τ with bits [2:0] cleared. -/
def tau0 (t : W64) : Nat := t.toNat / 8 * 8

/-- Entries that first reach the head now: late ones are counted, then emitted at the next TCLK edge or dropped, and the next is head at once (R208). Whether one was late. -/
def takeHeads (bt : Nat) : Nat → Pin → Pin × Bool
  | 0, p => (p, false)
  | k + 1, p =>
    match p.eq with
    | [] => (p, false)
    | (t, v) :: r =>
      if tau0 t < bt + 8 then
        let p := { p with eq := r, late := satInc p.late, lateN := p.lateN + 1 }
        let p := if p.drop then p else { p with emit := some (bt + 8, v), lastTau := some t }
        ((takeHeads bt k p).1, true)
      else (p, false)

/-- The head check of pin n in EDGE. -/
def headCheck (s : State) (n : Nat) : State :=
  let r := takeHeads s.clk.bt 5 (s.pin n)
  if (s.pin n).fn = .edge then
    let s := s.setPin n r.1
    if r.2 then s.pinEvt 2 else s
  else s

/-- HANDOVER_TAKEOVER: the new function takes over at the start of rotation r + 3 (R193, R196, R197). -/
def execHandoverTakeover (n : Nat) (s : State) : Out :=
  let p := s.pin n
  .next (match p.ho with
    | some (r, safe) =>
      if s.pinRuns ∧ r ≤ s.pinRot ∧ !p.hoHeld then
        let s := s.setPin n (p.takeover s.clk.bt safe (bitAt (s.gout (n / 16)) (n % 16)) (bitAt (s.goe (n / 16)) (n % 16)))
        headCheck s n
      else s
    | none => s)

/-- The oldest entry still crossing joins the queue of pin n, or is discarded and counted (R206). -/
def joinEntry (s : State) (n : Nat) : State :=
  let p := s.pin n
  match p.eqX with
  | [] => s
  | (t, v) :: r =>
    let p := { p with eqX := r }
    let last := match p.eq.getLast? with | some e => some e.1 | none => p.lastTau
    if p.fsel ≠ 2 then s.setPin n (p.discard 1)
    else if (match last with | some l => decide (t.toNat < l.toNat + 24) | none => false) then
      s.setPin n { p with crowd := satInc p.crowd }
    else
      let s := s.setPin n { p with eq := p.eq ++ [(t, v)] }
      if p.eq = [] then headCheck s n else s

/-- The entries of depot d that entered its crossing before the oldest one of pin n join their queues first, then that one (R18); the entries left. -/
def crossUpTo (d n : Nat) : List (Nat × Nat) → State → State × List (Nat × Nat)
  | [], s => (joinEntry s n, [])
  | (e, m) :: l, s =>
    if e ≠ d then let r := crossUpTo d n l s; (r.1, (e, m) :: r.2)
    else if m = n then (joinEntry s n, l)
    else crossUpTo d n l (joinEntry s m)

/-- EDGE_ENTRY: the oldest entry of pin n crosses, in the order of its depot's crossing (R18, R206). -/
def execEdgeEntry (n : Nat) (s : State) : Out :=
  .next (if (s.pin n).eqX = [] ∨ !s.pinRuns then s else
    match s.pins.xord.find? (fun e => e.2 == n) with
    | none => joinEntry s n
    | some (d, _) =>
      let r := crossUpTo d n s.pins.xord s
      { r.1 with pins := { r.1.pins with xord := r.2 } })

/-- EDGE_APPLY: the time of the head entry has come (R207). -/
def execEdgeApply (n : Nat) (s : State) : Out :=
  let p := s.pin n
  .next (match p.eq with
    | [] => s
    | (t, v) :: r =>
      if p.fn = .edge ∧ tau0 t ≤ s.clk.bt ∧ s.pinRuns then
        s.setPin n { p.drive s.clk.bt v true with eq := r, lastTau := some t }
      else s)

/-! ### Electrical options and group writes -/

/-- PIN_ELEC[n] := v (R199, Table 7.8). -/
def writeElec (s : State) (ag : Agent) (n : Nat) (v : W32) : State :=
  let p := s.pin n
  if !s.pinWriter ag n then s
  else if bitAt v 6 ∧ p.fsel ≠ 0 ∧ p.fsel ≠ 8 then s.pinErr n 3
  else
    let thr := if fld v 0 2 = 3 then fld p.elec 0 2 else fld v 0 2
    let hyst := if fld v 2 2 = 3 then fld p.elec 2 2 else fld v 2 2
    let w : W32 := (v &&& 0xFFFF0370) ||| BitVec.ofNat 32 (thr + 4 * hyst)
    let blank := fld w 0 4 ≠ fld p.elec 0 4 ∨ bitAt w 6 ≠ bitAt p.elec 6
    let s' := s.setPin n { p with
      elec := w, blankBt := if blank then s.clk.bt + 128 else p.blankBt, held := if blank then bitAt (s.ginOf (n / 16)) (n % 16) else p.held
      chgBt := if bitAt w 6 ≠ bitAt p.elec 6 then s.clk.bt else p.chgBt }
    if blank then s'.sampled else s'

/-- PIN_ELEC_WRITE (R199). -/
def execPinElecWrite (ag : Agent) (n : Nat) (v : W32) (s : State) : Out := .next (writeElec s ag n v)

/-- The pins of group g that agent ag owns. -/
def State.agMask (s : State) (ag : Agent) (g : Nat) : Word :=
  (List.range 16).foldl (fun m b => if s.agOwnsPin ag (16 * g + b) then setBit m b else m) 0

/-- A write of the group write alias (R204): size is the log of the bytes of the access, 2 for 32 bits. -/
def groupWrite (s : State) (ag : Agent) (mask : Word) (size : BitVec 2) (v : W32) : State :=
  let g := fld v 24 6
  if !s.mayRead ag then s
  else if size ≠ 2 then (if isPm ag then s else s.pinEvt 5)
  else if s.nPin ≤ 16 * g then s
  else
    let m := mask &&& s.agMask ag g
    if bitAt v 31 then setGoe s g m (v.extractLsb' 0 16) else setGout s g m (v.extractLsb' 0 16)

/-- PIN_GW_WRITE (R204). -/
def execPinGwWrite (ag : Agent) (mask : Word) (size : BitVec 2) (v : W32) (s : State) : Out := .next (groupWrite s ag mask size v)

/-! ### Bit clocks, serializers, deserializers -/

/-- BCK_ENABLE: bit clock k runs from now (R211, R227). -/
def bckEnable (s : State) (ag : Agent) (k : Nat) : State :=
  let b := s.bck k
  if s.globalWriter ag && !s.inReset && decide (k < 32) && !b.en then s.setBck k { b with en := true, enBt := s.clk.bt } else s
def execBckEnable (ag : Agent) (k : Nat) (s : State) : Out := .next (bckEnable s ag k)

/-- One pin when bit clock k stops: SER drives its idle level, CLK holds, DES stops (R212). -/
def stopBckPin (s : State) (n : Nat) : State :=
  let p := s.pin n
  match p.fn with
  | .ser => s.setPin n { p.drive s.clk.bt (s.idleLevel p) true with serWord := none, wordJ := none }
  | .clk => s.setPin n (p.drive s.clk.bt (s.driven n) true)
  | .des => s.setPin n { p with wordJ := none }
  | _ => s

/-- BCK_DISABLE: bit clock k stops at once (R212). -/
def bckDisable (s : State) (ag : Agent) (k : Nat) : State :=
  if s.globalWriter ag && !s.inReset && decide (k < 32) && (s.bck k).en then
    let s := s.pins.pins.foldl (fun s e => if (s.pin e.1).bclk = k then stopBckPin s e.1 else s) s
    s.setBck k { s.bck k with en := false }
  else s
def execBckDisable (ag : Agent) (k : Nat) (s : State) : Out := .next (bckDisable s ag k)

/-- The word of bit clock b that stands at a boundary at BT bt: t_16j lies in the TCLK cycle that begins there, not before the clock or the function started, and the word is not taken yet (R211, R213). -/
def Pin.boundary (p : Pin) (b : Bck) (bt : Nat) : Option Nat :=
  let j := b.bit bt / 16
  let t := b.start (16 * j)
  if b.en ∧ t ≤ bt ∧ bt < t + 8 ∧ p.fromBt b ≤ t ∧ p.wordJ.getD 0 ≤ j then some j else none

/-- SER_WORD_BOUNDARY: at a word boundary the serializer of pin n takes the oldest word, or drives the idle level and counts a slip (R213). -/
def execSerWordBoundary (n : Nat) (s : State) : Out :=
  let p := s.pin n
  .next (match (if p.fn = .ser ∧ s.pinRuns then p.boundary (s.bck p.bclk) s.clk.bt else none) with
    | none => s
    | some j =>
      match p.serq with
      | w :: r =>
        s.setPin n { p.drive s.clk.bt (p.serBit w 0) true with
          serq := r, serOn := true, serWord := some w, lastBit := p.serBit w 15, wordJ := some (j + 1) }
      | [] =>
        let s' := s.setPin n { p.drive s.clk.bt (s.idleLevel p) true with
          serWord := none, slip := if p.serOn then satInc p.slip else p.slip, wordJ := some (j + 1) }
        if p.serOn then s'.pinEvt 7 else s')

/-- The first word of bit clock b whose boundary is at or after BT t (R214). -/
def Bck.wordFrom (b : Bck) (t : Nat) : Nat :=
  let j := b.bit t / 16
  if t ≤ b.start (16 * j) then j else j + 1

/-- The word that the deserializer of a pin on bit clock b completes next; none before its last sample at m_(16j + 15) (R211, R214). -/
def Pin.desDue (p : Pin) (b : Bck) (bt : Nat) : Option Nat :=
  let j := p.wordJ.getD (b.wordFrom (p.fromBt b))
  if b.en ∧ b.centre (16 * j + 15) ≤ bt then some j else none

/-- A word on the external clock pin, which must be digital (R214): it has no number that the manual gives. -/
def State.extClock (s : State) (n : Nat) : Bool := bitAt (s.pin n).func 23 && !(s.pin (16 * (n / 16) + fld (s.pin n).func 24 4)).ana

/-- The samples of a word of pin n in their order, each with its BT; a sample in the blanking window is the level held (R199, R211, R214). -/
def State.samples (s : State) (n : Nat) (w : Word) (j : Option Nat) : List (Bool × Nat) :=
  let p := s.pin n
  (List.range 16).map fun i =>
    let t := match j with | some j => (s.bck p.bclk).centre (16 * j + i) | none => s.clk.bt
    (if t < p.blankBt then p.held else bitAt w i, t)

/-- Sixteen samples as a word, in the order msb selects (R214). -/
def Pin.assemble (p : Pin) (bits : List (Bool × Nat)) : Word :=
  (List.range 16).foldl (fun v i => putBit v (if bitAt p.func 21 then 15 - i else i) ((bits[i]?.getD (false, 0)).1)) 0

/-- A word of pin n goes to the sink of its PIN_FUNC; number is its bit-clock word number (R215). -/
def desSink (s : State) (n : Nat) (w : Word) (number : W32) : State :=
  let p := s.pin n
  match p.sink with
  | 1 => if 4 ≤ p.desq.length then s.setPin n { p with slip := satInc p.slip, desLost := true }
         else s.setPin n { p with desq := p.desq ++ [w] }
  | 2 =>
    let r := s.pring p.ring
    if !r.en || r.records then s
    else ringPush (if r.cnt = 0 ∧ r.buf = [] then s.setPring p.ring { r with first := number } else s) p.ring [w]
  | _ => s

/-- Streams that share a link, as the letters code them (Table 11.9). -/
def linkWidth (o : W32) : Nat := if fld o 16 2 = 1 then 4 else if fld o 16 2 = 2 then 8 else 1
/-- Pin and bit position of stream j of a group on the link o: bit i of a link belongs to stream i mod w, and a group that one link cannot hold goes on at the next pin (R285). -/
def linkAt (o : W32) (j : Nat) : Nat × Nat :=
  let i := fld o 20 3 + j
  (fld o 0 10 + i / linkWidth o, i % linkWidth o)

/-- Runs of equal bits of the w streams of a link after the samples of a word (R285). -/
def tally (w : Nat) (r : List (Bool × Nat)) (bits : List Bool) : List (Bool × Nat) :=
  bits.zipIdx.foldl (fun r b =>
    let e := r[b.2 % w]?.getD (b.1, 0)
    r.set (b.2 % w) (b.1, if e.1 = b.1 then e.2 + 1 else 1)) (r ++ List.replicate (w - r.length) (false, 0))

/-- The streams that a link on pin n carries for the channels; none where n is no sense pin. -/
def State.senseWidth (s : State) (n : Nat) : Option Nat :=
  s.sheow.chans.findSome? fun e => match e.2.pins with
    | some p => if (List.range 4).any fun j => (linkAt p.sense j).1 == n then some (linkWidth p.sense) else none
    | none => none

/-- The decimator takes the samples of a word of pin n, where n is a sense link (R285, R297). -/
def senseWord (s : State) (n : Nat) (bits : List (Bool × Nat)) : State :=
  match s.senseWidth n with
  | some w => { s with sheow := { s.sheow with runs := s.sheow.runs.set n (tally w (s.sheow.runs.get n []) (bits.map (·.1))) [] } }
  | none => s

/-- DES_WORD: the deserializer of pin n completes the word whose samples are the bits of w, first sample in bit 0 (R214, R215); the tracker that names the pin takes every sample (R216). -/
def execDesWord (n : Nat) (w : Word) (s : State) : Out :=
  let p := s.pin n
  .next (if p.fn ≠ .des ∨ !s.pinRuns then s
    else if bitAt p.func 23 then
      if s.extClock n then
        let bits := s.samples n w none
        desSink (feedTrackers (senseWord s.tick1 n bits) n bits) n (p.assemble bits) (Config.word32 s.free)
      else s
    else match p.desDue (s.bck p.bclk) s.clk.bt with
      | none => s
      | some j =>
        let bits := s.samples n w (some j)
        desSink (feedTrackers (senseWord (s.setPin n { p with wordJ := some (j + 1) }) n bits) n bits) n (p.assemble bits) (BitVec.ofNat 32 j))

/-! ### Captures, patterns, mismatch, rings -/

/-- The last word of an edge record: the new level and the pin (Table 7.5). -/
def edgeWord (n : Nat) (v : Bool) : Word := BitVec.ofNat 16 (b2n v * 32768 + n)

/-- An edge record of pin n at BT t with level v enters the buffer of ring k (Table 7.5, R219); its number stays with the pin. -/
def ringRecord (s : State) (k n : Nat) (t : Nat) (v : Bool) : State :=
  let r := s.pring k
  if !r.en || !r.records then s
  else
    let s := s.setPin n { s.pin n with capRec := r.cnt.toNat + r.buf.length / 4 }
    ringPush s k [BitVec.ofNat 16 t, BitVec.ofNat 16 (t / 65536), BitVec.ofNat 16 (t / 2 ^ 32), edgeWord n v]

/-- The level of the pin's last record is replaced, in the buffer or in the ring: an edge merged with the one before it (R221). -/
def amendRecord (s : State) (k n : Nat) (v : Bool) : State :=
  let r := s.pring k
  let i := (s.pin n).capRec
  let a := r.base.toNat + 8 + 4 * (i % (r.len / 4)) + 3
  let put (s : State) : State := if s.bankOn a then (xwrite1 (s.atPoint pinCode a) a (edgeWord n v) 0 0).1 else s
  if !r.en || !r.records then s
  else if i < r.cnt.toNat then (if r.cnt.toNat ≤ i + r.len / 4 then put s else s)
  else
    let s' := s.setPring k { r with buf := setAt r.buf (4 * (i - r.cnt.toNat) + 3) (edgeWord n v) }
    if i = r.cnt.toNat ∧ r.stage = 3 then put s' else s'

/-- CAPTURE_EDGE: the synchronised level of pin n changed at this edge (R221). -/
def execCaptureEdge (n : Nat) (level : Bool) (s : State) : Out :=
  let p := s.pin n
  let near := match p.capBt with | some c => decide (s.clk.bt < c + 128) | none => false
  let want := if level then p.edges % 2 == 1 else decide (2 ≤ p.edges)
  .next (if p.fn ≠ .capture ∨ !s.pinRuns ∨ s.clk.bt < p.blankBt then s
    else if near then (amendRecord s p.ring n level).setPin n { p with capBt := some s.clk.bt }
    else if want then (ringRecord s p.ring n (s.clk.bt - 16) level).setPin n { p with capBt := some s.clk.bt }
    else s)

/-- The group levels as a pattern unit sees them: a blanked pin gives the level sampled before (R199). -/
def State.seen (s : State) (g : Nat) (levels : Word) : Word :=
  (List.range 16).foldl (fun v b => if s.clk.bt < (s.pin (16 * g + b)).blankBt then putBit v b (s.pin (16 * g + b)).held else v) levels

/-- The comparison of a unit can have stood unbroken for the dwell since its last event or its configuration; after an event of the same kind it broke for an edge (R222). -/
def Pat.dwelt (q : Pat) (leave : Bool) (bt : Nat) : Bool :=
  decide (q.since + fld q.cfg 0 16 * 9600 + (if q.last = some leave then 8 else 0) ≤ bt)

/-- PATTERN_EVENT: the dwell of unit u expires with the group at the given levels (R222, R223); a counted event with wake is a wake source. -/
def execPatternEvent (u : Nat) (leave : Bool) (levels : Word) (s : State) : Out :=
  let q := s.pins.pats.get u {}
  let levels := s.seen (fld q.cfg 22 6) levels
  let mode := fld q.cfg 28 2
  let holds := (levels ^^^ q.mp.extractLsb' 0 16) &&& q.mp.extractLsb' 16 16 == 0
  let counted := if leave then decide (2 ≤ mode) else mode % 2 == 1
  let ev := if leave then 2 else 1
  let bt := s.bt64
  .next (if counted ∧ u < 32 ∧ 16 * fld q.cfg 22 6 < s.nPin ∧ holds ≠ leave ∧ q.dwelt leave s.clk.bt ∧ !s.inReset then
    let q' := { q with t := bt, since := s.clk.bt, last := some leave }
    let s := { s with pins := { s.pins with pmEvt := setBit s.pins.pmEvt u, pats := s.pins.pats.set u q' {} } }
    let s := if bitAt q.cfg 30 then s.wakeSrc 0 else s
    sendUnit s 1 q.ch [BitVec.ofNat 16 (0x8000 + u * 16 + ev), levels, bt.extractLsb' 16 16, bt.extractLsb' 0 16]
  else s)

/-- PIN_MISMATCH: the pad of driven pin n differs from the driven level past the settle time (R203). -/
def execPinMismatch (n : Nat) (s : State) : Out :=
  let p := s.pin n
  .next (if n < s.nPin ∧ p.padOe ∧ s.lastChange n + 8 * s.pins.mmSettle.toNat ≤ s.clk.bt ∧ !s.inReset then
    { s with pins := { s.pins with mm := s.pins.mm.set (n / 16) (setBit (s.mmOf (n / 16)) (n % 16)) 0 } }
  else s)

/-- Ring k stops or starts anew: what it holds and has at the sorter goes. -/
def ringClear (s : State) (k : Nat) (cfg : W32) : State :=
  let s := s.setPring k { s.pring k with cfg := cfg, buf := [], stage := 0 }
  { s with srt := { s.srt with reqs := s.srt.reqs.filter fun r => r.op != .ring k } }

/-- PIN_RING_CFG[k] := v with en 1 (R218): refused outside the rules; the header is written and the count starts. -/
def pinRingEnable (s : State) (ag : Agent) (k : Nat) (v : W32) : State :=
  let r := s.pring k
  if !(s.globalWriter ag) || s.inReset || decide (16 ≤ k) then s
  else if !ringOk v r.base.toNat then s.pinErr 0 7
  else
    let c := (v &&& 0x1F) ||| 0x80000000
    if r.en then s.setPring k { r with cfg := c }
    else
      let s := ringClear s k c
      let s := s.setPring k { s.pring k with cnt := 0 }
      if s.ringOff k then (s.setPring k { s.pring k with cfg := clrBit c 31 }).pinEvt 4
      else xputs s pinCode 0 r.base.toNat (List.replicate 8 0)
def execPinRingEnable (ag : Agent) (k : Nat) (v : W32) (s : State) : Out := .next (pinRingEnable s ag k v)

end Sys2Proof.Machine
end

