-- ==== Sys2Proof/Machine/Admit.lean ====
section
/-! DEFINITION. Parameter records and the admission check of zone threads (R279, R328, Tables 9.2, 9.4, 10.2, 10.4, 10.6, 11.6). -/
namespace Sys2Proof.Machine

/-- The record value that means mute (Table 11.6). -/
def muteVal : Int := -0x800000

/-- Range, default and mute of a parameter record (Tables 9.2, 10.2, 10.4, 10.6, 11.6); no default where the host must give the value. -/
structure ParamRow where
  lo : Int
  hi : Int
  dflt : Option Int
  mute : Bool := false
deriving DecidableEq, Repr

def paramRow : Nat → Option ParamRow
  | 0x01 => some ⟨1, 8, some 4, false⟩
  | 0x02 => some ⟨-120, 24, some 0, true⟩
  | 0x03 => some ⟨-60, 24, some 0, false⟩
  | 0x04 => some ⟨1, 15, some 8, false⟩
  | 0x05 => some ⟨-120, 0, some (-40), true⟩
  | 0x06 => some ⟨0, 4800, some 240, false⟩
  | 0x07 => some ⟨0, 0x7FFFFF, some 0, false⟩
  | 0x08 => some ⟨-180, 0, some (-120), false⟩
  | 0x09 => some ⟨0, 16, some 4, false⟩
  | 0x0A => some ⟨0, 40, some 20, false⟩
  | 0x0B => some ⟨1, 100, some 10, false⟩
  | 0x0C => some ⟨1, 100, some 30, false⟩
  | 0x0D => some ⟨-120, 0, some (-60), false⟩
  | 0x0E => some ⟨0, 96000, some 0, false⟩
  | 0x0F => some ⟨10, 1000, some 50, false⟩
  | 0x20 => some ⟨4, 16, some 8, false⟩
  | 0x21 => some ⟨24, 960, some 96, false⟩
  | 0x22 => some ⟨24, 960, some 48, false⟩
  | 0x23 => some ⟨800, 980, some 950, false⟩
  | 0x24 => some ⟨100, 2000, some 1414, false⟩
  | 0x25 => some ⟨21500, 22500, some 22000, false⟩
  | 0x26 => some ⟨-100, -60, some (-80), false⟩
  | 0x27 => some ⟨0, 1, some 0, false⟩
  | 0x28 => some ⟨100, 20000, none, false⟩
  | 0x29 => some ⟨0, 40, some 24, false⟩
  | 0x2A => some ⟨0, 5, some 3, false⟩
  | 0x2B => some ⟨50, 2000, some 200, false⟩
  | 0x30 => some ⟨10, 50, some 30, false⟩
  | 0x31 => some ⟨200, 1000, some 500, false⟩
  | 0x32 => some ⟨20, 80, some 50, false⟩
  | 0x33 => some ⟨10, 500, some 50, false⟩
  | 0x34 => some ⟨15, 100, some 20, false⟩
  | 0x35 => some ⟨5, 50, some 15, false⟩
  | 0x36 => some ⟨5, 50, some 20, false⟩
  | 0x37 => some ⟨1000, 7640, some 7000, false⟩
  | 0x38 => some ⟨5, 50, some 20, false⟩
  | 0x40 => some ⟨0, 2, none, false⟩
  | 0x41 => some ⟨50000, 200000, some 100000, false⟩
  | 0x42 => some ⟨1000, 4500, none, false⟩
  | 0x43 => some ⟨100, 40000, none, false⟩
  | 0x44 => some ⟨100, 150, some 130, false⟩
  | 0x45 => some ⟨80, 98, some 92, false⟩
  | 0x46 => some ⟨1, 60, some 5, false⟩
  | 0x47 => some ⟨0, 24, some 0, false⟩
  | 0x48 => some ⟨1, 15, some 8, false⟩
  | 0x60 => some ⟨1, 10000, some 100, false⟩
  | 0x61 => some ⟨1, 100, some 10, false⟩
  | _ => none

/-- A record of a letter that takes the ids lo to hi is allowed and in range (R328). The bits of ang that Table 11.6 gives no meaning are 0; pilot_f is a multiple of 125. -/
def recOk (lo hi : Nat) (w : W32) : Bool :=
  let id := recId w
  let v := recVal w
  decide (lo ≤ id ∧ id ≤ hi) &&
  (match paramRow id with
   | some r => decide (r.lo ≤ v ∧ v ≤ r.hi) || (r.mute && v == muteVal)
   | none => false) &&
  (id != 7 || (v.toNat / 4 % 4 == 0 && v.toNat / 32768 % 2 == 0 && v.toNat / 524288 == 0)) &&
  (id != 0x25 || v % 125 == 0)

/-- Index of the first record of ws that is not allowed. -/
def badRec (lo hi : Nat) (ws : List W32) : Option Nat := ws.findIdx? fun w => !recOk lo hi w

/-- A value no record can hold: the parameter was never sent. -/
def unsent : Int := -0x1000000

/-- A parameter: as sent, else its default; a parameter the host must give and has not given is a free value. -/
def param (m : SMap Int) (id : Nat) : Int :=
  let v := m.get id unsent
  if v = unsent then
    match paramRow id with
    | some ⟨_, _, some d, _⟩ => d
    | _ => Config.hostParam id
  else v

/-- The records of a letter take effect together (R328). -/
def setRecs (m : SMap Int) (ws : List W32) : SMap Int := ws.foldl (fun m w => SMap.set m (recId w) (recVal w) unsent) m

/-! ### Zones -/

def State.zone (s : State) (z : Nat) : Zone := s.sheow.zones.get z {}
def State.setZone (s : State) (z : Nat) (x : Zone) : State := { s with sheow := { s.sheow with zones := s.sheow.zones.set z x {} } }
def Zone.par (x : Zone) (id : Nat) : Int := param x.params id
def Zone.slot (x : Zone) (i : Nat) : Slot := x.slots.get i {}
def Zone.setSlot (x : Zone) (i : Nat) (v : Slot) : Zone := { x with slots := x.slots.set i v {} }
/-- Route slots of the zone (R260). -/
def Zone.nSlots (x : Zone) : Nat := (x.par 1).toNat
/-- ANG is on for the zone. -/
def Zone.angOn (x : Zone) : Bool := x.par 7 % 2 == 1
/-- The delay d of R272. -/
def Zone.delay (x : Zone) : Nat := (x.par 0x0E).toNat
/-- The zone has an evacuation-map entry: it is on the alarm path (R282). -/
def Zone.onAlarmPath (x : Zone) : Bool := x.evac != 0
/-- A slot is routed and has a source. -/
def Slot.used (v : Slot) : Bool := v.route.src != .none
/-- Some route slot of the zone is active. -/
def Zone.anyActive (x : Zone) : Bool := x.slots.any fun e => e.2.used
/-- A route slot of the zone is at priority 15. -/
def Zone.at15 (x : Zone) : Bool := x.slots.any fun e => e.2.used && e.2.route.prio == 15
/-- P of the routes as written: the highest priority among active slots. -/
def Zone.prio (x : Zone) : Nat := x.slots.foldl (fun m e => if e.2.used then Nat.max m e.2.route.prio else m) 0

def State.zth (s : State) (i : Nat) : ZThread := s.sheow.zthreads.get i {}
def State.setZth (s : State) (i : Nat) (x : ZThread) : State := { s with sheow := { s.sheow with zthreads := s.sheow.zthreads.set i x {} } }

/-! ### Admission (R279) -/

/-- X: the worst issue delay of one exchange access of depot d in rotations, less 3, by the bound of R186 with the live settings: every requester above presents, and two cycles of emergency accesses. None while FCLK is stopped. -/
def State.issueDelay (s : State) (d : Nat) : Option Nat :=
  if s.clk.fHz = 0 then none else
  let l := Nat.max 1 (s.srt.wlim.get d 0x10).toNat
  let q := 43 - s.inputOf d
  let b := (l + q + 1) * (32 / 2 ^ s.srt.bmax.toNat) + 2
  let a := b + b / 16 + 1
  let path := 3 + ((a + 5) * s.clk.eHz + s.clk.fHz - 1) / s.clk.fHz
  some ((9 + path + 7) / 8 - 3)

/-- zcost of a zone (R279). -/
def Zone.cost (x : Zone) : Nat :=
  let w := (x.eq.filter (·.wide)).length
  142 + 20 * b2n x.angOn + 11 * (x.eq.length - w) + 16 * w

/-- R279 holds for zones xs on one thread of depot d. -/
def State.admits (s : State) (d : Nat) (xs : List Zone) : Bool :=
  match s.issueDelay d with
  | none => false
  | some x =>
    let nom := 110 + (xs.map fun z => z.cost + 24 * z.nSlots).sum
    let evac := 110 + (xs.map fun z => z.cost + 24).sum
    decide (100 * nom * 384000 ≤ 96 * s.clk.eHz ∧ (evac + (xs.length + 10) * x) * 384000 ≤ s.clk.eHz)

/-- Rotations by which R279 fails for zones xs on a thread of depot d. -/
def State.admitShort (s : State) (d : Nat) (xs : List Zone) : Nat :=
  let rp := s.clk.eHz / 384000
  let nom := 110 + (xs.map fun z => z.cost + 24 * z.nSlots).sum
  let evac := 110 + (xs.map fun z => z.cost + 24).sum + (xs.length + 10) * (s.issueDelay d).getD 0
  Nat.max (nom - 96 * rp / 100) (evac - rp)

/-- Sheow repeats the checks of R279 and reports each thread for which they newly fail (DEVENT kind 5, its tid in b1). -/
def readmit (s : State) : State :=
  if !s.shUp then s else
  s.sheow.zthreads.foldl (fun s e =>
    let ok := s.admits (depOf e.2.tid) (e.2.zones.map s.zone)
    let s' := s.setZth e.1 { s.zth e.1 with lost := !ok }
    if ok || e.2.lost then s' else devent s' (depOf e.2.tid) 5 (e.2.tid.setWidth 32)) s

end Sys2Proof.Machine
end

