-- ==== Sys2Proof/Machine/ZoneRep.lean ====
section
/-! DEFINITION. What Sheow reports of the zone service: EVAC, SWITCH and SEVENT (R26 to R28, R277, R330, Table 11.8). -/
namespace Sys2Proof.Machine

/-- The lanes of an outbound stream: its lane, and the other lane of its pair under PRP. -/
def StreamOut.lanes (x : StreamOut) : List Nat := if x.prp then [x.lane / 2 * 2, x.lane / 2 * 2 + 1] else [x.lane]

/-- Zones served by outbound streams whose lanes are all down (R28), each once. -/
def State.unreachable (s : State) : List Nat :=
  let zs := s.sheow.streamsOut.flatMap fun e => match e.2 with
    | some x => if x.lanes.any fun l => (s.lan.lanes.get l {}).link then [] else x.zones
    | none => []
  zs.eraseDups

/-- Numbers, two per word in [9:0] and [25:16]. -/
def pairWords : List Nat → List W32
  | a :: b :: r => BitVec.ofNat 32 (a + b * 65536) :: pairWords r
  | [a] => [BitVec.ofNat 32 a]
  | [] => []

/-- The body of an EVAC event (Table 11.8): evacuation is active while an alarm runs or a zone is at priority 15. -/
def State.evacBody (s : State) : List W32 :=
  let n15 := (s.sheow.zones.filter fun e => e.2.at15).length
  let sw := (s.sheow.zones.filter fun e => e.2.switched.isSome).length
  let un := s.unreachable
  [BitVec.ofNat 32 (b2n (s.sheow.alarm || n15 != 0)), BitVec.ofNat 32 n15, BitVec.ofNat 32 sw, BitVec.ofNat 32 un.length] ++ pairWords un

/-- The bodies of the letters that carry it: the zone numbers a letter of 256 words has no room for go in further ones with the same counts (R319). -/
def evacPieces (b : List W32) : List (List W32) :=
  let rest := b.drop 4
  (List.range (Nat.max 1 ((rest.length + 251) / 252))).map fun i => b.take 4 ++ (rest.drop (252 * i)).take 252

/-- EVAC on LB2, on every change (R330); the report before the first is all 0. -/
def evacReport (s : State) : State :=
  let b := s.evacBody
  if !s.shUp || b == (if s.sheow.evacSent = [] then [0, 0, 0, 0] else s.sheow.evacSent) then s
  else (evacPieces b).foldl (fun s p => eventOn s 2 4 0x80 p) { s with sheow := { s.sheow with evacSent := b } }

/-- The 29-bit PMK3 cycle in a report. -/
def State.pmk3Cycle (s : State) : Nat := s.posAt 3 s.clk.bt / 65536

/-- The stream a zone's priority-15 slot is on. -/
def Zone.stream15 (x : Zone) : Option Nat :=
  (x.slots.find? fun e => e.2.live.prio == 15 && e.2.live.src != .none).bind fun e => match e.2.live.src with
    | .stream id _ => some id
    | _ => none

/-- Zones switched from stream id and not yet reported. -/
def State.freshSwitches (s : State) (id : Nat) : List (Nat × Zone) :=
  s.sheow.zones.filter fun e => e.2.switched.isSome && !e.2.swReported && e.2.stream15 == some id

/-- SWITCH on LB2 for each stream that zones have left (R26); NO_MESSAGE in the log for a zone without a message (R27). -/
def switchReport (s : State) : State :=
  s.sheow.streamsIn.foldl (fun s e =>
    let zs := s.freshSwitches e.1
    if zs = [] then s else
    let c := ((zs.headD (0, {})).2.switched.getD (0, 0)).2
    let s := zs.foldl (fun s z =>
      let s := if (z.2.switched.getD (0, 0)).1 = 0 then logRec s (dlEntry s 8 2 0 [] z.1) else s
      s.setZone z.1 { s.zone z.1 with swReported := true }) s
    eventOn s 2 4 0x81 [BitVec.ofNat 32 e.1, BitVec.ofNat 32 c, BitVec.ofNat 32 zs.length]) s

/-- SEVENT for each stream that fell silent or returned (R277, R330); a return goes to LB2. -/
def streamReport (s : State) : State :=
  s.sheow.streamsIn.foldl (fun s e => match e.2 with
    | some x =>
      if x.silent = x.silReported then s else
      let s := { s with sheow := { s.sheow with streamsIn := s.sheow.streamsIn.set e.1 (some { x with silReported := x.silent }) none } }
      let body := [BitVec.ofNat 32 (e.1 + b2n x.silent * 65536), BitVec.ofNat 32 s.pmk3Cycle]
      if x.silent then sendEvent s 5 0x80 body else eventOn s 2 5 0x80 body
    | none => s) s

/-- Everything the zone service has to report now. -/
def zoneReports (s : State) : State := if s.shUp then evacReport (streamReport (switchReport s)) else s

end Sys2Proof.Machine
end

