-- ==== Sys2Proof/Machine/LaneEv.lean ====
section
/-! DEFINITION. Lanes: reception, the classifier, flow rings, transmit queues, PRP, link and lane states (R228 to R252, R436). -/
namespace Sys2Proof.Machine

def State.lane (s : State) (l : Nat) : Lane := s.lan.lanes.get l {}
def State.setLane (s : State) (l : Nat) (x : Lane) : State := { s with lan := { s.lan with lanes := s.lan.lanes.set l x {} } }
def State.fring (s : State) (k : Nat) : FRing := s.lan.rings.get k {}
def State.setFring (s : State) (k : Nat) (r : FRing) : State := { s with lan := { s.lan with rings := s.lan.rings.set k r {} } }
def State.prp (s : State) (p : Nat) : Prp := s.lan.prps.get p {}
def State.setPrp (s : State) (p : Nat) (x : Prp) : State := { s with lan := { s.lan with prps := s.lan.prps.set p x {} } }

/-- Set event bit b of lane l. -/
def State.laneEvt (s : State) (l b : Nat) : State := s.setLane l { s.lane l with evt := setBit (s.lane l).evt b }
/-- Count c of lane l, saturating (Table 8.6). -/
def State.laneCnt (s : State) (l c : Nat) : State :=
  s.setLane l { s.lane l with cnt := (s.lane l).cnt.set c (satInc ((s.lane l).cnt.get c 0)) 0 }

/-- Lane l is there, powered, out of reset and the block not in Hold. -/
def State.laneOn (s : State) (l : Nat) : Bool :=
  decide (l < s.nLane) && bitAt s.pwr.lanePow l && !(s.lane l).rst && s.pinRuns

/-- The lane is OFF as Tables 8.6 and 8.7 use it. -/
def State.laneIsOff (s : State) (l : Nat) : Bool := (s.lane l).state == .off

/-! ### Frames -/

/-- Byte i of a frame; 0 past its end. -/
def byteAt (bs : List Byte) (i : Nat) : Nat := (bs[i]?.getD 0).toNat
/-- n bytes from offset o, the first most significant. -/
def beBytes (bs : List Byte) (o n : Nat) : Nat := (List.range n).foldl (fun v i => v * 256 + byteAt bs (o + i)) 0

/-- A first tag (TPID 0x8100 or 0x88A8, Table 8.1). -/
def tagged (bs : List Byte) : Bool := beBytes bs 12 2 == 0x8100 || beBytes bs 12 2 == 0x88A8
def tagVid (bs : List Byte) : Nat := beBytes bs 14 2 % 4096
/-- The EtherType after any first tag, and where the payload starts. -/
def typeOff (bs : List Byte) : Nat := if tagged bs then 16 else 12
def etherType (bs : List Byte) : Nat := beBytes bs (typeOff bs) 2
def payload (bs : List Byte) : Nat := typeOff bs + 2

/-- The ones-complement sum of an IPv4 header is all ones. -/
def ipSumOk (bs : List Byte) (o : Nat) : Bool :=
  let n := byteAt bs o % 16 * 2
  let v := ((List.range n).map fun i => beBytes bs (o + 2 * i) 2).sum
  let f (x : Nat) : Nat := x % 65536 + x / 65536
  f (f v) == 65535

/-- The offset of the UDP header of an unfragmented IPv4 packet with a good header (R233). -/
def udp4Off (bs : List Byte) : Option Nat :=
  let o := payload bs
  if etherType bs = 0x0800 ∧ byteAt bs o / 16 = 4 ∧ 5 ≤ byteAt bs o % 16 ∧ beBytes bs (o + 6) 2 % 16384 = 0 ∧ byteAt bs (o + 9) = 17 ∧ ipSumOk bs o
  then some (o + byteAt bs o % 16 * 4) else none

/-- The offset of the UDP header of an IPv6 packet without extension header. -/
def udp6Off (bs : List Byte) : Option Nat :=
  let o := payload bs
  if etherType bs = 0x86DD ∧ byteAt bs o / 16 = 6 ∧ byteAt bs (o + 6) = 17 then some (o + 40) else none

/-- The offset of a PTP header and its transport: 0 Layer 2, 1 UDP/IPv4, 2 UDP/IPv6 (R233). -/
def ptpHeader (bs : List Byte) : Option (Nat × Nat) :=
  let port (u : Nat) : Bool := beBytes bs (u + 2) 2 == 319 || beBytes bs (u + 2) 2 == 320
  if etherType bs = 0x88F7 then some (payload bs, 0)
  else match udp4Off bs with
    | some u => if port u then some (u + 8, 1) else none
    | none => match udp6Off bs with
      | some u => if port u then some (u + 8, 2) else none
      | none => none

/-- The key of a flow entry equals the key extracted from the frame (R233, Tables 8.8, 8.9). -/
def keyMatch (f : Flow) (bs : List Byte) : Bool :=
  let o := payload bs
  match fld f.w0 28 3 with
  | 0 => beBytes bs 0 6 == fld f.w2 0 16 * 2 ^ 32 + f.w1.toNat && etherType bs == fld f.w2 16 16
  | 1 => match udp4Off bs with
    | some u => beBytes bs (o + 16) 4 == f.w1.toNat && beBytes bs (u + 2) 2 == fld f.w2 0 16
    | none => false
  | 2 => match udp6Off bs with
    | some u =>
      (Nat.xor (Nat.xor (beBytes bs (o + 24) 4) (beBytes bs (o + 28) 4)) (Nat.xor (beBytes bs (o + 32) 4) (beBytes bs (o + 36) 4))) == f.w1.toNat
        && beBytes bs (u + 2) 2 == fld f.w2 0 16
    | none => false
  | 3 => etherType bs == 0x22F0 && byteAt bs o == 2 && beBytes bs (o + 4) 8 == f.w2.toNat * 2 ^ 32 + f.w1.toNat
  | 4 => match ptpHeader bs with
    | some (h, tr) => (fld f.w2 8 2 == 3 || fld f.w2 8 2 == tr) && byteAt bs (h + 4) == fld f.w2 0 8
    | none => false
  | _ => false

/-- An enabled entry matches a frame from lane l (R234). -/
def flowMatch (f : Flow) (l : Nat) (bs : List Byte) : Bool :=
  bitAt f.w0 31 && bitAt f.w0 (20 + l) && (!bitAt f.w0 19 || (tagged bs && tagVid bs == fld f.w0 0 12)) && keyMatch f bs

/-- The matching entry of lowest index (R234); the classifier sees the first 128 bytes. -/
def State.classify (s : State) (l : Nat) (bs : List Byte) : Option (Nat × Flow) :=
  s.lan.flows.find? fun e => flowMatch e.2 l (bs.take 128)

/-! ### PRP reception (R247 to R249) -/

/-- The redundancy trailer before the FCS: sequence number and LanId, where its suffix and LSDU size are right (R248). -/
def prpTrailer (bs : List Byte) : Option (Word × Nat) :=
  let n := bs.length - 10
  let lsdu := bs.length - 4 - payload bs
  if beBytes bs (n + 4) 2 = 0x88FB ∧ beBytes bs (n + 2) 2 % 4096 = lsdu then
    some (BitVec.ofNat 16 (beBytes bs n 2), beBytes bs (n + 2) 2 / 4096) else none

/-- What duplicate discard says of a frame. -/
inductive DupOut
  | deliver
  | dup
deriving DecidableEq, Repr

/-- The numbers seen once q, which is not among them, is taken: the window ends with the latest number, and one from outside it starts a new window (R248). -/
def PrpSrc.take (e : PrpSrc) (q : Word) : List Word :=
  match e.seen with
  | [] => [q]
  | h :: r =>
    if (q - h).toNat < 32768 then q :: e.seen.filter fun x => decide ((q - x).toNat < 128)
    else if (h - q).toNat < 128 then h :: q :: r else [q]

/-- Duplicate discard of a frame with sequence number q from source mac on pair p (R248). -/
def dupCheck (s : State) (p : Nat) (mac : BitVec 48) (q : Word) : State × DupOut :=
  let x := s.prp p
  match x.srcs.find? (fun e => e.mac == mac) with
  | some e =>
    let put (e' : PrpSrc) : List PrpSrc := x.srcs.map fun y => if y.mac = mac then e' else y
    if e.seen.contains q then
      (s.setPrp p { x with dup := satInc x.dup, srcs := put { e with last := s.clk.bt } }, .dup)
    else (s.setPrp p { x with srcs := put { e with seen := e.take q, last := s.clk.bt } }, .deliver)
  | none =>
    if 256 ≤ x.srcs.length then (s.setPrp p { x with miss := satInc x.miss }, .deliver)
    else (s.setPrp p { x with srcs := x.srcs ++ [{ mac := mac, seen := [q], last := s.clk.bt }] }, .deliver)

/-! ### Flow rings (R236 to R242) -/

/-- Slots, slot bytes and total words of a ring configuration. -/
def frSlots (v : W32) : Nat := 2 ^ fld v 16 4
def frSlotBytes (v : W32) : Nat := 256 * 2 ^ fld v 20 3
def frWords (v : W32) : Nat := 64 + 8 * frSlots v + frSlots v * frSlotBytes v / 2

/-- The rules of R237. -/
def frOk (v : W32) (b : Nat) : Bool :=
  b % 64 == 0 && decide (3 ≤ fld v 16 4 ∧ fld v 16 4 ≤ 10 ∧ fld v 20 3 ≤ 6) && bankOf b == bankOf (b + frWords v - 1)

/-- The 64-bit timestamp in BT or PTP format: the PTP time of the same instant (R231). -/
def State.stamp (s : State) (ptp : Bool) (t : Nat) : W64 :=
  if ptp then BitVec.ofNat 32 (s.ptpOf t / ptpSec) ++ BitVec.ofNat 32 (s.ptpOf t % ptpSec / ptpNs) else BitVec.ofNat 64 t

/-- Frame bytes as words, byte 2w in bits [7:0], padded with zero words to a multiple of 8 (R239). -/
def frameWords (bs : List Byte) : List Word :=
  (List.range ((bs.length + 15) / 16 * 8)).map fun i => (bs[2 * i + 1]?.getD 0) ++ (bs[2 * i]?.getD 0)

/-- The writer of ring k takes frames of lane l: the lane named, or its pair when PRP is enabled there (R236). -/
def State.ringTakes (s : State) (r : FRing) (l : Nat) : Bool :=
  let w := fld r.cfg 26 3
  w == l || (w / 2 == l / 2 && (s.prp (w / 2)).en)

/-- The lane whose sorter input carries the ring writes of lane l: the even one of an enabled PRP pair (R236). -/
def State.ringLane (s : State) (l : Nat) : Nat := if (s.prp (l / 2)).en then l / 2 * 2 else l

/-- The identity of the lanes (R338). -/
def laneId : BitVec 13 := 0x1030

/-- A refused ring write: en clears, ring_err (R242). -/
def fringErr (s : State) (k l : Nat) : State :=
  (s.setFring k { s.fring k with cfg := clrBit (s.fring k).cfg 31 }).laneEvt l 4

/-- A frame no ring takes (R236, R242). -/
def misroute (s : State) (l : Nat) : State := (s.laneCnt l 10).laneEvt l 6

/-- Deliver frame bytes into ring k: data, descriptor, count, notification (R237 to R241); a masked input takes none of the writes (R181, R236, R252). st is the status before truncation, idx the entry. -/
def deliverFrame (s : State) (l k idx st : Nat) (bs data : List Byte) (ts : Nat) : State :=
  let r := s.fring k
  let b := r.base.toNat
  let li := s.ringLane l
  let c := laneCode li
  if !bitAt r.cfg 31 || !s.ringTakes r l then misroute s l
  else if !s.laneOn li then s
  else if !s.bankOn b then fringErr s k l
  else
    let n := frSlots r.cfg
    let sz := frSlotBytes r.cfg
    let h := if bitAt r.cfg 30 then xtake32 s c laneId (b + 2) else (s, 0)
    if bitAt r.cfg 30 ∧ (r.cnt - h.2).toNat = n then h.1.setFring k { r with lost := satInc r.lost }
    else
      let i := r.cnt.toNat % n
      let kept := data.take sz
      let st := if st = 0 ∧ sz < data.length then 3 else st
      let d0 : W32 := BitVec.ofNat 32 (st * 2 ^ 28 + l * 2 ^ 25 + b2n (tagged bs) * 2 ^ 24 + kept.length)
      let d1 : W32 := BitVec.ofNat 32 (r.cnt.toNat % 65536 * 65536 + idx)
      let m := r.cnt + 1
      let s := xstream h.1 c laneId (b + 64 + 8 * n + i * (sz / 2)) (frameWords kept)
      let s := xputs s c laneId (b + 64 + 8 * i) (words32 d0 ++ words32 d1 ++ words64 (s.stamp (bitAt r.cfg 29) ts))
      let s := (xputs s c laneId b (words32 m)).setFring k { r with cnt := m }
      if m.toNat % 2 ^ fld r.ch 0 4 = 0 then sendUnit s (2 + li) r.ch [BitVec.ofNat 16 (0xA000 + k), m.extractLsb' 0 16] else s

/-- A PAUSE frame (Annex 31B): MAC Control with opcode 1. -/
def isPause (bs : List Byte) : Bool := beBytes bs 12 2 == 0x8808 && beBytes bs 14 2 == 1

/-- A frame that ends its reception on lane l with length and FCS status st (0, 2 bad FCS, 4 too long): duplicate discard, classification, delivery (R233 to R249). -/
def acceptFrame (s : State) (l st : Nat) (f : RxFrame) : State :=
  let bs := f.bytes.take 9216
  let hit := s.classify l bs
  let pair := l / 2
  let isPtpFlow := match hit with | some (_, e) => fld e.w0 28 3 == 4 | none => false
  let tr := if (s.prp pair).en then prpTrailer bs else none
  let s := match tr with
    | some (_, id) => if id = (if l % 2 = 0 then 0xA else 0xB) then s else s.setPrp pair { s.prp pair with wrong := satInc (s.prp pair).wrong }
    | none => s
  let chk := match tr with
    | some (q, _) => if isPtpFlow || st != 0 then (s, DupOut.deliver) else dupCheck s pair (BitVec.ofNat 48 (beBytes bs 6 6)) q
    | none => (s, DupOut.deliver)
  let s := chk.1
  let long := decide (4096 < f.bytes.length)
  let data := bs.take (bs.length - 4 - (if tr.isSome then 6 else 0))
  let ts := f.ts - fld (s.lane l).tsLat 0 16
  let st := if st = 0 ∧ chk.2 = .dup then 1 else st
  if st ≠ 0 && !long then s
  else match hit with
    | some (i, e) => if fld e.w3 30 2 = 0 then deliverFrame s l (fld e.w3 0 8) i st bs data ts else s
    | none =>
      if bitAt (s.lane l).defRing 31 then deliverFrame s l (fld (s.lane l).defRing 0 8) 0xFFF st bs data ts else s.laneCnt l 5

/-- The lane takes a frame whose timestamp point passed at BT ts: it is not OFF, and the frame did not begin after en cleared or after lock was lost (R250, R251). -/
def State.laneTakes (s : State) (l ts : Nat) : Bool :=
  let x := s.lane l
  s.laneOn l && !s.laneIsOff l && (x.state == .run || decide (ts ≤ x.stopBt)) && (x.link || decide (ts ≤ x.lostBt))

/-- RX_FRAME: a frame ends its reception on lane l; one in progress when lock is lost ends as a runt or FCS failure (R229, R238, R251). -/
def execRxFrame (l : Nat) (f : RxFrame) (s : State) : Out :=
  .next (if !s.laneTakes l f.ts then s
    else if f.fifoFull then (s.laneCnt l 4).laneEvt l 2
    else if 9216 < f.bytes.length then acceptFrame (s.laneCnt l 3) l 4 f
    else if f.bytes.length < 64 then s.laneCnt l 2
    else if !f.fcsOk || !(s.lane l).link then
      (if 4096 < f.bytes.length then acceptFrame (s.laneCnt l 1) l 2 f else s.laneCnt l 1)
    else if isPause f.bytes then s.laneCnt l 6
    else acceptFrame (s.laneCnt l 0) l 0 f)

/-! ### Transmit (R243 to R247) -/

def Lane.txq (x : Lane) (q : Nat) : Txq := x.txqs.get q {}
def Lane.setTxq (x : Lane) (q : Nat) (t : Txq) : Lane := { x with txqs := x.txqs.set q t {} }

/-- The rules of R243. -/
def tqOk (v : W32) (b : Nat) : Bool :=
  b % 64 == 0 && decide (3 ≤ fld v 0 4 ∧ fld v 0 4 ≤ 10) && bankOf b == bankOf (b + 63 + 8 * 2 ^ fld v 0 4)

/-- The descriptor address of index c. -/
def Txq.desc (t : Txq) (c : Nat) : Nat := t.base.toNat + 64 + 8 * (c % 2 ^ fld t.cfg 0 4)

/-- Read the producer count of queue q of lane l, and its head descriptor once it is there (R243, R244). -/
def pollQueue (s : State) (l q : Nat) : State :=
  let t := (s.lane l).txq q
  if bitAt t.cfg 31 && s.bankOn t.base.toNat then
    let r := xtake32 s (laneCode l) laneId t.base.toNat
    let t := { t with prod := r.2 }
    if r.2 = t.cons ∨ t.head.isSome then r.1.setLane l ((r.1.lane l).setTxq q t)
    else
      let d := xtakes r.1 (laneCode l) laneId (t.desc t.cons.toNat) 4
      let v (i : Nat) : W32 := d.2[i]?.getD 0
      d.1.setLane l ((d.1.lane l).setTxq q { t with head := some { w0 := v 0, w1 := v 1, launch := (v 3 ++ v 2).toNat } })
  else s

/-- The period of LAN_TX_POLL has passed since the last poll; 0 acts as 1 (R244). -/
def Lane.pollDue (x : Lane) (bt : Nat) : Bool :=
  match x.polled with
  | none => true
  | some t => decide (t / (960 * Nat.max 1 x.txPoll.toNat) < bt / (960 * Nat.max 1 x.txPoll.toNat))

/-- TX_POLL: once in every period (R244). -/
def execTxPoll (l : Nat) (s : State) : Out :=
  .next (if s.laneOn l && (s.lane l).state == .run && (s.lane l).pollDue s.clk.bt then
    (List.range 8).foldl (fun s q => pollQueue s l q) (s.setLane l { s.lane l with polled := some s.clk.bt }) else s)

def TxDesc.len (d : TxDesc) : Nat := fld d.w0 0 16
def TxDesc.prp (d : TxDesc) : Bool := bitAt d.w0 19
def TxDesc.lt (d : TxDesc) : Bool := bitAt d.w0 21
/-- The status bits of a descriptor that is not a PRP frame's hold 0 for status_b (Table 8.4). -/
def TxDesc.stB (d : TxDesc) (st : Nat) : Nat := if d.prp then st else 0

/-- Queue q of lane l holds an unsent descriptor that is eligible now (R244); one whose frame is not complete holds its queue, and a second PRP frame waits for the first. -/
def State.eligible (s : State) (l q : Nat) : Bool :=
  let t := (s.lane l).txq q
  match t.head with
  | none => false
  | some d =>
    bitAt t.cfg 31 && s.bankOn t.base.toNat && (match (s.lane l).dup with | some u => u.queue != q && !d.prp | none => true) &&
      (!d.lt || decide (d.launch ≤ s.clk.bt + (if d.len ≤ 4096 then 19200 else 38400)))

/-- Complete the head descriptor of queue q, whose word 0 is w0: status, timestamp where asked, consumer count (R246); a masked or refused input takes no write (R151, R252). -/
def txDone (s : State) (l q : Nat) (w0 : W32) (st stB : Nat) (ts : Option Nat) : State :=
  let t := (s.lane l).txq q
  let a := t.desc t.cons.toNat
  let c := laneCode l
  if !s.bankOn t.base.toNat || !s.laneOn l then s.setLane l ((s.lane l).setTxq q { t with head := none })
  else
    let s := xputs s c laneId a (words32 ((w0 &&& 0x00FFFFFF) ||| BitVec.ofNat 32 (st * 2 ^ 28 + stB * 2 ^ 24)))
    let s := match ts with
      | some v => if bitAt w0 23 then xputs s c laneId (a + 4) (words64 (s.stamp (bitAt (s.lane l).ctl 28) v)) else s
      | none => s
    let m := t.cons + 1
    let s := xputs s c laneId (t.base.toNat + 2) (words32 m)
    pollQueue (s.setLane l ((s.lane l).setTxq q { t with cons := m, head := none })) l q

/-- Lane l can send now. -/
def State.lineUp (s : State) (l : Nat) : Bool := s.laneOn l && (s.lane l).state != .off && (s.lane l).link

/-- One copy of the PRP frame of even lane l has ended with status st; after both the descriptor completes (R247). -/
def dupReport (s : State) (l : Nat) (odd : Bool) (st : Nat) (ts : Option Nat) : State :=
  match (s.lane l).dup with
  | none => s
  | some u =>
    let u := if odd then { u with stB := some st } else { u with stA := some st, ts := ts }
    match u.stA, u.stB with
    | some a, some b => txDone (s.setLane l { s.lane l with dup := none }) l u.queue u.w0 a b u.ts
    | _, _ => s.setLane l { s.lane l with dup := some u }

/-- The status of a frame goes to its descriptor: at once, or for a PRP frame with that of the other copy. -/
def txReport (s : State) (l : Nat) (c : TxCur) (st : Nat) (ts : Option Nat) : State :=
  if c.copy then dupReport s (l - 1) true st ts
  else if c.seq.isSome then dupReport s l false st ts
  else txDone s l c.queue c.w0 st 0 ts

/-- A frame starts on lane l, waits for its line, or ends with LINK_DOWN (R245, R247, R251). -/
def txStart (s : State) (l : Nat) (c : TxCur) : State :=
  if !s.lineUp l then txReport (s.laneCnt l 11) l c 6 none
  else if (s.lane l).tx.isSome then s.setLane l { s.lane l with wait := some c }
  else s.setLane l { s.lane l with tx := some c }

/-- Bytes [i, j) of the frame of descriptor words w0 and w1, as lane l fetches them (R245); i is even. -/
def txFetch (s : State) (l : Nat) (w1 : W32) (i j : Nat) : State × List Byte :=
  let r := xload s (laneCode l) laneId (fld w1 0 22 + i / 2) ((j - i + 1) / 2)
  (r.1, (wordBytes r.2).take (j - i))

/-- The data of bytes [i, j) lies in banks that answer. -/
def State.dataOn (s : State) (w1 : W32) (i j : Nat) : Bool := decide (j ≤ i) || s.ringsOn (fld w1 0 22 + i / 2) ((j - i + 1) / 2)

/-- The frame c of lane l, with its bytes up to 4,096 held, is on its way (R245). -/
def txSend (s : State) (l : Nat) (c : TxCur) : State :=
  let r := txFetch s l c.w1 0 (Nat.min 4096 (fld c.w0 0 16))
  txStart r.1 l { c with bytes := r.2 }

/-- Take the head descriptor d of queue q of lane l (R245 to R247, R251). -/
def txTake (s : State) (l q : Nat) (d : TxDesc) : State :=
  let odd := d.prp && s.lineUp (l + 1)
  let start := if d.lt then Nat.max s.clk.bt d.launch else s.clk.bt
  let late := d.lt && decide (d.launch + 960 * (s.lane l).txLate.toNat < start)
  let ends (s : State) (st : Nat) : State := txDone s l q d.w0 st (d.stB st) none
  if d.prp ∧ !((s.prp (l / 2)).en && l % 2 == 0) then txDone s l q d.w0 5 0 none
  else if d.len < 60 ∨ (if d.prp then 9206 else 9212) < d.len then ends s 5
  else if !s.dataOn d.w1 0 (Nat.min 4096 d.len) then ends s 4
  else if !s.lineUp l && !odd then ends (if d.prp then (s.laneCnt l 11).laneCnt (l + 1) 11 else s.laneCnt l 11) 6
  else
    let s := if late then s.laneCnt l 9 else s
    if late ∧ bitAt d.w0 20 then ends s 2
    else
      let c : TxCur := { queue := q, w0 := d.w0, w1 := d.w1, start := start, bytes := [], seq := none, copy := false }
      if d.prp then
        let n := (s.prp (l / 2)).seq
        let s := s.setPrp (l / 2) { s.prp (l / 2) with seq := n + 1 }
        let s := s.setLane l { s.lane l with dup := some { queue := q, w0 := d.w0 } }
        txSend (txSend s l { c with seq := some n }) (l + 1) { c with seq := some n, copy := true }
      else txSend s l c

/-- TX_LAUNCH: the lane takes the head of queue q, the highest-numbered eligible queue, when the line is free (R244, R245). -/
def execTxLaunch (l q : Nat) (s : State) : Out :=
  .next (if s.laneOn l && (s.lane l).state == .run && (s.lane l).tx.isNone && decide (q < 8) && s.eligible l q &&
      !(List.range 8).any (fun j => decide (q < j) && s.eligible l j) then
    match ((s.lane l).txq q).head with | some d => txTake s l q d | none => s
  else s)

/-- The timestamp of a frame at its timestamp point (R230, R245). -/
def State.txStamp (s : State) (l : Nat) (c : TxCur) : Nat := c.start + fld (s.lane l).tsLat 16 16

/-- One-step operation: the PTP time in the 10-byte originTimestamp at byte 34 of the PTP header, and over UDP/IPv4 a UDP checksum of 0 (R232). -/
def State.oneStep (s : State) (l : Nat) (c : TxCur) : List Byte :=
  let o := 2 * fld c.w1 22 10
  let t := s.ptpOf (s.txStamp l c)
  let bs := if o + 44 ≤ c.bytes.length then putBytes c.bytes (o + 34) (netBytes (t / ptpSec) 6 ++ netBytes (t % ptpSec / ptpNs) 4) else c.bytes
  if bitAt c.w0 18 ∧ 2 ≤ o ∧ o ≤ bs.length then putBytes bs (o - 2) [0, 0] else bs

/-- The redundancy trailer of a frame of lane l: sequence number, LanId, LSDU size, suffix (R247). -/
def prpSuffix (l : Nat) (q : Word) (bs : List Byte) : List Byte :=
  netBytes q.toNat 2 ++ netBytes ((if l % 2 = 0 then 0xA else 0xB) * 4096 + (bs.length - payload bs + 6) % 4096) 2 ++ netBytes 0x88FB 2

/-- The frame as it leaves lane l: the bytes, the trailer of a PRP frame, the FCS, inverted where the frame is cut (R232, R245, R247). -/
def State.lineFrame (s : State) (l : Nat) (c : TxCur) (cut : Bool) : List Byte :=
  let bs := if bitAt c.w0 22 then s.oneStep l c else c.bytes
  let bs := match c.seq with | some q => bs ++ prpSuffix l q bs | none => bs
  bs ++ numBytes (if cut then ~~~ (crc32Of bs) else crc32Of bs).toNat 4

/-- The frame being sent on lane l ends; cut names an underrun or a lost link, and a tail that is refused in mid-frame ends it so too (R245, R246, R251). A copy that waits for the line starts. -/
def txEnd (s : State) (l : Nat) (cut : Bool) : State :=
  match (s.lane l).tx with
  | none => s
  | some c =>
    let n := fld c.w0 0 16
    let off := !cut && !s.dataOn c.w1 4096 n
    let r := if cut ∨ off then (s, []) else txFetch s l c.w1 4096 n
    let s := r.1
    let c := { c with bytes := c.bytes ++ r.2 }
    let w := (s.lane l).wait
    let s := s.setLane l { s.lane l with tx := none, wait := none, out := s.lineFrame l c (cut || off) }
    let s := if cut || off then (s.laneCnt l 8).laneEvt l 5 else s.laneCnt l 7
    let s := txReport s l c (if off then 4 else if cut then 3 else 1) (some (s.txStamp l c))
    match w with
    | some c => txStart s l { c with start := s.clk.bt }
    | none => s

/-- TX_FRAME_END: only a frame above 4,096 bytes can underrun (R245, R246). -/
def execTxFrameEnd (l : Nat) (underrun : Bool) (s : State) : Out :=
  .next (if s.laneOn l then
    match (s.lane l).tx with
    | some c => txEnd s l (underrun && decide (4096 < fld c.w0 0 16))
    | none => s
  else s)

/-! ### Link and lane state (R250, R251, R436) -/

/-- LINK_DOWN (R251); Sheow lists the zones that became unreachable (R28). -/
def linkDown (s : State) (l : Nat) : State :=
  txEnd ((s.setLane l { s.lane l with link := false, blockLock := false, lostBt := s.clk.bt }).laneEvt l 1) l true
/-- Outbound streams whose lanes are all down have stopped (R28). -/
def stopStreams (s : State) : State :=
  { s with sheow := { s.sheow with streamsOut := s.sheow.streamsOut.map fun e =>
      (e.1, e.2.map fun x => if x.lanes.any fun l => (s.lane l).link then x else { x with down := true }) } }
def execLinkDown (l : Nat) (s : State) : Out := .next (if s.laneOn l && (s.lane l).link then evacReport (stopStreams (linkDown s l)) else s)

/-- LINK_UP (R251). -/
def execLinkUp (l : Nat) (s : State) : Out :=
  .next (if s.laneOn l && !s.laneIsOff l && !(s.lane l).link then
    evacReport ((s.setLane l { s.lane l with link := true, blockLock := true }).laneEvt l 0) else s)

/-- LAN registers of a lane are written by the Postmaster, host secure, and debug at level 3 (R259); not while it is off or in reset. -/
def State.lanWriter (s : State) (ag : Agent) : Bool := s.globalWriter ag && s.pinRuns

/-- LAN_CTL.en := 1 (R250). -/
def laneStart (s : State) (l : Nat) : State :=
  let x := s.lane l
  s.setLane l { x with ctl := setBit x.ctl 31, state := if x.state = .off then .run else x.state }
def execLaneStart (ag : Agent) (l : Nat) (s : State) : Out := .next (if s.lanWriter ag && s.laneOn l then laneStart s l else s)

/-- LAN_CTL.en := 0: STOPPING (R250). -/
def laneStop (s : State) (l : Nat) : State :=
  let x := s.lane l
  s.setLane l { x with ctl := clrBit x.ctl 31, stopBt := if x.state = .run then s.clk.bt else x.stopBt, state := if x.state = .run then .stopping else x.state }
def execLaneStop (ag : Agent) (l : Nat) (s : State) : Out := .next (if s.lanWriter ag && s.laneOn l then laneStop s l else s)

/-- The head descriptors that the lane has read are read again after it starts. -/
def Lane.dropHeads (x : Lane) : Lane := { x with txqs := x.txqs.map fun e => (e.1, { e.2 with head := none }) }

/-- LANE_OFF: both directions are idle (R250); en set again meanwhile starts the lane. -/
def execLaneOff (l : Nat) (s : State) : Out :=
  let x := s.lane l
  .next (if s.laneOn l && x.state == .stopping && x.tx.isNone && x.wait.isNone && x.dup.isNone then
    s.setLane l { x.dropHeads with state := if bitAt x.ctl 31 then .run else .off } else s)

/-- The sideband of lane l at the sorter and the seal unit (R181, R252): the lanes' seals are orphaned when every lane's sideband is asserted. -/
def laneSideband (s : State) (l : Nat) : State :=
  maskInput (if (List.range s.nLane).all (fun j => (s.lane j).rst || !bitAt s.pwr.lanePow j) then sealSideband s (fun a => a == 0x1030) else s) (32 + l)

/-- LANE_RESET: lane_rst_i[l] asserts; frames in progress end as at a loss of link, and nothing is written through the masked input (R251, R252, R436). -/
def execLaneReset (l : Nat) (s : State) : Out :=
  .next (if l < s.nLane ∧ !(s.lane l).rst ∧ !s.inReset then
    let x := s.lane l
    let s := s.setLane l { x.dropHeads with ctl := clrBit x.ctl 31, state := .off, dup := none, rst := true }
    laneSideband (if x.link then linkDown s l else s) l
  else s)

/-- LANE_RESET_RELEASE: the mask lifts (R181); pma_rst_o follows the lane state again. -/
def execLaneResetRelease (l : Nat) (s : State) : Out :=
  .next (if l < s.nLane then s.setLane l { s.lane l with rst := false } else s)

/-! ### Configuration commands -/

/-- CLS_WRITE (R235). -/
def clsWrite (s : State) : State :=
  { s with lan := { s.lan with flows := s.lan.flows.set s.lan.clsIdx.toNat s.lan.cls {} } }
def execClsWrite (ag : Agent) (s : State) : Out := .next (if s.lanWriter ag then clsWrite s else s)

/-- CLS_READ (R235). -/
def clsRead (s : State) : State := { s with lan := { s.lan with cls := s.lan.flows.get s.lan.clsIdx.toNat {} } }
def execClsRead (ag : Agent) (s : State) : Out := .next (if s.lanWriter ag then clsRead s else s)

/-- LAN_RING_CFG[k] := v with en 1 (R237, Table 8.10). -/
def fringEnable (s : State) (k : Nat) (v : W32) : State :=
  let r := s.fring k
  let b := r.base.toNat
  let l := fld v 26 3
  if bitAt r.cfg 31 then s
  else if !frOk v b then s.laneEvt l 4
  else
    let s := s.setFring k { r with cfg := (v &&& 0x7C7F0000) ||| 0x80000000, cnt := 0 }
    let c := laneCode (s.ringLane l)
    if s.bankOn b then xputs (xputs s c laneId b [0, 0]) c laneId (b + 4) (List.replicate 60 0) else fringErr s k l
def execLanRingEnable (ag : Agent) (k : Nat) (v : W32) (s : State) : Out :=
  .next (if s.lanWriter ag && decide (k < 256) then fringEnable s k v else s)

/-- LAN_TXQ_CFG[l,q] := v with en 1 (R243). -/
def txqEnable (s : State) (l q : Nat) (v : W32) : State :=
  let t := (s.lane l).txq q
  if tqOk v t.base.toNat then s.setLane l ((s.lane l).setTxq q { t with cfg := (v &&& 0xF) ||| 0x80000000, prod := if bitAt t.cfg 31 then t.prod else t.cons, head := none })
  else s.laneEvt l 4
def execTxqEnable (ag : Agent) (l q : Nat) (v : W32) (s : State) : Out :=
  .next (if s.lanWriter ag && s.laneOn l && decide (q < 8) then txqEnable s l q v else s)

/-- PRP_FORGET: a source entry has had no frame for LAN_PRP_FORGET ms (R248). -/
def execPrpForget (p : Nat) (mac : BitVec 48) (s : State) : Out :=
  let x := s.prp p
  .next (if s.inReset then s else
    s.setPrp p { x with srcs := x.srcs.filter fun e => !(e.mac == mac && decide (e.last + x.forget.toNat * msBt ≤ s.clk.bt)) })

end Sys2Proof.Machine
end

