-- ==== Sys2Proof/Machine/SealEv.lean ====
section
/-! DEFINITION. The seal alias of agents that are not threads, forced release and lease expiry (R159 to R165). -/
namespace Sys2Proof.Machine

/-- The alias bank of an agent. -/
def State.alias (s : State) (ag : Agent) : AliasBank := s.seals.banks.get (bankKey (s.who ag)) {}
def State.setAlias (s : State) (ag : Agent) (b : AliasBank) : State :=
  { s with seals := { s.seals with banks := s.seals.banks.set (bankKey (s.who ag)) b {} } }

/-- The identity an agent acquires seals with. -/
def State.sealId (s : State) (ag : Agent) : BitVec 13 := agentId (s.who ag)

/-- An agent's access to exchange word w is refused by its domain or level, or the bank is not on (R151, R411, R420). -/
def agentRefused (s : State) (ag : Agent) (w : Nat) (kind : BitVec 3) : Option State :=
  if ag = .dbg ∧ s.dbg.level.toNat < 2 then some s
  else if !s.bankHere w then none
  else if !s.bankOn w then some s
  else if !s.secureAgent ag && !s.wordNormal w then some (s.violation kind (agentId ag) (BitVec.ofNat 32 w))
  else none

/-- Withdraw the pending alias wait of an agent. -/
def dropAliasWait (s : State) (ag : Agent) : State :=
  { s with seals := { s.seals with waits := s.seals.waits.filter fun x => x.agent != s.sealId ag } }

/-- A read of SEAL_ALIAS_ACQ (R159): the word read, in rdata. -/
def aliasAcq (s : State) (ag : Agent) : State :=
  let w := (s.alias ag).addr.toNat
  match agentRefused s ag w 1 with
  | some s => { s with rdata := 0 }
  | none =>
    if !s.bankHere w then { s with rdata := 0 } else
    let wait (s : State) (v : Word) : State :=
      let s := (dropAliasWait s ag).addWait { agent := s.sealId ag, addr := w, tag := 0 }
      { s.setAlias ag { s.alias ag with wait := true } with rdata := v.setWidth 32 }
    match acquire (s.atPoint (codeOf ag) w) w (s.sealId ag) with
    | (s, .granted v) => { s with rdata := v.setWidth 32 }
    | (s, .held v) => wait s v
    | (s, .full v) => wait s v

/-- SEAL_ALIAS_ACQ (R159). -/
def execSealAliasAcq (ag : Agent) (s : State) : Out := .next (if s.inReset then s else aliasAcq s ag)

/-- A write of SEAL_ALIAS_REL (R160). -/
def aliasRel (s : State) (ag : Agent) : State :=
  let w := (s.alias ag).addr.toNat
  match agentRefused s ag w 1 with
  | some s => s
  | none =>
    let r := release (s.atPoint (codeOf ag) w) w (s.sealId ag)
    if r.2 then r.1 else r.1.setAlias ag { r.1.alias ag with relErr := true }
def execSealAliasRel (ag : Agent) (s : State) : Out := .next (if s.inReset then s else aliasRel s ag)

/-- A write of SEAL_ALIAS_ADDR withdraws the bank's pending wait (R159). -/
def aliasAddr (s : State) (ag : Agent) (v : W32) : State :=
  let s := dropAliasWait s ag
  s.setAlias ag { s.alias ag with addr := v.extractLsb' 0 22, wait := false }
def execSealAliasAddrWrite (ag : Agent) (v : W32) (s : State) : Out := .next (if s.inReset then s else aliasAddr s ag v)

/-- SEAL_FORCE: forced release in the FL128 and FL256 by the Postmaster; ignored otherwise with force_ign (R165). -/
def sealForce (s : State) (ag : Agent) (v : W32) : State :=
  if s.straps.build ≠ .fl512 ∧ isPm ag then orphanSeal s (fld v 0 22) else s.sealEvt 4
def execSealForce (ag : Agent) (v : W32) (s : State) : Out := .next (if s.inReset then s else sealForce s ag v)

/-- SEAL_LEASE_EXPIRY: the lease counter of the seal at addr has reached 0 (R162). -/
def execSealLeaseExpiry (addr : Nat) (s : State) : Out :=
  .next (match s.sealAt addr with
    | some x => (match x.expiry with
      | some e => if e ≤ s.usTick then orphanSeal s addr else s
      | none => s)
    | none => s)

end Sys2Proof.Machine
end

