-- ==== Sys2Proof/Machine/FaultEv.lean ====
section
/-! DEFINITION. Twin mismatches, depot and lane sidebands, the depot transfer, the IRQ window: masks, tests, doorbells, safety, watchdog (R316, R317, R378 to R380, R387 to R398, R434, R435, R442, R443). -/
namespace Sys2Proof.Machine

/-! ### Twin mismatches -/

/-- The threads of engine pair k of depot d. -/
def pairAgent (d k : Nat) (a : BitVec 13) : Bool := decide (a.toNat / 128 = d ∧ a.toNat % 128 / 16 = k)

/-- At a freeze the EDGE and SER pins the pair last posted to hand over to their safe state (R389). -/
def freezePins (s : State) (d k : Nat) : State :=
  s.pins.pins.foldl (fun s e =>
    if (e.2.fsel = 2 ∨ e.2.fsel = 3) ∧ e.2.lastPair = some (8 * d + k) then (s.setPin e.1 { s.pin e.1 with before := e.2.fsel }).handoverHold e.1 true else s) s

/-- TWIN_MISMATCH: pair k of depot d differs in a group: it freezes (R387 to R389). dataUe: one engine alone found an uncorrectable word. -/
def execTwinMismatch (d pair group : Nat) (dataUe : Bool) (s : State) : Out :=
  let D := s.dep d
  .next (if s.twin d && s.depUp d && s.clk.eHz != 0 && decide (pair < 8 ∧ group < 16) && !bitAt D.frozen pair && D.state != .off then
    let D := { D with frozen := setBit D.frozen pair }
    let D := if D.twinValid then D
      else { D with twinValid := true, twinGroup := BitVec.ofNat 5 group, twinPair := BitVec.ofNat 3 pair, twinT := s.bt64 }
    let s := ((s.setDep d D).depEvt d 6).safeEvt 0
    let s := if group = 15 ∧ dataUe then s.safeEvt 2 else s
    let s := { s with srt := { s.srt with resps := s.srt.resps.filter fun r => !pairAgent d pair (r.tid.setWidth 13) } }
    freezePins (sealSideband s (pairAgent d pair)) d pair
  else s)

/-- PM_TWIN_MISMATCH: the Postmaster pair freezes (R392). -/
def execPmTwinMismatch (group : Nat) (s : State) : Out :=
  .next (if s.straps.pmTwin && !s.irq.pmFrozen && decide (16 ≤ group ∧ group < 24) && s.pinRuns then
    let q := { s.irq with pmFrozen := true, pmMm := true }
    let q := if q.pmTwinValid then q else { q with pmTwinValid := true, pmTwinGroup := BitVec.ofNat 5 group, pmTwinT := s.bt64 }
    { s with irq := q }.safeEvt 1
  else s)

/-! ### The depot transfer -/

/-- Every thread of depot d is IDLE. -/
def Depot.allIdle (D : Depot) : Bool := D.threads.all fun e => e.2.state == .idle

/-- The conditions of R378 for a transfer from f to sp. -/
def State.xferOk (s : State) (f sp : Nat) : Bool :=
  s.depRun f && s.depRun sp && f != sp && (s.dep sp).allIdle && s.twin f == s.twin sp && !s.xferActive f && !s.xferActive sp

/-- DEP_XFER_CTL := v with go (R378). -/
def xferGo (s : State) (f : Nat) (v : W32) : State :=
  if s.xferOk f (fld v 21 5) then
    s.setDep f { s.dep f with xfer := { (s.dep f).xfer with spare := fld v 21 5, guard := fld v 0 16, phase := .code } }
  else s.cmdErr f

/-- Only the Postmaster writes the transfer registers (R380). -/
def State.xferWriter (s : State) (ag : Agent) (d : Nat) : Bool := isPm ag && s.depUp d

def execXferGo (ag : Agent) (d : Nat) (v : W32) (s : State) : Out := .next (if s.xferWriter ag d then xferGo s d v else s)

/-- DEP_XFER_CTL.abort (R380). -/
def xferAbort (s : State) (d : Nat) : State :=
  let x := (s.dep d).xfer
  if x.phase = .code ∨ x.phase = .wait then s.setDep d { s.dep d with xfer := { x with phase := .aborted } } else s
def execXferAbort (ag : Agent) (d : Nat) (s : State) : Out := .next (if s.xferWriter ag d then xferAbort s d else s)

/-- XFER_CODE_DONE: the code store has been copied; WAIT begins (R378). -/
def execXferCodeDone (d : Nat) (s : State) : Out :=
  let D := s.dep d
  .next (if s.depUp d ∧ D.xfer.phase = .code then
    let s := s.setDep D.xfer.spare { s.dep D.xfer.spare with code := D.code, codeErr := D.codeErr }
    s.setDep d { s.dep d with xfer := { D.xfer with phase := .wait, waitFrom := s.clk.bt } }
  else s)

/-- A thread is quiet for a transfer (R378): resting, or blocked with reason 3 to 9; a frozen pair counts as quiet. -/
def State.quiet (s : State) (d i : Nat) (h : Thread) : Bool :=
  s.frozen (tidOf d i) ||
  (match h.state with
   | .running => false
   | .stopping => false
   | .blocked => !h.pend.inFlight &&
     (match h.pend with
      | .acq tag _ => s.seals.waits.any fun x => x.tag == tag && x.agent == (tidOf d i).setWidth 13
      | _ => true)
   | _ => true)

/-- Depot d is quiescent: every thread quiet, no edge posting on its way (R378). -/
def State.quiescent (s : State) (d : Nat) : Bool :=
  ((s.dep d).threads.all fun e => s.quiet d e.1 e.2) && s.pins.pins.all fun e => !(s.ownsPin d e.1) || e.2.eqX == []

/-- The next boundary BND + k × PER at or after now (R378). -/
def State.nextBoundary (s : State) (x : Xfer) : Nat :=
  let p := Nat.max 1 x.per.toNat
  if s.clk.bt ≤ x.bnd.toNat then s.clk.bt + (x.bnd.toNat - s.clk.bt) % p
  else x.bnd.toNat + (s.clk.bt - x.bnd.toNat + p - 1) / p * p

/-- BT units of one rotation at the present ECLK frequency. -/
def State.rotBt (s : State) : Nat := if s.clk.eHz = 0 then 64 else 8 * secBt / s.clk.eHz

/-- XFER_FREEZE: quiescent, with the guard before the next boundary: issue stops (R378). -/
def execXferFreeze (d : Nat) (s : State) : Out :=
  let D := s.dep d
  .next (if s.depUp d ∧ D.xfer.phase = .wait ∧ s.quiescent d ∧ s.clk.bt + D.xfer.guard * s.rotBt ≤ s.nextBoundary D.xfer then
    s.setDep d { D with xfer := { D.xfer with phase := .freeze, t := s.bt64, frzRot := s.rot } }
  else s)

/-- XFER_TIMEOUT: DEP_XFER_TMO has passed in WAIT (R378). -/
def execXferTimeout (d : Nat) (s : State) : Out :=
  let D := s.dep d
  .next (if s.depUp d ∧ D.xfer.phase = .wait ∧ D.xfer.waitFrom + D.xfer.tmo * 9600 ≤ s.clk.bt then
    s.setDep d { D with xfer := { D.xfer with phase := .timeout } } else s)

/-- A tid of depot f named in depot sp instead. -/
def renTid (f sp : Nat) (t : Tid) : Tid := if depOf t = f then tidOf sp (idxOf t) else t
def renAgent (f sp : Nat) (a : BitVec 13) : BitVec 13 := if a.toNat / 128 = f then BitVec.ofNat 13 (sp * 128 + a.toNat % 128) else a
def Chute.ren (f sp : Nat) (c : Chute) : Chute :=
  { c with senders := c.senders.map (renTid f sp), receivers := c.receivers.map (renTid f sp)
           fresh := c.fresh.map fun e => (e.1, renTid f sp e.2), ties := c.ties.map fun e => (e.1, renTid f sp e.2) }
def Resv.ren (f sp : Nat) (r : Resv) : Resv := { r with tid := renTid f sp r.tid }
def LChute.ren (f sp : Nat) (c : LChute) : LChute :=
  { c with granted := c.granted.map (Resv.ren f sp), queue := c.queue.map (Resv.ren f sp), receivers := c.receivers.map (renTid f sp) }
def OutMsg.ren (f sp : Nat) (m : OutMsg) : OutMsg := { m with tid := renTid f sp m.tid, depot := if m.depot = f then sp else m.depot }

/-- Exchange codes f and sp in a map of inputs (R378). -/
def swapCodes (f sp : Nat) (m : SMap Nat) : SMap Nat :=
  (List.range 44).foldl (fun r i =>
    let c := SMap.get m i i
    SMap.set r i (if c = f then sp else if c = sp then f else c) i) []

/-- The sorter's requests and responses of depot f, or for its long chutes, become those of sp. -/
def Sorter.ren (f sp : Nat) (x : Sorter) : Sorter :=
  let code (c : Nat) : Nat := if c = f then sp else c
  let tgt (g : Nat) : Nat := if g = 64 + f then 64 + sp else g
  let op (o : SOp) : SOp := match o with | .burst m => .burst (m.ren f sp) | o => o
  { x with
    reqs := x.reqs.map fun r => { r with code := code r.code, target := tgt r.target, tid := renTid f sp r.tid, op := op r.op }
    arr := x.arr.map fun r => { r with code := code r.code, target := tgt r.target, tid := renTid f sp r.tid }
    bursts := x.bursts.map fun b => { b with code := code b.code, target := tgt b.target, msg := b.msg.ren f sp }
    resps := x.resps.map fun r => { r with tid := renTid f sp r.tid }
    live := swapCodes f sp x.live, shadow := swapCodes f sp x.shadow }

/-- The seal unit renames owners and waiters of depot f to sp and rewrites the mirror words (R378). -/
def renSeals (s : State) (f sp : Nat) : State :=
  let s : State := { s with seals := { s.seals with waits := s.seals.waits.map fun x => { x with agent := renAgent f sp x.agent } } }
  s.seals.held.foldl (fun (s : State) (e : Nat × Option Seal) => match e.2 with
    | some x =>
      if x.owner.toNat / 128 = f then
        let x := { x with owner := renAgent f sp x.owner }
        mirror (s.setSeal e.1 (some x)) e.1 (sealWord x)
      else s
    | none => s) s

/-- The pins of depot f pass to sp as with keep (R191, R378). -/
def passPins (s : State) (f sp : Nat) : State :=
  s.pins.pins.foldl (fun s e =>
    if s.ownsPin f e.1 then s.setPin e.1 { s.pin e.1 with ownDep := BitVec.ofNat 5 sp } else s) s

/-- What the transfer copies from f into the spare (R378). -/
def Depot.takeFrom (S F : Depot) (f sp : Nat) : Depot :=
  { S with
    threads := F.threads, edm := F.edm, edmErr := F.edmErr, chx := F.chx, xselLo := F.xselLo, xselHi := F.xselHi
    chutes := F.chutes.map fun e => (e.1, e.2.ren f sp)
    lchutes := F.lchutes.map fun e => (e.1, e.2.ren f sp)
    outbuf := F.outbuf.map (OutMsg.ren f sp), lxdom := F.lxdom }

/-- Every other depot's queued and granted reservations of f's threads are renamed (R379). -/
def renDepots (s : State) (f sp : Nat) : State :=
  s.deps.foldl (fun s e =>
    if e.1 = f ∨ e.1 = sp then s
    else s.setDep e.1 { s.dep e.1 with
      lchutes := (s.dep e.1).lchutes.map fun c => (c.1, c.2.ren f sp)
      outbuf := (s.dep e.1).outbuf.map (OutMsg.ren f sp) }) s

/-- The library threads of depot f go on as those of sp with what they serve, from their next period on (R283). -/
def Sheow.renTids (x : Sheow) (f sp : Nat) : Sheow :=
  let ot (t : Option Tid) : Option Tid := t.map (renTid f sp)
  { x with
    roles := x.roles.foldl (fun m e =>
      if e.1 / 128 = f then SMap.set (SMap.set m e.1 none none) (sp * 128 + e.1 % 128) e.2 none else m) x.roles
    zthreads := x.zthreads.map fun e => (e.1, { e.2 with tid := renTid f sp e.2.tid })
    chans := x.chans.map fun e => (e.1, { e.2 with tid := ot e.2.tid })
    supplies := x.supplies.map fun e => (e.1, { e.2 with tid := ot e.2.tid })
    streamsIn := x.streamsIn.map fun e => (e.1, e.2.map fun y => { y with tid := ot y.tid }) }

/-- The end of a freeze: state, seals, map, pins and messages move to the spare; f becomes OFF (R283, R378, R379). -/
def finishXfer (s : State) (f : Nat) : State :=
  let F := s.dep f
  let sp := F.xfer.spare
  let s := { s with sheow := s.sheow.renTids f sp }
  let s := s.setDep sp ((s.dep sp).takeFrom F f sp)
  let s := renSeals (renDepots s f sp) f sp
  let s := passPins { s with srt := s.srt.ren f sp } f sp
  s.setDep f { F.off false with
    threads := F.threads.foldl (fun m e =>
      let h := F.thr e.1
      SMap.set m e.1 { Thread.reset e.1 with slice := h.slice, prio := h.prio, tmo := h.tmo } (Thread.reset e.1)) []
    en := false, redir := BitVec.ofNat 32 (2 ^ 31 + sp), xfer := { F.xfer with phase := .done, rots := s.rot - F.xfer.frzRot } }

/-! ### Depot reset sideband (R434, R435) -/

/-- The depot as its reset sideband leaves it (R434): memories, DEP_STAT.twin and CHUTE_TORN stay. -/
def Depot.hardReset (D : Depot) : Depot :=
  { ({} : Depot) with
    edm := D.edm, edmErr := D.edmErr, code := D.code, codeErr := D.codeErr, rst := true, powered := D.powered
    torn := satAdd D.torn (D.threads.filter fun e => e.2.staging != []).length }

/-- A transfer that depot d takes part in, in CODE or WAIT, ends ABORTED (R435). -/
def abortXfers (s : State) (d : Nat) : State :=
  (List.range 32).foldl (fun s f =>
    if f = d ∨ (s.dep f).xfer.spare = d then xferAbort s f else s) s

/-- Bursts for the long chutes of depot d that its sideband cuts are dead letters of their senders (R142, R181). -/
def cutBursts (s : State) (d : Nat) : State :=
  (s.srt.bursts.filter fun b => b.target == 64 + d && b.code != d).foldl (fun s b =>
    let src := depOf b.msg.tid
    (s.setDep src { s.dep src with outbuf := (s.dep src).outbuf.filter fun m => m.tag != b.msg.tag }).capture src
      { cause := 1, tid := b.msg.tid, target := BitVec.ofNat 16 (0x8000 + d * 256 + b.msg.lc), words := b.msg.words }) s

/-- The sideband of depot d acts (R163, R181, R197, R434): reservations it cannot take end TARGET_DOWN, its requests are discarded, its seals orphaned, its pins made safe. -/
def depSideband (s : State) (d : Nat) : State :=
  safePins (maskInput (sealSideband (freeResvs (cutBursts (refuseResvs s d) d) d) (depAgent d)) d) d
def depResetAct (s : State) (d : Nat) : State :=
  let s := depSideband (abortXfers s d) d
  s.setDep d (s.dep d).hardReset

/-- DEP_RESET: dep_rst_i[d] asserts; during a freeze it acts after the freeze (R434, R435). -/
def execDepReset (d : Nat) (s : State) : Out :=
  .next (if s.nDep ≤ d ∨ (s.dep d).rst ∨ s.inReset then s
    else match (List.range 32).find? (fun f => (s.dep f).xfer.phase == .freeze && (f == d || (s.dep f).xfer.spare == d)) with
      | some _ => s.setDep d { s.dep d with xfer := { (s.dep d).xfer with rstHeld := true } }
      | none => depResetAct s d)

/-- DEP_RESET_RELEASE: the depot stays OFF (R434). -/
def execDepResetRelease (d : Nat) (s : State) : Out :=
  .next (if d < s.nDep then s.setDep d { s.dep d with rst := false } else s)

/-- XFER_FREEZE_END (R378, R435). -/
def execXferFreezeEnd (d : Nat) (s : State) : Out :=
  .next (if (s.dep d).xfer.phase = .freeze ∧ !s.inReset then
    let sp := (s.dep d).xfer.spare
    let hf := (s.dep d).xfer.rstHeld
    let hs := (s.dep sp).xfer.rstHeld
    let s := finishXfer s d
    let s := if hf then depResetAct s d else s
    if hs then depResetAct s sp else s
  else s)

/-! ### Interrupt lines (R442, R443) -/

/-- DEP_FSTAT of depot d: bit 0 is set while a thread is FAULTED (Table 3.8). -/
def Depot.fstatWord (D : Depot) : BitVec 7 := if D.threads.any fun e => e.2.state == .faulted then setBit D.fstat 0 else D.fstat

/-- PIN_EVT with its computed bits (Table 7.6). -/
def State.pinEvtWord (s : State) : BitVec 8 :=
  let v := (s.pins.evt &&& 0xFC) ||| (if s.pins.pmEvt = 0 then 0 else 1)
  if s.pins.mm = [] then v else setBit v 1

/-- Source of host interrupt line k (Table 16.4). -/
def State.irqSource (s : State) (k : Nat) : Bool :=
  if k < 16 then bitAt s.irq.p2h k
  else if k < 24 then decide (k - 16 < s.nLane) && (s.lane (k - 16)).evt &&& (s.lane (k - 16)).evtEn != 0
  else if k < 56 then s.depUp (k - 24) && clrBit ((s.dep (k - 24)).fstatWord &&& (s.dep (k - 24)).fen) 2 != 0
  else match k with
    | 56 => s.srt.evt &&& s.srt.evtEn != 0
    | 57 => s.seals.evt &&& s.seals.evtEn != 0
    | 58 => s.pmk.alarm || (List.range 8).any fun k => (s.ref k).evt &&& s.pmk.evtEn != 0
    | 59 => s.pwr.evt &&& s.pwr.evtEn != 0
    | 60 => s.sec.evt &&& s.sec.evtEn != 0
    | 61 => s.dbg.evt &&& s.dbg.evtEn != 0
    | 62 => s.pinEvtWord &&& s.pins.evtEn != 0
    | 63 => s.irq.dl
    | _ => false

/-- The unit of line k is in the build: the lines of absent lanes and depots are held low, IRQ_TEST included (R4). -/
def State.lineHere (s : State) (k : Nat) : Bool :=
  if k < 16 then true else if k < 24 then decide (k - 16 < s.nLane) else if k < 56 then decide (k - 24 < s.nDep) else true

/-- IRQ_PEND and irq_o (R4, R443). -/
def State.irqPend (s : State) : W64 :=
  (List.range 64).foldl (fun v k => if s.lineHere k && (s.irqSource k || bitAt s.irq.test k) then setBit v k else v) 0
def State.irqOut (s : State) : W64 := s.irqPend &&& ~~~ s.irq.mask

/-- safety_fault_o and twin_mismatch_o (R397). -/
def State.safetyFault (s : State) : Bool := s.irq.safe &&& s.irq.safeEn != 0
def State.twinMismatch (s : State) : Bool := s.irq.pmMm || s.deps.any fun e => bitAt e.2.fstat 6

/-- The 32 bits of v in the low or high half of 64. -/
def half64 (hi : Bool) (v : W32) : W64 := if hi then v ++ (0 : W32) else v.setWidth 64

/-- Letterbox n is a normal object (R410). -/
def State.lbNormal (s : State) (n : Nat) : Bool := decide (3 ≤ n) && bitAt s.sec.lbDom n
/-- The letterboxes of the domain, as a mask. -/
def State.lbMask (s : State) (normal : Bool) : BitVec 16 :=
  (List.range 16).foldl (fun m n => if s.lbNormal n = normal then setBit m n else m) 0

/-- The mask bits agent ag may change (R443). -/
def State.maskBits (s : State) (ag : Agent) : W64 :=
  if s.inReset then 0
  else match ag with
    | .hostN => (s.lbMask true).setWidth 64
    | .dbg => 0
    | _ => BitVec.allOnes 64

/-- IRQ_MASK_SET (R443). -/
def execIrqMaskSet (ag : Agent) (hi : Bool) (v : W32) (s : State) : Out :=
  .next { s with irq := { s.irq with mask := s.irq.mask ||| (half64 hi v &&& s.maskBits ag) } }
/-- IRQ_MASK_CLR (R443). -/
def execIrqMaskClr (ag : Agent) (hi : Bool) (v : W32) (s : State) : Out :=
  .next { s with irq := { s.irq with mask := s.irq.mask &&& ~~~ (half64 hi v &&& s.maskBits ag) } }
/-- The test bits agent ag may change (R443). -/
def State.testBits (s : State) (ag : Agent) : W64 := if s.globalWriter ag && !s.inReset then BitVec.allOnes 64 else 0
/-- IRQ_TEST_SET (R443). -/
def execIrqTestSet (ag : Agent) (hi : Bool) (v : W32) (s : State) : Out :=
  .next { s with irq := { s.irq with test := s.irq.test ||| (half64 hi v &&& s.testBits ag) } }
/-- IRQ_TEST_CLR (R443). -/
def execIrqTestClr (ag : Agent) (hi : Bool) (v : W32) (s : State) : Out :=
  .next { s with irq := { s.irq with test := s.irq.test &&& ~~~ (half64 hi v &&& s.testBits ag) } }

/-! ### Doorbells (R316, R317) -/

/-- The doorbell bits a host agent may write: those of its letterboxes' domain (Table 11.2). -/
def State.hostBits (s : State) (ag : Agent) : BitVec 16 :=
  match ag with | .hostS => s.lbMask false | .hostN => s.lbMask true | _ => 0
def pmBits (ag : Agent) : BitVec 16 := if isPm ag then BitVec.allOnes 16 else 0

/-- DB_H2P_SET: a bit set in Hold is a wake source (R317, R406). -/
def h2pSet (s : State) (ag : Agent) (v : W32) : State :=
  let m := v.extractLsb' 0 16 &&& (s.hostBits ag ||| pmBits ag)
  if s.inReset ∨ m = 0 then s else { s with irq := { s.irq with h2p := s.irq.h2p ||| m } }.wakeSrc 1
def execDbH2pSet (ag : Agent) (v : W32) (s : State) : Out := .next (h2pSet s ag v)
/-- DB_H2P_CLR: Postmaster only (R316). -/
def h2pClr (s : State) (ag : Agent) (v : W32) : State :=
  if s.inReset then s else { s with irq := { s.irq with h2p := s.irq.h2p &&& ~~~ (v.extractLsb' 0 16 &&& pmBits ag) } }
def execDbH2pClr (ag : Agent) (v : W32) (s : State) : Out := .next (h2pClr s ag v)
/-- DB_P2H_SET: Postmaster only (R317). -/
def p2hSet (s : State) (ag : Agent) (v : W32) : State :=
  if s.inReset then s else { s with irq := { s.irq with p2h := s.irq.p2h ||| (v.extractLsb' 0 16 &&& pmBits ag) } }
def execDbP2hSet (ag : Agent) (v : W32) (s : State) : Out := .next (p2hSet s ag v)
/-- DB_P2H_CLR: the host of the letterbox's domain (R316). -/
def p2hClr (s : State) (ag : Agent) (v : W32) : State :=
  if s.inReset then s else { s with irq := { s.irq with p2h := s.irq.p2h &&& ~~~ (v.extractLsb' 0 16 &&& s.hostBits ag) } }
def execDbP2hClr (ag : Agent) (v : W32) (s : State) : Out := .next (p2hClr s ag v)
/-- DL_SET and DL_CLR: Postmaster only (R316). -/
def dlSet (s : State) (ag : Agent) (v : W32) : State :=
  if isPm ag && bitAt v 0 && !s.inReset then { s with irq := { s.irq with dl := true } } else s
def execDlSet (ag : Agent) (v : W32) (s : State) : Out := .next (dlSet s ag v)
def dlClr (s : State) (ag : Agent) (v : W32) : State :=
  if isPm ag && bitAt v 0 && !s.inReset then { s with irq := { s.irq with dl := false } } else s
def execDlClr (ag : Agent) (v : W32) (s : State) : Out := .next (dlClr s ag v)

/-! ### Safety and watchdog (R396 to R398) -/

/-- IRQ_SAFE_SW: Postmaster only. -/
def safeSw (s : State) (ag : Agent) (v : W32) : State := if isPm ag && bitAt v 0 && !s.inReset then s.safeEvt 8 else s
def execIrqSafeSw (ag : Agent) (v : W32) (s : State) : Out := .next (safeSw s ag v)

/-- IRQ_WDOG_WRITE: en stays once set; each write restarts the count (R396). -/
def wdogWrite (s : State) (ag : Agent) (v : W32) : State :=
  if pmOrHostS ag && !s.inReset then
    { s with irq := { s.irq with wdogEn := s.irq.wdogEn || bitAt v 31, wdogLim := v.extractLsb' 0 16, wdogFrom := some s.clk.bt } } else s
def execIrqWdogWrite (ag : Agent) (v : W32) (s : State) : Out := .next (wdogWrite s ag v)

/-- WDOG_KICK: 0x5A by the Postmaster restarts the count (R396). -/
def wdogKick (s : State) (ag : Agent) (v : W32) : State :=
  if isPm ag && v == 0x5A && !s.inReset then { s with irq := { s.irq with wdogFrom := some s.clk.bt } } else s
def execWdogKick (ag : Agent) (v : W32) (s : State) : Out := .next (wdogKick s ag v)

/-- WATCHDOG_EXPIRY: the count reaches its limit; wdog sets once and the count stops (R396). -/
def execWatchdogExpiry (s : State) : Out :=
  .next (match s.irq.wdogFrom with
    | some t =>
      if s.irq.wdogEn ∧ t + Nat.max 1 s.irq.wdogLim.toNat * msBt ≤ s.clk.bt ∧ !s.inReset then
        { s with irq := { s.irq with wdogFrom := none } }.safeEvt 6
      else s
    | none => s)

end Sys2Proof.Machine
end

