-- ==== Sys2Proof/Machine/PowerEv.lean ====
section
/-! DEFINITION. Power states: PWR_CMD, power-off and clears of units, Hold, wake, Off (R400 to R408, R224, R225). -/
namespace Sys2Proof.Machine

/-! ### The whole block in reset -/

/-- The pin as block reset or Off leaves it: only the pad latch stays (R224, R226, R408). -/
def State.latchOnly (s : State) (n : Nat) : Pin := { drv := s.driven n, oe := (s.pin n).oe }

/-- Every register, key, grant and sideband at its reset value; the pad latches, the waiting commands and the model's counter stay (R226, R408, R433). -/
def resetBlock (s : State) (off : Bool) : State :=
  { State.reset with
    pending := s.pending, free := s.free, inReset := true, dft := s.dft
    pwr := { State.reset.pwr with state := if off then .off else .run }
    pins := { State.reset.pins with pins := s.pins.pins.foldl (fun m e => SMap.set m e.1 (s.latchOnly e.1) {}) [] } }

/-- POWER_OFF: VDD is removed (R408). -/
def execPowerOff (s : State) : Out := .next (resetBlock s true)

/-! ### Units -/

/-- Depot d regains power: reset values, cleared by hardware, CLEARING (R404). -/
def depPowerOn (s : State) (d : Nat) : State :=
  let s := s.setDep d ({ ({} : Depot) with rst := (s.dep d).rst }).startClear
  { s with pwr := { s.pwr with clrDep := setBit s.pwr.clrDep d } }

/-- Depot d, OFF, loses power: its sideband asserts (R163, R181, R197, R403). -/
def depPowerOff (s : State) (d : Nat) : State :=
  let s := depSideband s d
  let s := s.setDep d { ({} : Depot) with powered := false, rst := (s.dep d).rst }
  { s with pwr := { s.pwr with clrDep := clrBit s.pwr.clrDep d }, sec := { s.sec with zdDeps := clrBit s.sec.zdDeps d } }

/-- Bank b regains power: cleared by hardware (R404). -/
def bankPowerOn (s : State) (b : Nat) : State :=
  { s with pwr := { s.pwr with bankPow := setBit s.pwr.bankPow b, bankClr := setBit s.pwr.bankClr b } }

/-- The contents of bank b are lost, or cleared to 0 with correct check bits (R403, R404). -/
def wipeBank (s : State) (b : Nat) : State :=
  { s with xch := { s.xch with
      mem := s.xch.mem.clear (131072 * b) 131072
      err := s.xch.err.filter fun e => e.1 / 32768 != b } }

def bankPowerOff (s : State) (b : Nat) : State :=
  let s := wipeBank s b
  { s with pwr := { s.pwr with bankPow := clrBit s.pwr.bankPow b, bankClr := clrBit s.pwr.bankClr b } }

/-- Lane l, OFF, loses power (R252, R403). -/
def lanePowerOff (s : State) (l : Nat) : State :=
  let s := s.setLane l { s.lane l with link := false, blockLock := false }
  laneSideband { s with pwr := { s.pwr with lanePow := clrBit s.pwr.lanePow l } } l

def lanePowerOn (s : State) (l : Nat) : State := { s with pwr := { s.pwr with lanePow := setBit s.pwr.lanePow l } }

/-! ### Transitions (R401 to R404) -/

/-- Every unit of the build is powered as state t asks (R400). -/
def State.unitsMatch (s : State) (t : PState) : Bool :=
  (List.range s.nDep).all (fun d => s.wantsDep d t == (s.dep d).powered) &&
  (List.range s.nBank).all (fun b => s.wantsBank b t == bitAt s.pwr.bankPow b) &&
  (List.range s.nLane).all (fun l => s.wantsLane l t == bitAt s.pwr.lanePow l)

/-- A transition to Run, Trim or Vigil is complete: the state, busy 0, done (R401). Hold is entered by HOLD_ENTERED. -/
def settlePower (s : State) : State :=
  match s.pwr.target with
  | none => s
  | some .hold => s
  | some t =>
    if s.unitsMatch t ∧ s.pwr.clrDep = 0 ∧ s.pwr.bankClr = 0 ∧ s.pwr.retention = false then
      { s with pwr := { s.pwr with state := t, target := none, busy := false } }.pwrEvt 1
    else s

/-- Power-on of the units state t powers and that are off (R404). -/
def powerOnAll (s : State) (t : PState) : State :=
  let s := (List.range s.nDep).foldl (fun s d => if s.wantsDep d t && !(s.dep d).powered then depPowerOn s d else s) s
  let s := (List.range s.nBank).foldl (fun s b => if s.wantsBank b t && !bitAt s.pwr.bankPow b then bankPowerOn s b else s) s
  (List.range s.nLane).foldl (fun s l => if s.wantsLane l t && !bitAt s.pwr.lanePow l then lanePowerOn s l else s) s

/-- Depots and lanes that state t does not power are drained and stopped (R97, R250, R403). -/
def stopUnits (s : State) (t : PState) : State :=
  let s := (List.range s.nDep).foldl (fun s d => if !s.wantsDep d t && s.depUp d then drainDepot s d else s) s
  (List.range s.nLane).foldl (fun s l => if !s.wantsLane l t && bitAt s.pwr.lanePow l then laneStop s l else s) s

/-- The transition to t starts: busy (R401). -/
def startPower (s : State) (t : PState) : State :=
  let s := { s with pwr := { s.pwr with target := some t, busy := true } }
  settlePower (powerOnAll (stopUnits s t) t)

/-- A thread, or a hart, is halted by debug (Table 15.3). -/
def State.anyHalted (s : State) : Bool :=
  s.dbg.haltA || s.dbg.haltB || s.deps.any fun e => e.2.threads.any fun h => h.2.state == .halted

/-- Lanes named in vlanes. -/
def State.vlaneCount (s : State) : Nat := ((List.range 8).filter fun l => bitAt s.pwr.vlanes l).length

/-- The transitions of Table 15.3 that a write of PWR_CMD may start. -/
def State.pwrListed (s : State) : PState → Bool
  | .run => s.pwr.state == .trim || s.pwr.state == .vigil
  | .trim => s.pwr.state == .run || s.pwr.state == .trim || s.pwr.state == .vigil
  | .vigil => (s.pwr.state == .run || s.pwr.state == .trim) && decide (s.vlaneCount ≤ 2)
  | .hold => (s.pwr.state == .run || s.pwr.state == .trim || s.pwr.state == .vigil) && !s.anyHalted
  | .off => false

/-- A write of PWR_CMD with target t by agent ag (R401, R425). -/
def pwrCmd (s : State) (ag : Agent) (t : PState) : State :=
  if !s.globalWriter ag || s.inReset then s
  else if s.pwr.busy || !s.pwrListed t || (t == .hold && !isPm ag) then s.pwrEvt 3
  else startPower (if t = .hold then { s with pwr := { s.pwr with holdFrom := s.pwr.state, wakePend := 0 } } else s) t

/-- PWR_CMD_RUN. -/
def execPwrCmdRun (ag : Agent) (s : State) : Out := .next (pwrCmd s ag .run)
/-- PWR_CMD_TRIM. -/
def execPwrCmdTrim (ag : Agent) (s : State) : Out := .next (pwrCmd s ag .trim)
/-- PWR_CMD_VIGIL. -/
def execPwrCmdVigil (ag : Agent) (s : State) : Out := .next (pwrCmd s ag .vigil)
/-- PWR_CMD_HOLD (R405). -/
def execPwrCmdHold (ag : Agent) (s : State) : Out := .next (pwrCmd s ag .hold)

/-- A write of PWR_DEP_EN or PWR_BANK_EN; in Trim it acts at once (R401, R402). -/
def maskWrite (s : State) (ag : Agent) (m : TrimMask) (v : W32) : State :=
  if !s.globalWriter ag || s.inReset then s else
  let p := match m with
    | .depots => { s.pwr with depEn := v }
    | .banksLo => { s.pwr with bankEn := s.pwr.bankEn.extractLsb' 32 32 ++ v }
    | .banksHi => { s.pwr with bankEn := v ++ s.pwr.bankEn.extractLsb' 0 32 }
  let s := { s with pwr := p }
  if (s.pwr.state = .trim ∧ s.pwr.busy = false) ∨ s.pwr.target = some .trim then startPower s .trim else s

/-- TRIM_MASK_WRITE. -/
def execTrimMaskWrite (ag : Agent) (m : TrimMask) (v : W32) (s : State) : Out := .next (maskWrite s ag m v)

/-- UNIT_POWER_OFF: a drained depot, a stopped lane or an idle bank that the target does not power loses power (R403). -/
def execUnitPowerOff (u : PwrUnit) (s : State) : Out :=
  .next (match s.pwr.target with
    | none => s
    | some t =>
      match u with
      | .depot d =>
        if d < s.nDep ∧ !s.wantsDep d t ∧ (s.dep d).powered ∧ (s.dep d).state = .off then settlePower (depPowerOff s d) else s
      | .bank b =>
        if b < s.nBank ∧ !s.wantsBank b t ∧ bitAt s.pwr.bankPow b then settlePower (bankPowerOff s b) else s
      | .lane l =>
        if l < s.nLane ∧ !s.wantsLane l t ∧ bitAt s.pwr.lanePow l ∧ s.laneIsOff l then settlePower (lanePowerOff s l) else s)

/-- A clear has finished: clr_done when it was the last that the transition started (R404). -/
def clearDone (s : State) (was : Bool) : State :=
  settlePower (if was ∧ s.pwr.clrDep = 0 ∧ s.pwr.bankClr = 0 then s.pwrEvt 0 else s)

/-- UNIT_CLEAR_DONE: a depot leaves CLEARING and is OFF; a bank accepts accesses (R98, R404, R424). -/
def execUnitClearDone (u : PwrUnit) (s : State) : Out :=
  .next (match u with
    | .depot d =>
      if s.depUp d ∧ (s.dep d).state = .clearing then
        let was := bitAt s.pwr.clrDep d
        let s := { s with pwr := { s.pwr with clrDep := clrBit s.pwr.clrDep d }, sec := { s.sec with zdDeps := clrBit s.sec.zdDeps d } }
        clearDone (depotOff s d false) was
      else s
    | .bank b =>
      if b < s.nBank ∧ bitAt s.pwr.bankClr b ∧ s.clk.fHz ≠ 0 then
        clearDone { s with pwr := { s.pwr with bankClr := clrBit s.pwr.bankClr b } } true
      else s
    | .lane _ => s)

/-! ### Hold (R405, R406, R224, R225) -/

/-- The pin as entry to Hold leaves it: the latch keeps level and enable, queues are discarded and counted (R224). -/
def pinHold (s : State) (n : Nat) : State :=
  let p := s.pin n
  s.setPin n { p.discard (p.eq.length + p.eqX.length + p.serq.length) with
    drv := s.driven n, eq := [], eqX := [], serq := [], serOn := false, serWord := none, wordJ := none, emit := none, fn := .hold }

/-- The pin takes its function back on return from Hold (R225). -/
def pinReturn (s : State) (n : Nat) : State :=
  if (s.pin n).fsel = 0 then s
  else
    let s := s.handover n false
    s.setPin n { s.pin n with hoHeld := s.clk.eHz == 0 }

/-- At a wake event: cause, time, wake; the block returns towards the state Hold was entered from, its units regain power, and the pins take their functions back (R225, R406). -/
def wakeUp (s : State) : State :=
  let s := { s with pwr := { s.pwr with
    wakeCause := s.pwr.wakePend &&& s.pwr.wakeEn, wakeT := s.bt64, wakePend := 0
    state := s.pwr.holdFrom, target := some s.pwr.holdFrom, busy := true } }
  let s := powerOnAll (s.pwrEvt 2) s.pwr.holdFrom
  s.pins.pins.foldl (fun s e => pinReturn s e.1) s

/-- A wake source that is pending and enabled (R406). -/
def State.wakeReady (s : State) : Bool := s.pwr.wakePend &&& s.pwr.wakeEn != 0

/-- HOLD_ENTERED: units are off, both harts are in WFI: clocks gate, retention; a pending wake source ends Hold at once (R405). -/
def execHoldEntered (s : State) : Out :=
  .next (if s.pwr.target = some .hold ∧ s.unitsMatch .hold ∧ !s.anyHalted ∧ !s.inReset then
    let s := (s.setHart 0 { s.hart 0 with wfi := true }).setHart 1 { s.hart 1 with wfi := true }
    let s := s.pins.pins.foldl (fun s e => pinHold s e.1) { s with pins := { s.pins with xord := [] } }
    let s := { s with pwr := { s.pwr with state := .hold, target := none, busy := false, retention := true } }.pwrEvt 1
    if s.wakeReady then wakeUp s else s
  else s)

/-- WAKE: source src is pending and enabled in Hold (R406). -/
def execWake (src : Fin 4) (s : State) : Out :=
  .next (if s.pwr.state = .hold ∧ bitAt s.pwr.wakePend src.val ∧ bitAt s.pwr.wakeEn src.val then wakeUp s else s)

/-- PM_RETENTION_EXIT: with its clocks back, the Postmaster domain leaves retention and both harts leave WFI (R406). -/
def execPmRetentionExit (s : State) : Out :=
  .next (if s.pwr.retention ∧ s.pwr.state ≠ .hold ∧ s.clk.eHz ≠ 0 ∧ s.clk.fHz ≠ 0 ∧ s.clk.pHz ≠ 0 ∧ !s.inReset then
    let s := (s.setHart 0 { s.hart 0 with wfi := false }).setHart 1 { s.hart 1 with wfi := false }
    settlePower { s with pwr := { s.pwr with retention := false } }
  else s)

end Sys2Proof.Machine
end

