-- ==== Sys2Proof/Machine/SecEv.lean ====
section
/-! DEFINITION. Security: the ROM lock, domains, keys, the AES engine, the unlock token, escalation to level 3 (R409 to R417, R423, R424). -/
namespace Sys2Proof.Machine

/-! ### Lifecycle, lock, domains -/

/-- SEC_STAT.lc (Table 15.5). -/
def State.lc (s : State) : Nat := if s.straps.lifecycle = 0 then 0 else if s.straps.lifecycle = 3 then 2 else 1

/-- SEC_ROMLOCK (R416): Postmaster only. -/
def romLock (s : State) (ag : Agent) (v : W32) : State :=
  if isPm ag && bitAt v 0 && !s.inReset then { s with sec := { s.sec with romlock := true } } else s
/-- ROM_LOCK. -/
def execRomLock (ag : Agent) (v : W32) (s : State) : Out := .next (romLock s ag v)

/-- A pin of group g that the change to v makes secure while host normal or a normal depot owns it (R413). -/
def State.pinDomBad (s : State) (g : Nat) (v : Word) : Bool :=
  (List.range 16).any fun b =>
    let p := s.pin (16 * g + b)
    bitAt (s.sec.pinDom.get g 0) b && !bitAt v b && (p.ownKind == 2 || (p.ownKind == 3 && s.depNormal p.ownDep.toNat))

/-- A depot whose domain the change to v alters while it is neither OFF nor powered off (R413). -/
def State.depDomBad (s : State) (v : W32) : Bool :=
  (List.range s.nDep).any fun d => bitAt v d != bitAt s.sec.depDom d && (s.dep d).powered && (s.dep d).state != .off

/-- The SEC unit with domain register off set to v; unchanged where off names none (Table 15.10). -/
def Sec.setDomain (x : Sec) (off : Nat) (v : W32) : Sec :=
  if off = 0x30 then { x with depDom := v }
  else if off = 0x34 then { x with lbDom := v.extractLsb' 0 16 &&& 0xFFF8 }
  else if off = 0x38 then { x with zdDep := v }
  else if 0x40 ≤ off ∧ off < 0xC0 then
    let r := (off - 0x40) / 8
    if (off - 0x40) % 8 = 0 then { x with xregLo := x.xregLo.set r (v &&& 0xE03FF800) 0 } else { x with xregHi := x.xregHi.set r (v &&& 0xFFF) 0 }
  else if 0xC0 ≤ off ∧ off < 0x180 then { x with pinDom := x.pinDom.set ((off - 0xC0) / 4) (v.extractLsb' 0 16) 0 }
  else x

/-- Domain register off belongs to a unit the build has: a pin group register needs its pins (R4). -/
def State.domainHere (s : State) (off : Nat) : Bool := !(decide (0xC0 ≤ off ∧ off < 0x180)) || decide (16 * ((off - 0xC0) / 4) < s.nPin)

/-- A write of a domain register of the SEC window (R413): by host secure and the Postmaster; a refused change sets cfg_err. -/
def domainWrite (s : State) (ag : Agent) (off : Nat) (v : W32) : State :=
  if !pmOrHostS ag || s.inReset || off % 4 != 0 || !s.domainHere off then s
  else
    let x := s.sec.setDomain off v
    if x = s.sec then s
    else if s.sec.esc || (off == 0x30 && s.depDomBad v) || (decide (0xC0 ≤ off ∧ off < 0x180) && s.pinDomBad ((off - 0xC0) / 4) (v.extractLsb' 0 16)) then
      s.secEvt 1
    else { s with sec := x }
/-- SEC_DOMAIN_WRITE. -/
def execSecDomainWrite (ag : Agent) (off : Nat) (v : W32) (s : State) : Out := .next (domainWrite s ag off v)

/-! ### Image key and AES (R415, R417) -/

/-- SEC_IKEY[i] (R415): host secure, in WAIT_GO, not in Returned. -/
def ikeyWrite (s : State) (ag : Agent) (i : Nat) (v : W32) : State :=
  if ag = .hostS ∧ s.boot.phase = .waitGo ∧ s.lc ≠ 2 ∧ i < 8 ∧ !s.inReset then
    let m : BitVec 256 := BitVec.ofNat 256 ((2 ^ 32 - 1) * 2 ^ (32 * i))
    { s with sec := { s.sec with ikey := (s.sec.ikey &&& ~~~ m) ||| BitVec.ofNat 256 (v.toNat * 2 ^ (32 * i)), ikeySet := true } }
  else s
/-- IKEY_WRITE. -/
def execIkeyWrite (ag : Agent) (i : Nat) (v : W32) (s : State) : Out := .next (ikeyWrite s ag i v)

/-- The Postmaster hart of an agent identity runs in machine mode. -/
def State.machineMode (s : State) : Agent → Bool
  | .pmA => (s.hart 0).priv == .m
  | .pmB => (s.hart (if s.straps.pmTwin then 0 else 1)).priv == .m
  | _ => false

/-- SEC_AES_CTL.go (R417): ignored while busy. -/
def aesGo (s : State) (ag : Agent) : State :=
  if s.machineMode ag && !s.inReset && s.sec.aesStatus != 1 then { s with sec := { s.sec with aesStatus := 1 } } else s
/-- AES_GO. -/
def execAesGo (ag : Agent) (s : State) : Out := .next (aesGo s ag)

/-- The offset in SRAM of a Postmaster address. -/
def sramOff (a : W32) : Nat := fld a 0 20

/-- AES_DONE: the buffer is decrypted in place; ok or tag failed (R417). -/
def execAesDone (s : State) : Out :=
  .next (if s.sec.aesStatus = 1 ∧ !s.inReset then
    let a := sramOff s.sec.aesAddr
    let n := Nat.min s.sec.aesLen.toNat (0x100000 - a)
    let r := Config.aesGcm s.sec.ikey s.sec.aesIv (s.pm.sram.bytes (sramOff s.sec.aesAad) 32) (s.pm.sram.bytes a n) s.sec.aesTag
    { s with
      pm := { s.pm with sram := s.pm.sram.writeBytes a ((List.range n).map fun i => r.1[i]?.getD 0) }
      sec := { s.sec with aesStatus := if r.2 then 2 else 3 } }
  else s)

/-! ### Levels (R419, R421, R424) -/

/-- A thread debug held runs again: RUNNING, or BLOCKED with its operation. -/
def Thread.unhalt (h : Thread) : Thread :=
  if h.state = .halted then { h with state := .running }
  else if h.state = .stopping ∧ h.stopTo = .halted then { h with state := if h.pend = .none then .running else .blocked, stopTo := .stopped }
  else { h with stepping := false }

/-- Debug at level v may hold threads of depot d (Table 15.6). -/
def State.holds (s : State) (v d : Nat) : Bool := v == 3 || (v == 2 && s.depNormal d)

/-- Words [b, b + n) of exchange memory are all normal; regions start and end at multiples of 2,048 words. -/
def State.rangeNormal (s : State) (b n : Nat) : Bool :=
  (List.range (n / 2048 + 2)).all fun i => s.wordNormal (Nat.min (b + 2048 * i) (b + n - 1) % 2 ^ 22)

/-- Trace fields of DBG_TRC_CTL. -/
def trcDepot (v : W32) : Nat := fld v 24 5
def trcRecs (v : W32) : Nat := 2 ^ fld v 20 4
def trcPeriod (v : W32) : Nat := Nat.max 1 (fld v 0 16)

/-- Trace into ring base b with control v is covered at level lv (R422). -/
def State.trcOk (s : State) (lv : Nat) (v : W32) (b : Nat) : Bool :=
  lv == 3 || (decide (1 ≤ lv) && s.depNormal (trcDepot v) && s.rangeNormal b (4 * trcRecs v))

/-- The level becomes v: level_chg; a fall lets go of what it no longer covers (R421). -/
def setLevel (s : State) (v : Nat) : State :=
  let old := s.dbg.level.toNat
  let s := { s with dbg := { s.dbg with level := BitVec.ofNat 2 v } }.secEvt 2
  if old ≤ v then s else
  let s := (List.range 32).foldl (fun s d => if s.holds v d || (s.dep d).threads == [] then s
    else s.setDep d { s.dep d with
      threads := (List.range 128).foldl (fun m i => SMap.set m i (SMap.get m i (Thread.reset i)).unhalt (Thread.reset i)) (s.dep d).threads }) s
  { s with dbg := { s.dbg with
      haltA := s.dbg.haltA && v == 3, haltB := s.dbg.haltB && v == 3
      brkDep := if v < 2 then 0 else s.dbg.brkDep &&& s.sec.depDom
      trcCtl := if s.trcOk v s.dbg.trcCtl s.dbg.trcBase.toNat then s.dbg.trcCtl else clrBit s.dbg.trcCtl 31 } }

/-- Pair-words of region r read 0 with correct check bits (R424). -/
def wipeRegion (s : State) (r : Nat) : State :=
  let lo := 2048 * fld (s.sec.xregLo.get r 0) 11 11
  let n := 2048 * fld (s.sec.xregHi.get r 0) 0 12
  { s with xch := { s.xch with mem := s.xch.mem.clear (2 * lo) (2 * n), err := s.xch.err.filter fun e => decide (2 * e.1 < lo ∨ lo + n ≤ 2 * e.1) } }

/-- Region r is enabled, secure and has zd set. -/
def State.zdRegion (s : State) (r : Nat) : Bool :=
  bitAt (s.sec.xregLo.get r 0) 31 && !bitAt (s.sec.xregLo.get r 0) 30 && bitAt (s.sec.xregLo.get r 0) 29 && fld (s.sec.xregHi.get r 0) 0 12 != 0

/-- Depot d starts its zeroisation (R424): drained, or cleared at once where it is OFF. -/
def zeroDepot (s : State) (d : Nat) : State :=
  let s := { s with sec := { s.sec with zdDeps := setBit s.sec.zdDeps d } }
  match (s.dep d).state with
  | .run => drainDepot s d
  | .off => s.setDep d (s.dep d).startClear
  | _ => s

/-- Every raise to level 3 zeroises first (R424). -/
def startEsc (s : State) : State :=
  let rs := (List.range 16).foldl (fun (m : BitVec 16) r => if s.zdRegion r then setBit m r else m) 0
  let s := { s with sec := { s.sec with
    esc := true, lowerTo := none, ikey := 0, ikeySet := false
    aesStatus := 0, aesAddr := 0, aesLen := 0, aesAad := 0, aesIv := 0, aesTag := 0, zdRegs := rs } }
  let s := (List.range 16).foldl (fun s r => if s.zdRegion r then wipeRegion s r else s) s
  (List.range s.nDep).foldl (fun s d =>
    if bitAt s.sec.zdDep d && !s.depNormal d && (s.dep d).powered then zeroDepot s d else s) s

/-- The level is raised to v (R419, R423): to 3 through zeroisation. -/
def raiseLevel (s : State) (v : Nat) : State :=
  if v ≤ s.dbg.level.toNat then s
  else if v = 3 then (if s.sec.esc then s else startEsc s)
  else setLevel s v

/-- ZEROISATION_DONE: everything is cleared; the level becomes 3, or the lower level asked for meanwhile (R419, R424). -/
def execZeroisationDone (s : State) : Out :=
  .next (if s.sec.esc ∧ ((List.range s.nDep).all fun d => !bitAt s.sec.zdDeps d || (s.dep d).state == .off) ∧ !s.inReset then
    let s := (List.range s.nDep).foldl (fun s d =>
      if bitAt s.sec.zdDeps d then s.setDep d { s.dep d with edm := [], edmErr := [], code := [], codeErr := [] } else s) s
    let low := s.sec.lowerTo
    let s := { s with sec := { s.sec with esc := false, lowerTo := none, zdDeps := 0, zdRegs := 0 } }
    let s := setLevel (s.dbgEvt 2) 3
    match low with | some v => setLevel s v.toNat | none => s
  else s)

/-! ### The unlock token (R423) -/

/-- SEC_DBG_CTL := v (R423): by the Postmaster or the TAP; refused outside Deployed, under dbg_lock, and for a level other than 2 and 3. -/
def challengeReq (s : State) (src : DbgSrc) (v : W32) : State :=
  if (src = .pm ∨ src = .tap) ∧ bitAt v 31 ∧ !s.inReset then
    if s.lc ≠ 1 ∨ s.sec.dbgLock ∨ fld v 0 2 < 2 then s.secEvt 1
    else
      { s with sec := { s.sec with
          chal := Config.challenge s.free, chalPend := true, chalLevel := v.extractLsb' 0 2, chalT := s.clk.bt } }.tick1
  else s
/-- DBG_CHALLENGE_REQ. -/
def execDbgChallengeReq (src : DbgSrc) (v : W32) (s : State) : Out := .next (challengeReq s src v)

/-- SEC_DBG_RESP[i] := v; word 23 sets resp (R423). -/
def responseWrite (s : State) (src : DbgSrc) (i : Nat) (v : W32) : State :=
  if src ≠ .hostN ∧ i < 24 ∧ !s.inReset then
    let s := { s with sec := { s.sec with resp := s.sec.resp.set i v 0 } }
    if i = 23 then s.secEvt 3 else s
  else s
/-- DBG_RESPONSE_WRITE. -/
def execDbgResponseWrite (src : DbgSrc) (i : Nat) (v : W32) (s : State) : Out := .next (responseWrite s src i v)

/-- A failed grant: the challenge consumed, the failure counted, the lock at the fourth (R423). -/
def grantFail (s : State) : State :=
  let n := if s.sec.fails.toNat < 4 then s.sec.fails + 1 else s.sec.fails
  { s with sec := { s.sec with chalPend := false, fails := n, dbgLock := s.sec.dbgLock || n == 4 } }.secEvt 4

/-- SEC_DBG_GRANT := ok or fail (R423): the Postmaster in machine mode. -/
def grant (s : State) (ag : Agent) (ok : Bool) : State :=
  if !s.machineMode ag || s.inReset then s
  else if ok && s.sec.chalPend && decide (s.clk.bt ≤ s.sec.chalT + 60 * secBt) then
    raiseLevel { s with sec := { s.sec with chalPend := false } } s.sec.chalLevel.toNat
  else grantFail s
/-- DBG_GRANT_OK. -/
def execDbgGrantOk (ag : Agent) (s : State) : Out := .next (grant s ag true)
/-- DBG_GRANT_FAIL. -/
def execDbgGrantFail (ag : Agent) (s : State) : Out := .next (grant s ag false)

end Sys2Proof.Machine
end

