-- ==== Sys2Proof/Machine/DbgEv.lean ====
section
/-! DEFINITION. The debug unit: level, halts and steps, the debug window, trace, the TAP reset (R406, R418 to R422). -/
namespace Sys2Proof.Machine

/-- The level a source acts at: host secure and the TAP act as the debug agent (R418, R420). -/
def State.srcLevel (s : State) : DbgSrc → Nat
  | .hostS => s.dbg.level.toNat
  | .tap => s.dbg.level.toNat
  | _ => 0

/-- A write of DBG_LEVEL (R419). -/
def levelWrite (s : State) (src : DbgSrc) (v : W32) : State :=
  let x := fld v 0 2
  if (src ≠ .hostS ∧ src ≠ .tap) ∨ s.inReset then s
  else if x ≤ s.dbg.level.toNat then
    if s.sec.esc then { s with sec := { s.sec with lowerTo := some (BitVec.ofNat 2 x) } }
    else if x = s.dbg.level.toNat then s else setLevel s x
  else if s.pwr.state = .hold ∨ (s.lc = 1 ∧ x ≠ 1) then s.dbgEvt 1
  else raiseLevel s x
/-- DBG_LEVEL_WRITE. -/
def execDbgLevelWrite (src : DbgSrc) (v : W32) (s : State) : Out := .next (levelWrite s src v)

/-- DBG_CTL_WAKE: a wake source at level 2 or 3 (R406). -/
def ctlWake (s : State) (src : DbgSrc) : State := if 2 ≤ s.srcLevel src ∧ !s.inReset then s.wakeSrc 3 else s
def execDbgCtlWake (src : DbgSrc) (s : State) : Out := .next (ctlWake s src)

/-- The source has the rights I on depot d, which answers (R420, Table 15.6). -/
def State.invasive (s : State) (src : DbgSrc) (d : Nat) : Bool := s.depUp d && s.holds (s.srcLevel src) d

/-- A thread that the debug window can name (R384). -/
def State.dbgThread (s : State) (src : DbgSrc) (t : Tid) : Bool := s.invasive src (depOf t) && !s.follower t

/-- A command of DBG_TCMD: ignored without the rights, refused for a thread of a frozen pair (R388). -/
def dbgCmd (s : State) (src : DbgSrc) (t : Tid) (f : State → State) : State :=
  if !s.dbgThread src t then s else if s.frozen t then s.dbgEvt 1 else f s

/-- DBG_TCMD HALT (R79, R421). -/
def dbgHalt (s : State) (src : DbgSrc) (t : Tid) : State :=
  dbgCmd s src t fun s =>
    if (s.thr t).state = .running ∨ (s.thr t).state = .blocked then
      stopThr (s.setThr t { s.thr t with stepping := false }) t .halted
    else s
/-- DBG_HALT. -/
def execDbgHalt (src : DbgSrc) (t : Tid) (s : State) : Out := .next (dbgHalt s src t)

/-- DBG_TCMD RESUME (R421). -/
def dbgResume (s : State) (src : DbgSrc) (t : Tid) : State :=
  dbgCmd s src t fun s =>
    if (s.thr t).state = .halted then s.setThr t { s.thr t with state := .running } else s
/-- DBG_RESUME. -/
def execDbgResume (src : DbgSrc) (t : Tid) (s : State) : Out := .next (dbgResume s src t)

/-- DBG_TCMD STEP: the instruction at the PC issues and the thread halts again when it completes (R421). -/
def dbgStep (s : State) (src : DbgSrc) (t : Tid) : State :=
  dbgCmd s src t fun s =>
    if (s.thr t).state = .halted ∧ s.depIssues (depOf t) then
      let s := issueAtPc t (s.setThr t { s.thr t with state := .running, stepping := true })
      if (s.thr t).pend = .none then stopComplete t s else s
    else s
/-- DBG_STEP. -/
def execDbgStep (src : DbgSrc) (t : Tid) (s : State) : Out := .next (dbgStep s src t)

/-! ### Postmaster harts -/

/-- The source may halt harts: level 3, the Postmaster domain awake (R420). -/
def State.pmDebug (s : State) (src : DbgSrc) (h : Nat) : Bool :=
  s.srcLevel src == 3 && decide (h < 2) && !s.inReset && s.pwr.state != .hold && s.pwr.state != .off && !s.pwr.retention

/-- Hart h is halted; a lockstep pair halts and resumes as one (R338). -/
def State.hartHalted (s : State) (h : Nat) : Bool := if h = 0 ∨ s.straps.pmTwin then s.dbg.haltA else s.dbg.haltB
def setHalt (s : State) (h : Nat) (v : Bool) : State :=
  { s with dbg := { s.dbg with
      haltA := if h = 0 ∨ s.straps.pmTwin then v else s.dbg.haltA
      haltB := if h = 1 ∨ s.straps.pmTwin then v else s.dbg.haltB } }

/-- DBG_PMCMD halt (R420). -/
def pmHalt (s : State) (src : DbgSrc) (h : Nat) : State := if s.pmDebug src h && !s.hartHalted h then (setHalt s h true).dbgEvt 0 else s
def execDbgPmHalt (src : DbgSrc) (h : Nat) (s : State) : Out := .next (pmHalt s src h)
/-- DBG_PMCMD resume. -/
def pmResume (s : State) (src : DbgSrc) (h : Nat) : State := if s.pmDebug src h && s.hartHalted h then setHalt s h false else s
def execDbgPmResume (src : DbgSrc) (h : Nat) (s : State) : Out := .next (pmResume s src h)

/-- DBG_PMCMD step: one RISC-V instruction, whose fetch and meaning no row of the table gives; the new pc and the register it writes are free values. -/
def pmStep (s : State) (src : DbgSrc) (h : Nat) : State :=
  if s.pmDebug src h && s.hartHalted h then
    let k := if s.straps.pmTwin then 0 else h
    let x := s.hart k
    let r := (Config.word32 s.free).toNat % 32
    ((s.setHart k { x with
        pc := Config.hartNextPc s.free x.pc
        x := if r = 0 then x.x else x.x.set r (Config.word32 (s.free + 1)) 0 }).tick1.tick1).dbgEvt 0
  else s
def execDbgPmStep (src : DbgSrc) (h : Nat) (s : State) : Out := .next (pmStep s src h)

/-! ### The debug window -/

/-- The thread DBG_WIN_CTL selects. -/
def State.winTid (s : State) : Tid := s.dbg.winCtl.extractLsb' 0 12

/-- DBG_TREG[i] of thread h (Table 15.12). -/
def Thread.treg (t : Tid) (h : Thread) (i : Nat) : Word :=
  if i < 16 then h.regN i
  else if i < 19 then (h.acc 0 >>> (16 * (i - 16))).setWidth 16
  else if i < 22 then (h.acc 1 >>> (16 * (i - 19))).setWidth 16
  else if i = 22 then h.pc
  else if i < 52 then (h.special t (i - 23)).getD 0
  else if i < 55 then (h.pm[0] >>> (16 * (i - 52))).setWidth 16
  else if i < 58 then (h.pm[1] >>> (16 * (i - 55))).setWidth 16
  else 0

/-- x with its 16-bit part j replaced. -/
def putPart {n : Nat} (x : BitVec n) (j : Nat) (v : Word) : BitVec n :=
  (x &&& ~~~ ((0xFFFF#n) <<< (16 * j))) ||| ((v.setWidth n) <<< (16 * j))

/-- DBG_TREG[i] := v. -/
def Thread.setTreg (h : Thread) (i : Nat) (v : Word) : Thread :=
  if i < 16 then h.setRegN i v
  else if i < 19 then h.setAcc 0 (putPart (h.acc 0) (i - 16) v)
  else if i < 22 then h.setAcc 1 (putPart (h.acc 1) (i - 19) v)
  else if i = 22 then { h with pc := v }
  else if i < 52 then (h.setSpecial (i - 23) v).getD h
  else if i < 55 then { h with pm := h.pm.set 0 (putPart h.pm[0] (i - 52) v) }
  else if i < 58 then { h with pm := h.pm.set 1 (putPart h.pm[1] (i - 55) v) }
  else h

/-- A read or write of DBG_TREG[i] (R420, R421). -/
def tregAccess (s : State) (src : DbgSrc) (i : Nat) (w : Option W32) : State :=
  let t := s.winTid
  let h := s.thr t
  if !s.dbgThread src t then { s with rdata := if w.isSome then s.rdata else 0 }
  else if h.state ≠ .halted then { s with rdata := if w.isSome then s.rdata else 0 }.dbgEvt 1
  else match w with
    | some v => s.setThr t (h.setTreg i (v.extractLsb' 0 16))
    | none => { s with rdata := (h.treg t i).setWidth 32 }
/-- DBG_TREG_ACCESS. -/
def execDbgTregAccess (src : DbgSrc) (i : Nat) (w : Option W32) (s : State) : Out := .next (tregAccess s src i w)

/-- A read or write of DBG_SLICE[a] (R420, Table 15.12). A read corrects and counts a single-bit error (R85); of a word with a double-bit error the manual states no value for debug: a free one. -/
def sliceAccess (s : State) (src : DbgSrc) (a : Nat) (w : Option W32) : State :=
  let t := s.winTid
  let h := s.thr t
  let D := s.dep (depOf t)
  match (if s.dbgThread src t then sliceWord t h a else none), w with
  | none, none => { s with rdata := 0 }
  | none, some _ => s
  | some x, none =>
    if D.edmErr.get x none = some .double then { s.tick1 with rdata := (Config.word16 s.free).setWidth 32 }
    else { s.setDep (depOf t) (D.readCount [x]) with rdata := (D.word x).setWidth 32 }
  | some x, some v =>
    if h.state = .halted ∨ h.state = .idle then s.setDep (depOf t) (D.writeWords [(x, v.extractLsb' 0 16)]) else s
/-- DBG_SLICE_ACCESS. -/
def execDbgSliceAccess (src : DbgSrc) (a : Nat) (w : Option W32) (s : State) : Out := .next (sliceAccess s src a w)

/-- A read of DBG_CODE_DATA: the instruction at caddr; caddr advances (R420). -/
def codeDataRead (s : State) (src : DbgSrc) : State :=
  let c := fld s.dbg.winCtl 12 16
  let d := depOf s.winTid
  if s.invasive src d then
    { s with
      rdata := if c ≤ 0xBFFF then (s.dep d).codeWord c else 0
      dbg := { s.dbg with winCtl := (s.dbg.winCtl &&& 0xFFF) ||| BitVec.ofNat 32 ((c + 1) % 65536 * 4096) } }
  else { s with rdata := 0 }
/-- DBG_CODE_DATA_READ. -/
def execDbgCodeDataRead (src : DbgSrc) (s : State) : Out := .next (codeDataRead s src)

/-! ### Thread status and trace -/

def TState.code : TState → Nat
  | .idle => 0 | .running => 1 | .blocked => 2 | .stopping => 3 | .stopped => 4 | .halted => 5 | .faulted => 6

def TFault.code : TFault → Nat
  | .none => 0 | .illegal => 1 | .sliceRange => 2 | .codeRange => 3 | .codeWrite => 4 | .eccData => 5 | .eccCode => 6
  | .xbus => 7 | .eccXch => 8 | .pinOwner => 9 | .loopDepth => 10 | .chuteTarget => 11

/-- DEP_TSTAT.reason (Table 3.11). -/
def Pend.reason : Pend → Nat
  | .none => 0 | .xload _ _ _ => 1 | .xstore _ => 1 | .exact _ _ => 2
  | .recv _ (.eng _ _) _ => 3 | .sende _ _ _ _ => 4 | .recv _ (.long _) _ => 5 | .sendeBuf _ _ _ _ => 6 | .sendeLong _ _ _ _ _ => 6
  | .acq _ _ => 7 | .waitp _ => 8 | .pedge _ _ _ => 9 | .pser _ _ => 9 | .pdes _ _ => 9 | .rel _ => 10

/-- The leader thread whose status a thread number reads (R80, R384). -/
def State.leader (s : State) (t : Tid) : Tid := if s.follower t then tidOf (depOf t) (idxOf t - 8) else t

/-- The pc of DEP_TSTAT (Table 3.11): the instruction last issued while RUNNING or BLOCKED; else the one issued next, which for a STOPPING thread follows the operation in flight. -/
def Thread.statPc (h : Thread) : Word :=
  if h.state = .running ∨ h.state = .blocked then h.lastPc
  else if h.state = .stopping ∧ h.pend.inFlight then (h.advance .seq).pc else h.pc

/-- DEP_TSTAT (Table 3.11). No command carries the ECLK cycle of an issue, so express takes every thread as having last issued at least 4 cycles ago (DESIGN CHOICE). -/
def State.tstat (s : State) (t : Tid) : W32 :=
  let t := s.leader t
  let h := s.thr t
  let e := engOf t
  let i := idxOf t % 8
  let lent := (List.range 8).any fun k => k != i && slotWinner s (depOf t) e k [] == some i
  BitVec.ofNat 32 (h.state.code * 2 ^ 29 + (if h.state = .blocked then h.pend.reason else 0) * 2 ^ 25 + h.tfault.code * 2 ^ 20
    + b2n h.boost.isSome * 2 ^ 19 + b2n lent * 2 ^ 18
    + h.statPc.toNat)

/-- DBG_TRC_CTL := v with en set: trace starts, or is refused (R422). -/
def traceEnable (s : State) (src : DbgSrc) (v : W32) : State :=
  let lv := s.srcLevel src
  if lv = 0 ∨ s.inReset then s
  else if s.trcOk lv v s.dbg.trcBase.toNat ∧ fld v 20 4 ≤ 12 then
    { s with dbg := { s.dbg with trcCtl := setBit (v &&& 0x9FF0FFFF) 31, trcIdx := 0, trcNext := s.rot + trcPeriod v } }
  else { s with dbg := { s.dbg with trcCtl := clrBit (v &&& 0x9FF0FFFF) 31 } }.dbgEvt 1
/-- TRACE_ENABLE. -/
def execTraceEnable (src : DbgSrc) (v : W32) (s : State) : Out := .next (traceEnable s src v)

/-- TRACE_SAMPLE: period rotations have passed: the next thread of the depot is sampled into the ring (R422). -/
def execTraceSample (s : State) : Out :=
  let v := s.dbg.trcCtl
  .next (if bitAt v 31 ∧ s.dbg.trcNext ≤ s.rot ∧ !s.inReset then
    let n := s.dbg.trcIdx
    let t := tidOf (trcDepot v) (n % 128)
    let st := if s.depUp (trcDepot v) then s.tstat t else 0
    let w := s.dbg.trcBase.toNat + 4 * (n % trcRecs v)
    let s := if !s.bankOn w || !(s.dbg.level == 3 || s.wordNormal w) then s
      else xputs s (codeOf .dbg) (agentId .dbg) w [t.setWidth 16, st.extractLsb' 0 16, st.extractLsb' 16 16, BitVec.ofNat 16 s.clk.bt]
    let s := { s with dbg := { s.dbg with trcIdx := n + 1, trcNext := s.dbg.trcNext + trcPeriod v } }
    if (n + 1) % trcRecs v = 0 then s.dbgEvt 3 else s
  else s)

/-- TAP_RESET: the instruction register loads BYPASS (R418). -/
def execTapReset (s : State) : Out := .next { s with dbg := { s.dbg with tapIr := 0xF } }

end Sys2Proof.Machine
end

