-- ==== Sys2Proof/Machine/BootEv.lean ====
section
/-! DEFINITION. Block reset, the boot ROM and the restart of the Postmaster pair (R362 to R371, R393, R394, R428, R433). -/
namespace Sys2Proof.Machine

/-! ### Block reset -/

/-- BLOCK_RESET: blk_rst_i asserts (R226, R433). -/
def execBlockReset (s : State) : Out := .next (resetBlock s false)

/-- BLOCK_RESET_RELEASE: the straps are sampled, BT leaves 0, the boot ROM starts (R432, R433); not while dft_mode_i holds the block (R428). -/
def execBlockResetRelease (st : Straps) (s : State) : Out :=
  .next (if s.inReset && !s.dft then
    { s with
      straps := st, inReset := false, clk := {}, pwr := { s.pwr with state := .run }
      boot := { s.boot with phase := .selftest } }
  else s)

/-- DFT_MODE: changes only under block reset; otherwise no supported operation (R428). -/
def execDftMode (on : Bool) (s : State) : Out :=
  if s.inReset then .next { s with dft := on } else if on = s.dft then .next s else .fault .unsupportedDft

/-! ### The injection test (R394) -/

/-- The group bits the test must find. -/
def State.testExpect (s : State) : BitVec 24 :=
  let eng : BitVec 24 := if !s.boot.pmOnly && (List.range s.nDep).any (fun d => s.twin d) then 0x00FFFF else 0
  let pm : BitVec 24 := if s.straps.pmTwin then 0xFF0000 else 0
  eng ||| pm

/-- A fatal boot error: HALTED, the code, the ROM locked (R370). -/
def bootHalt (s : State) (err : BitVec 8) : State :=
  { s with
    boot := { s.boot with phase := .halted, err := err }
    sec := { s.sec with romlock := true } }

/-- BOOT_SELFTEST: caught gives the groups that every comparator concerned reported (R394). On a pass SRAM is zeroed and WAIT_GO begins (R370). -/
def execBootSelftest (caught : BitVec 24) (s : State) : Out :=
  .next (if (s.boot.phase = .reset ∨ s.boot.phase = .selftest) ∧ !s.inReset then
    let e := s.testExpect
    let s := { s with irq := { s.irq with testDone := true, testBits := caught &&& e } }
    if caught &&& e = e then
      { s with pm := { s.pm with sram := [], sramErr := [] }, boot := { s.boot with phase := .waitGo } }
    else bootHalt s 0x01
  else s)

/-- ID_BOOT_GO := v: 1 by host secure ends WAIT_GO (R370, Table 13.6). -/
def bootGo (s : State) (ag : Agent) (v : W32) : State :=
  if ag = .hostS ∧ bitAt v 0 ∧ s.boot.phase = .waitGo ∧ !s.inReset then
    { s with boot := { s.boot with phase := .select, goAt := s.clk.bt } } else s
/-- BOOT_GO. -/
def execBootGo (ag : Agent) (v : W32) (s : State) : Out := .next (bootGo s ag v)

/-! ### Image records (R364 to R366) -/

/-- n bytes of a list from offset o; a byte beyond the list reads 0. -/
def slice (bs : List Byte) (o n : Nat) : List Byte := (List.range n).map fun i => bs[o + i]?.getD 0
/-- The number in n bytes from offset o, least significant byte first. -/
def leNum (bs : List Byte) (o n : Nat) : Nat := (slice bs o n).foldr (fun b v => b.toNat + 256 * v) 0

/-- Table 13.8. -/
inductive BootCause
  | twinSelftest | dirBad | listBad | fetch | magic | kind | length | version | notCommitted | retired | keyHash | signature | gcmTag | noKey | noImage
deriving DecidableEq, Repr
def BootCause.code : BootCause → Nat
  | .twinSelftest => 1 | .dirBad => 2 | .listBad => 3 | .fetch => 4 | .magic => 5 | .kind => 6 | .length => 7 | .version => 8
  | .notCommitted => 9 | .retired => 10 | .keyHash => 11 | .signature => 12 | .gcmTag => 13 | .noKey => 14 | .noImage => 15

def hdrSeq (h : List Byte) : Nat := leNum h 4 4
def hdrLen (h : List Byte) : Nat := leNum h 8 4
def hdrEnc (h : List Byte) : Bool := leNum h 14 2 % 2 == 1
def hdrEntry (h : List Byte) : Nat := leNum h 16 4

/-- Every reserved field of the header is 0 (Table 13.3). -/
def hdrReserved (h : List Byte) : Bool := leNum h 14 2 / 2 == 0 && leNum h 22 10 == 0 && leNum h 60 4 == 0

/-- Lengths and entry within R364, for a record in a slot of the given stride. -/
def hdrLenOk (h : List Byte) (maxLen stride : Nat) : Bool :=
  hdrLen h % 64 == 0 && decide (64 ≤ hdrLen h ∧ hdrLen h ≤ maxLen ∧ 384 + hdrLen h ≤ stride) && hdrEntry h % 2 == 0 && decide (hdrEntry h < hdrLen h)

/-- The low half of ID_VERSION (Table 16.6). -/
def blockVersion : Nat := 0x0203

/-- The key hash check, skipped in Manufacture with an all-zero hash (R365). -/
def State.keyHashOk (s : State) (h : List Byte) : Bool :=
  (s.lc == 0 && s.straps.frankHash == 0) || Config.sha384 (slice h 64 96) == s.straps.frankHash

/-- The signature check of R365 over bytes 0 to 159 and the body as stored. -/
def sigOk (h body : List Byte) : Bool := Config.ecdsaOk (slice h 64 96) (slice h 0 160 ++ body) (slice h 160 96)

/-- The plaintext of an encrypted body (R366), or the cause that rejects it. -/
def State.openBody (s : State) (h body : List Byte) : Except BootCause (List Byte) :=
  if hdrEnc h then
    if s.sec.ikey = 0 then .error .noKey
    else
      let r := Config.aesGcm s.sec.ikey (BitVec.ofNat 96 (leNum h 32 12)) (slice h 0 32) body (BitVec.ofNat 128 (leNum h 44 16))
      if r.2 then .ok (slice r.1 0 body.length) else .error .gcmTag
  else .ok body

/-- The first cause that rejects slot x in the header pass (R368). -/
def State.headCause (s : State) (x : SlotData) : Option BootCause :=
  let h := x.hdr
  if x.hdrErr then some .fetch
  else if leNum h 0 4 ≠ 0x464C4252 then some .magic
  else if leNum h 12 2 ≠ 0 ∨ !hdrReserved h then some .kind
  else if !hdrLenOk h 393216 x.stride then some .length
  else if blockVersion < leNum h 20 2 then some .version
  else if x.commit ≠ 0x5A3CC3A5 then some .notCommitted
  else if x.retire = 0xC3A55A3C then some .retired
  else if !s.keyHashOk h then some .keyHash
  else none

/-! ### The boot directory and sources (R362, R363) -/


def State.dirWord (s : State) (i : Nat) : W32 := s.lb32 (0xF000 + 4 * i)

/-- The boot directory is good (R363). -/
def State.dirOk (s : State) : Bool :=
  s.dirWord 0 == 0x42444952 && s.dirWord 18 == crc32Of (s.xch.lb.bytes 0xF000 72) && (lbParity s 0xF000 76).2

/-- The record at the start of exchange memory, as the ROM reads it; err: a word of [o, o + n) bytes cannot be read. -/
def State.xchErr (s : State) (o n : Nat) : Bool :=
  (List.range (n / 4 + 1)).any fun i => let w := (o / 4 + i) * 2; !s.bankHere w || !s.bankOn w || xerr s (w / 2) == some .double
def State.xchSlot (s : State) : SlotData :=
  let h := s.xch.mem.bytes 0 256
  let l := Nat.min (hdrLen h) 393216
  { hdr := h, commit := s.xch.mem.read32 (256 + l), retire := s.xch.mem.read32 (320 + l), body := s.xch.mem.bytes 256 l
    stride := s.nBank * 131072, addr := 0, hdrErr := s.xchErr 0 256 || s.xchErr (256 + l) 4 || s.xchErr (320 + l) 4, bodyErr := s.xchErr 256 l }

/-- Slot j of area a by the directory, with the bytes host storage delivers; no bytes delivered is an error response. -/
def State.areaSlot (s : State) (a j : Nat) (src : List BootSource) : SlotData :=
  let base := fld (s.dirWord (3 + 4 * a)) 0 8 * 2 ^ 32 + (s.dirWord (2 + 4 * a)).toNat
  let stride := (s.dirWord (4 + 4 * a)).toNat
  match (src.find? fun x => x.code == a + 1).bind fun x => x.slots[j]? with
  | some x => { x with stride := stride, addr := base + j * stride }
  | none => { hdr := [], commit := 0, retire := 0, body := [], stride := stride, addr := base + j * stride, hdrErr := true, bodyErr := true }

/-- The slots of source code c, or the cause that rejects the source. -/
def State.sourceSlots (s : State) (c : Nat) (src : List BootSource) : Except BootCause (List SlotData) :=
  if 1 ≤ c ∧ c ≤ 4 then
    if s.dirOk && bitAt (s.dirWord 1) (c - 1) then .ok ((List.range (fld (s.dirWord (5 + 4 * (c - 1))) 0 3)).map fun j => s.areaSlot (c - 1) j src)
    else .error .dirBad
  else if c = 8 then .ok [s.xchSlot]
  else .error .listBad

/-! ### Selection (R368, R371) -/

/-- A rejection: the next ID_BOOT_REJ entry, or counted beyond eight. -/
def reject (s : State) (c j : Nat) (x : BootCause) : State :=
  let e := BitVec.ofNat 32 (2 ^ 31 + c * 2 ^ 24 + j % 4 * 2 ^ 20 + x.code * 256)
  if s.boot.rej.length < 8 then { s with boot := { s.boot with rej := s.boot.rej ++ [e] } }
  else { s with boot := { s.boot with rejMore := satInc s.boot.rejMore } }

/-- The header pass over the slots of source c: rejections in slot order, and the candidates. -/
def headPass (s : State) (c : Nat) : Nat → List SlotData → State × List (Nat × SlotData)
  | _, [] => (s, [])
  | j, x :: r =>
    let s := if c = 8 then s else { s with boot := { s.boot with hmWin := BitVec.ofNat 9 (x.addr / 2 ^ 31) } }
    match s.headCause x with
    | some e => headPass (reject s c j e) c (j + 1) r
    | none => let p := headPass s c (j + 1) r; (p.1, (j, x) :: p.2)

/-- Insert by descending sequence, ties to the lower slot. -/
def insCand (x : Nat × SlotData) : List (Nat × SlotData) → List (Nat × SlotData)
  | [] => [x]
  | y :: r => if hdrSeq y.2.hdr < hdrSeq x.2.hdr then x :: y :: r else y :: insCand x r
def sortCands (l : List (Nat × SlotData)) : List (Nat × SlotData) := l.foldl (fun r x => insCand x r) []

/-- The copy pass of a candidate: its body in SRAM, or the cause that rejects it; the copy stays in SRAM either way. -/
def copyPass (s : State) (x : SlotData) : State × Option BootCause :=
  let n := hdrLen x.hdr
  let body := slice x.body 0 n
  if x.bodyErr then (s, some .fetch)
  else
    let put (s : State) (bs : List Byte) : State := { s with pm := { s.pm with sram := s.pm.sram.writeBytes 0 bs } }
    let s := put s body
    if !sigOk x.hdr body then (s, some .signature)
    else match s.openBody x.hdr body with
      | .error e => (s, some e)
      | .ok p => (put s p, none)

/-- Try the candidates of source c in order: the one that survives. -/
def tryCands (s : State) (c : Nat) : List (Nat × SlotData) → State × Option (Nat × SlotData)
  | [] => (s, none)
  | (j, x) :: r =>
    let s := if c = 8 then s else { s with boot := { s.boot with hmWin := BitVec.ofNat 9 (x.addr / 2 ^ 31) } }
    match copyPass s x with
    | (s, some e) => tryCands (reject s c j e) c r
    | (s, none) => (s, some (j, x))

/-- The list of source codes in order, up to the end code. -/
def trySources (s : State) (src : List BootSource) : List Nat → State × Option (Nat × Nat × SlotData)
  | [] => (s, none)
  | c :: r =>
    if c = 0 then (s, none)
    else match s.sourceSlots c src with
      | .error e => trySources (reject s c 0 e) src r
      | .ok l =>
        let p := headPass s c 0 l
        match tryCands p.1 c (sortCands p.2) with
        | (s, some (j, x)) => (s, some (c, j, x))
        | (s, none) => trySources s src r

/-! ### Handover and the start of Sheow -/

/-- The checkpoint in the library work area can be read back (R393): the region was declared and its banks answer. -/
def State.checkpoint (s : State) : Bool :=
  match s.sheow.regions.find? fun r => r.kind == 5 with
  | some r => s.bankOn r.base && s.bankOn (r.base + r.len - 1)
  | none => false

/-- What a checkpoint restores: configuration tables; letters, log and undelivered records are lost (R393). -/
def Sheow.restored (x : Sheow) : Sheow :=
  { x with
    state := .run, epoch := 1, halted := false, turn := 0, records := [], sentNow := [], dlLog := [], dlOver := 0, moves := []
    boxes := x.boxes.foldl (fun m e =>
      SMap.set m e.1 { Box.reset e.1 with classes := e.2.classes } (Box.reset e.1)) [] }

/-- Sheow starts (R314, R396): indices 0, epoch 1, ready; the watchdog at 50 ms. -/
def sheowStart (s : State) (keep : Bool) : State :=
  let x := if keep then s.sheow.restored else { ({} : Sheow) with state := .config, epoch := 1 }
  let x := { x with lastPoll := s.clk.bt, update := { x.update with runSeq := s.boot.seq, runHost := s.boot.addr } }
  writeStates { s with sheow := x, irq := { s.irq with wdogEn := true, wdogLim := 50, wdogFrom := some s.clk.bt } }

/-- A hart as it enters the image (R370). -/
def Hart.enter (entry : Nat) (a0 : W32) (m : Mem) : Hart := { pc := BitVec.ofNat 32 (0x10000000 + entry), x := if a0 = 0 then [] else [(10, a0)], imem := m }

/-- HANDOVER: letterbox RAM and the plug-in pool zeroed, the ID_BOOT registers, the trampoline, the lock, the image entered (R370). The two words of the trampoline are not stated. -/
def handOver (s : State) (c j : Nat) (x : SlotData) : State :=
  let keep := s.boot.pmOnly && s.checkpoint
  let sram := ((s.pm.sram.clear 0xC0000 0x40000).write32 0xFFFF8 (Config.word32 s.free)).write32 0xFFFFC (Config.word32 (s.free + 1))
  let s := { s with
    xch := { s.xch with lb := [], lbErr := [] }
    pm := { s.pm with
      sram := sram
      harts := (SMap.set [] 0 (Hart.enter (hdrEntry x.hdr) 0 sram) {}).set 1 (if s.straps.pmTwin then {} else Hart.enter (hdrEntry x.hdr) 1 sram) {} }
    sec := { s.sec with romlock := true }
    boot := { s.boot with
      phase := .running, enc := hdrEnc x.hdr, seq := BitVec.ofNat 32 (hdrSeq x.hdr), addr := BitVec.ofNat 40 x.addr
      src := BitVec.ofNat 8 (c * 16 + j % 4), time := satAdd 0 ((s.clk.bt - s.boot.goAt) / 9600), pmOnly := false }
    free := s.free + 2 }
  let s := sheowStart s keep
  { s with sheow := { s.sheow with update := { s.sheow.update with runLen := hdrLen x.hdr, runKey := slice x.hdr 64 96, bankB := false } } }

/-- BOOT_SELECT: the ROM reads the sources and starts an image, or halts with NO_IMAGE (R368). -/
def execBootSelect (src : List BootSource) (s : State) : Out :=
  .next (if s.boot.phase = .select ∧ !s.inReset then
    let s := (lbParity s 0xF000 76).1
    match trySources s src ((List.range 4).map fun i => fld s.straps.bootList (4 * i) 4) with
    | (s, some (c, j, x)) => handOver s c j x
    | (s, none) => bootHalt s 0x0F
  else s)

/-! ### The restart of the Postmaster pair (R393) -/

/-- The wait of an alias bank withdrawn. -/
def noAliasWait (s : State) (ag : Agent) : State :=
  { s with seals := { s.seals with banks := s.seals.banks.set (bankKey ag) { s.seals.banks.get (bankKey ag) {} with wait := false } {} } }

/-- IRQ_PM_RST := v (R393). Sheow's tables stay as the checkpoint in the library work area. -/
def pmRestart (s : State) (ag : Agent) (v : W32) : State :=
  if ag = .hostS ∧ bitAt v 0 ∧ !s.inReset then
    let s := noAliasWait (noAliasWait (sealSideband s fun a => a == 0x1000 || a == 0x1001) .pmA) .pmB
    { s with
      irq := { s.irq with pmFrozen := false, pmTwinValid := false, pmTwinGroup := 0, pmTwinT := 0, wdogEn := false, wdogFrom := none }
      sec := { s.sec with romlock := false }
      dbg := { s.dbg with haltA := false, haltB := false }
      pm := { s.pm with harts := [], hm := [] }
      boot := { s.boot with phase := .selftest, pmOnly := true, err := 0, rej := [], rejMore := 0 }
      sheow := { s.sheow with state := .down } }
  else s
/-- PM_RESTART. -/
def execPmRestart (ag : Agent) (v : W32) (s : State) : Out := .next (pmRestart s ag v)

end Sys2Proof.Machine
end

