-- ==== Sys2Proof/Machine/OpsHart.lean ====
section
/-! DEFINITION. The harts: CSRs and their lagging settings, retirement, interrupts pending, trap entry (R338 to R342, R353 to R357). CSR layouts and trap entry are those of the RISC-V privileged specification, to which Chapter 12 refers. -/
namespace Sys2Proof.Machine

/-- The index of the hart that runs as hart h: a lockstep pair is one hart (R338). -/
def State.hartIx (s : State) (h : Nat) : Nat := if s.straps.pmTwin then 0 else h

/-- The agent of hart h (R338). -/
def hartAgent (h : Nat) : Agent := if h = 0 then .pmA else .pmB

/-- Hart h executes: it exists, runs out of the boot ROM or an image, is not frozen, halted, asleep or without clock, and no access of it awaits a response. -/
def State.hartUp (s : State) (h : Nat) : Bool :=
  (h == 0 || (h == 1 && !s.straps.pmTwin)) && !s.inReset && !s.irq.pmFrozen && !s.hartHalted h && s.boot.phase != .halted
    && !s.pwr.retention && s.pwr.state != .hold && s.pwr.state != .off && s.clk.pHz != 0
    && !(s.hart h).wfi && !s.pm.hm.any fun r => r.hart == h

/-! ### CSRs -/

/-- Reset values that are not 0 (R340, Table 12.6). -/
def csrReset (n : Nat) : W32 := if n = 0x7C0 then 0x101 else 0

/-- The written value of CSR n. -/
def Hart.csrOf (x : Hart) (n : Nat) : W32 := x.csr.get n (csrReset n)
/-- The setting in force of mode CSR n (R353). -/
def Hart.effOf (x : Hart) (n : Nat) : W32 := x.eff.get n (csrReset n)
def Hart.putCsr (x : Hart) (n : Nat) (v : W32) : Hart := { x with csr := x.csr.set n v (csrReset n) }
def Hart.putEff (x : Hart) (n : Nat) (v : W32) : Hart := { x with eff := x.eff.set n v (csrReset n) }

/-- Writable bits of a CSR (privileged specification; mie and mideleg with the local interrupts of Table 12.4). -/
def csrMask (n : Nat) : W32 :=
  if n = 0x300 then 0x007E19AA
  else if n = 0x302 then 0x0000B3FF
  else if n = 0x303 then 0x1FFF0222
  else if n = 0x304 then 0x1FFF0AAA
  else if n = 0x344 then 0x00000222
  else if n = 0x305 ∨ n = 0x105 then 0xFFFFFFFD
  else if n = 0x341 ∨ n = 0x141 then 0xFFFFFFFE
  else if n = 0x306 ∨ n = 0x106 then 0x7
  else if n = 0x320 then 0x5
  else 0xFFFFFFFF
def sstatusMask : W32 := 0x000C0122

/-- The CSRs a hart stores, by number. -/
def csrStored : List Nat :=
  [0x300, 0x302, 0x303, 0x304, 0x305, 0x306, 0x320, 0x340, 0x341, 0x342, 0x343, 0x344, 0x105, 0x106, 0x140, 0x141, 0x142, 0x143, 0x180,
   0xB00, 0xB02, 0xB80, 0xB82]

/-- A new value v for CSR n under its writable bits; the reserved MPP code 2 leaves the field. -/
def csrMerge (n : Nat) (old v : W32) : W32 :=
  let w := (old &&& ~~~ csrMask n) ||| (v &&& csrMask n)
  if n = 0x300 ∧ fld w 11 2 = 2 then (w &&& ~~~ 0x1800) ||| (old &&& 0x1800) else w

/-- The local interrupts pending, mip bits 16 to 28 (Table 12.4). -/
def State.localIrq (s : State) : W32 :=
  let f (v : W32) (b : Nat) (c : Bool) : W32 := if c then setBit v b else v
  let v := f 0 16 (s.irq.h2p != 0)
  let v := f v 17 (s.deps.any fun e => e.2.dl != [])
  let v := f v 18 (s.deps.any fun e => bitAt e.2.fstat 2)
  let v := f v 19 (s.deps.any fun e => s.depUp e.1 && e.2.fstatWord &&& e.2.fen != 0)
  let v := (List.range 7).foldl (fun v i => f v (20 + i) (s.irqSource (56 + i))) v
  let v := f v 27 ((List.range 8).any fun l => s.irqSource (16 + l))
  f v 28 s.twinMismatch

/-- mip of hart h: local interrupts, the timer of R341, and the bits software keeps. -/
def State.mip (s : State) (h : Nat) : W32 :=
  let x := s.hart h
  s.localIrq ||| (if x.mtip then 0x80 else 0) ||| (x.csrOf 0x344 &&& 0x222)

/-- The time CSR (R341). -/
def State.timeCsr (s : State) : W64 := BitVec.ofNat 64 (s.clk.bt / 96)

/-- A read of CSR n of hart h; counts of cycles and retired instructions are open values of the model. -/
def State.csrRead (s : State) (h n : Nat) : W32 :=
  let x := s.hart h
  if n = 0x301 then 0x40141105
  else if n = 0x100 then x.csrOf 0x300 &&& sstatusMask
  else if n = 0x104 then x.csrOf 0x304 &&& x.csrOf 0x303
  else if n = 0x144 then s.mip h &&& x.csrOf 0x303
  else if n = 0x344 then s.mip h
  else if n = 0xC01 then s.timeCsr.extractLsb' 0 32
  else if n = 0xC81 then s.timeCsr.extractLsb' 32 32
  else if n = 0xC00 ∨ n = 0xC02 ∨ n = 0xC80 ∨ n = 0xC82 ∨ n = 0xB00 ∨ n = 0xB02 ∨ n = 0xB80 ∨ n = 0xB82 then Config.word32 s.free
  else if n = 0xF13 then 0x203
  else if n = 0xF14 then BitVec.ofNat 32 h
  else if n = 0x7C0 then (x.csrOf 0x7C0 &&& 1) ||| (if x.det then 0x100 else 0)
  else if n = 0x7C2 then x.tcmp.extractLsb' 0 32
  else if n = 0x7C3 then x.tcmp.extractLsb' 32 32
  else if n = 0xFC0 then (agentId (hartAgent h)).setWidth 32
  else if csrStored.contains n then x.csrOf n
  else 0

/-- The stored CSR a write of CSR n changes, and its new value. -/
def Hart.csrNew (x : Hart) (n : Nat) (v : W32) : Nat × W32 :=
  if n = 0x100 then (0x300, (x.csrOf 0x300 &&& ~~~ sstatusMask) ||| (v &&& sstatusMask))
  else if n = 0x104 then (0x304, (x.csrOf 0x304 &&& ~~~ x.csrOf 0x303) ||| (v &&& x.csrOf 0x303 &&& csrMask 0x304))
  else if n = 0x144 then (0x344, (x.csrOf 0x344 &&& ~~~ 0x2) ||| (v &&& 0x2 &&& x.csrOf 0x303))
  else (n, csrMerge n (x.csrOf n) v)

/-- Put pending writes of mode CSRs into effect (R353). PMDET.en takes act with it, and its setting invalidates both caches (R354). -/
def Hart.enforce (x : Hart) (n : Nat) (v : W32) : Hart :=
  if n = 0x7C0 then { x with det := bitAt v 0, dlines := if bitAt v 0 then [] else x.dlines } else x.putEff n v
def Hart.flushPend (x : Hart) : Hart := { x.pendW.foldl (fun x e => x.enforce e.1 e.2.1) x with pendW := [] }

/-- A debug write of CSR n: the value and its setting take effect at once. -/
def Hart.debugCsr (x : Hart) (n : Nat) (v : W32) : Hart :=
  if n = 0x7C0 then ((x.putCsr n (v &&& 1)).enforce n v)
  else if n = 0x7C1 then { x with dlines := [] }
  else if n = 0x7C2 then { x with tcmp := x.tcmp.extractLsb' 32 32 ++ v }
  else if n = 0x7C3 then { x with tcmp := v ++ x.tcmp.extractLsb' 0 32 }
  else
    let r := x.csrNew n v
    if csrStored.contains r.1 then (x.putCsr r.1 r.2).putEff r.1 r.2 else x

/-! ### Retirement and traps -/

/-- An instruction of hart h retires with the next pc: pending mode-CSR writes come one instruction closer (R353), the reservation ages (R342). -/
def Hart.retireTo (x : Hart) (pc : W32) : Hart :=
  let due := x.pendW.filter fun e => decide (e.2.2 ≤ 1)
  let x := due.foldl (fun x e => x.enforce e.1 e.2.1) x
  { x with
    pc := pc, resvAge := x.resvAge + 1
    pendW := (x.pendW.filter fun e => decide (1 < e.2.2)).map fun e => (e.1, e.2.1, e.2.2 - 1) }

/-- A 32-bit instruction retires. -/
def Hart.retire (x : Hart) : Hart := x.retireTo (x.pc + 4)

/-- Register r := v; x0 stays 0. -/
def Hart.setX (x : Hart) (r : Fin 32) (v : W32) : Hart := if r.val = 0 then x else { x with x := x.x.set r.val v 0 }
def Hart.getX (x : Hart) (r : Nat) : W32 := if r = 0 then 0 else x.x.get r 0

def Priv.code : Priv → Nat | .u => 0 | .s => 1 | .m => 3
def privOf : Nat → Priv | 0 => .u | 1 => .s | _ => .m

/-- The trap target of a vector register: direct, or vectored for an interrupt. -/
def trapPc (tvec : W32) (irq : Bool) (cause : Nat) : W32 :=
  let base := tvec &&& 0xFFFFFFFC
  if irq && fld tvec 0 2 == 1 then base + BitVec.ofNat 32 (4 * cause) else base

/-- Trap entry: pending mode-CSR writes first (R353); then cause, value, pc and status are saved, the mode changes and the reservation is lost (R342). Delegated traps of lower modes go to supervisor mode. -/
def Hart.trap (x : Hart) (irq : Bool) (cause : Nat) (tval : W32) : Hart :=
  let x := x.flushPend
  let st := x.csrOf 0x300
  let code : W32 := BitVec.ofNat 32 cause ||| (if irq then 0x80000000 else 0)
  let deleg := x.priv != .m && bitAt (x.csrOf (if irq then 0x303 else 0x302)) cause
  let x := { x with resv := none, resvAge := 0, wfi := false }
  if deleg then
    let st' := putBit (putBit (putBit st 5 (bitAt st 1)) 1 false) 8 (x.priv == .s)
    { ((((x.putCsr 0x141 x.pc).putCsr 0x142 code).putCsr 0x143 tval).putCsr 0x300 st').putEff 0x300 st' with
      priv := .s, pc := trapPc (x.effOf 0x105) irq cause }
  else
    let st' := (putBit (putBit st 7 (bitAt st 3)) 3 false &&& ~~~ 0x1800) ||| BitVec.ofNat 32 (x.priv.code * 2048)
    { ((((x.putCsr 0x341 x.pc).putCsr 0x342 code).putCsr 0x343 tval).putCsr 0x300 st').putEff 0x300 st' with
      priv := .m, pc := trapPc (x.effOf 0x305) irq cause }

/-- Hart h of the block traps. -/
def trapHart (s : State) (h : Nat) (irq : Bool) (cause : Nat) (tval : W32) : State := s.setHart h ((s.hart h).trap irq cause tval)

end Sys2Proof.Machine
end

