-- ==== Sys2Proof/Machine/RegRead.lean ====
section
/-! DEFINITION. Reads of block registers by host byte offset: the windows of Table 16.7, the access codes of Table 0.5, latched reads and RC fields. The value read stands in rdata. -/
namespace Sys2Proof.Machine

/-- The index i of offset o in a register array of n entries from base, stride apart. -/
def idxIn (o base stride n : Nat) : Option Nat :=
  if base ≤ o ∧ (o - base) % stride = 0 ∧ (o - base) / stride < n then some ((o - base) / stride) else none

/-- A read returns v. -/
def ret (s : State) (v : W32) : State := { s with rdata := v }
/-- A read returns a field of fewer bits. -/
def ret' {w : Nat} (s : State) (v : BitVec w) : State := ret s (v.setWidth 32)
def retN (s : State) (n : Nat) : State := ret s (BitVec.ofNat 32 n)
def lo32 (v : W64) : W32 := v.extractLsb' 0 32
def hi32 (v : W64) : W32 := v.extractLsb' 32 32

/-! ### SRT (Table 6.5) -/

/-- Four map codes of register j. -/
def mapWord (m : SMap Nat) (j : Nat) : W32 :=
  BitVec.ofNat 32 (m.get (4 * j) (4 * j) + 256 * m.get (4 * j + 1) (4 * j + 1) + 65536 * m.get (4 * j + 2) (4 * j + 2) + 2 ^ 24 * m.get (4 * j + 3) (4 * j + 3))

/-- Requester code c belongs to a unit the build has (R4, R171). -/
def State.codeHere (s : State) (c : Nat) : Bool :=
  if c < 32 then decide (c < s.nDep) else if c < 40 then decide (c < 32 + s.nLane) else true

def srtRead (s : State) (o : Nat) : State :=
  let x := s.srt
  match o with
  | 0x000 => ret' s x.bmax
  | 0x004 => ret' s x.evt
  | 0x008 => ret' s x.evtEn
  | 0x010 => ret' s x.starveTh
  | 0x014 => ret' s x.starveWin
  | 0x018 => ret { s with srt := { x with cutCnt := 0 } } x.cutCnt
  | 0x020 => ret s (x.starve.extractLsb' 0 32)
  | 0x024 => ret s (x.starve.extractLsb' 32 12 |>.setWidth 32)
  | _ =>
    match idxIn o 0x040 4 11, idxIn o 0x080 4 11, idxIn o 0x100 4 44, idxIn o 0x200 4 44 with
    | some j, _, _, _ => ret s (mapWord x.shadow j)
    | _, some j, _, _ => ret s (mapWord x.live j)
    | _, _, some r, _ => if s.codeHere r then ret' s (x.wlim.get r 0x10) else ret s 0
    | _, _, _, some r => ret { s with srt := { x with fwin := x.fwin.set r 0 0 } } (x.fwin.get r 0)
    | _, _, _, _ => ret s 0

/-! ### PMK (Table 2.7) -/

/-- PMK_STAT (Table 2.8). -/
def State.pmkStat (s : State) : W32 := BitVec.ofNat 32 (((List.range 8).map fun k => (s.ref k).state.code * 8 ^ k).sum)

/-- The bits of PMK_NOM[k] that are not reserved in the reference's mode (Table 2.7). -/
def Ref.nomMask (r : Ref) (k : Nat) : W32 :=
  if isMains k then (if r.samp then 0xFFFF else 0) else if isUser k then 0x07FFFFFF else 0

/-- The register of reference k at +o. -/
def refRead (s : State) (ag : Agent) (k o : Nat) : State :=
  let r := s.ref k
  match o with
  | 0x00 => ret s r.cfg
  | 0x04 => ret s (r.nom &&& r.nomMask k)
  | 0x08 => ret s r.bound
  | 0x0C => ret s r.hold
  | 0x10 => ret s r.evch
  | 0x14 => ret' s r.evt
  | 0x18 => posLoRead s ag k
  | 0x1C => ret' s ((s.pbank ag).posHi.get k 0)
  | 0x20 => retN s ((r.freq + 2 ^ 19) / 2 ^ 20)
  | 0x24 => retN s (r.epoch.toNat * 2 ^ 24 + r.rms.toNat)
  | _ => ret s 0

def pmkRead (s : State) (ag : Agent) (o : Nat) : State :=
  let x := s.pmk
  let b := s.pbank ag
  if 0x100 ≤ o ∧ o < 0x300 then refRead s ag ((o - 0x100) / 0x40) ((o - 0x100) % 0x40) else
  match o with
  | 0x000 => btLoRead s ag
  | 0x004 => ret s b.btHi
  | 0x008 => ret s s.pmkStat
  | 0x00C => ret' s x.evtEn
  | 0x010 => retN s (b2n x.alarm * 256 + ((List.range 8).map fun k => if (s.ref k).evt = 0 then 0 else 2 ^ k).sum)
  | 0x014 => ret { s with pmk := { x with evtLost := 0 } } x.evtLost
  | 0x018 => ret s (x.alarmPm.extractLsb' 0 32)
  | 0x01C => ret s (putBit (x.alarmPm.extractLsb' 32 16 |>.setWidth 32) 31 x.alarmEn)
  | 0x020 => ret s b.convLo
  | 0x024 => ret' s b.convHi
  | 0x028 => ret s (lo32 b.convBt)
  | 0x02C => ret s (hi32 b.convBt)
  | 0x030 => ret' s b.convSt
  | 0x040 => ret s x.rate
  | 0x044 => ret s x.step
  | 0x04C => ret' s x.wdog
  | 0x050 => ret' s x.setNs
  | 0x054 => ret s (x.setSec.extractLsb' 0 32)
  | 0x058 => ret s (x.setSec.extractLsb' 32 16 |>.setWidth 32)
  | 0x060 => ptpNsRead s ag
  | 0x064 => ret s b.secLo
  | 0x068 => ret' s b.secHi
  | _ => ret s 0

/-! ### PIN (Table 7.6) -/


/-- PIN_QSTAT[n] (Table 7.9). -/
def State.qstat (s : State) (n : Nat) : W32 :=
  let p := s.pin n
  let pad := bitAt (s.ginOf (n / 16)) (n % 16)
  BitVec.ofNat 32 (b2n p.ho.isSome * 2 ^ 20 + p.fsel * 65536 + b2n pad * 32768 + b2n (s.driven n) * 16384 + b2n p.padOe * 8192
    + b2n (p.ana && Config.belowLo s.free) * 4096 + p.desq.length * 256 + p.serq.length * 16 + p.eq.length)

/-- PIN_CNT[n], RC. -/
def Pin.counts (p : Pin) : W32 := p.disc ++ p.crowd ++ p.late ++ p.slip

def ringRead (s : State) (k o : Nat) : State :=
  let r := s.pring k
  match o with
  | 0x00 => ret s r.cfg
  | 0x04 => ret' s r.base
  | 0x08 => ret s r.cnt
  | 0x0C => ret (s.setPring k { r with lost := 0 }) r.lost
  | 0x10 => ret s r.ch
  | _ => ret s 0

def patRead (s : State) (u o : Nat) : State :=
  let p := s.pins.pats.get u {}
  match o with
  | 0x00 => ret s p.cfg
  | 0x04 => ret s p.mp
  | 0x08 => ret s p.ch
  | 0x0C => ret s (lo32 p.t)
  | 0x10 => ret s (hi32 p.t)
  | _ => ret s 0

def bckRead (s : State) (k o : Nat) : State :=
  let b := s.bck k
  match o with
  | 0x0 => ret s (if b.en then 0x80000000 else 0)
  | 0x4 => ret s b.per
  | 0x8 => ret s (lo32 b.t0)
  | 0xC => ret s (hi32 b.t0)
  | _ => ret s 0

/-- A per-pin register of pin n: window 1 OWN, 2 FUNC, 3 ELEC, 4 QSTAT, 5 CNT. Absent pins read 0 (R4). -/
def perPinRead (s : State) (win n : Nat) : State :=
  let p := s.pin n
  if s.nPin ≤ n then ret s 0 else
  match win with
  | 1 => retN s (p.ownKind.toNat * 32 + p.ownDep.toNat)
  | 2 => ret s p.func
  | 3 => ret s p.elec
  | 4 => ret s.sampled (s.qstat n)
  | 5 => ret (s.setPin n { p with disc := 0, crowd := 0, late := 0, slip := 0 }) p.counts
  | _ => ret s 0

def pinRead (s : State) (o : Nat) : State :=
  let x := s.pins
  if 0x1000 ≤ o then (if o % 0x1000 < 0xC00 then perPinRead s (o / 0x1000) (o % 0x1000 / 4) else ret s 0)
  else if 0x0C00 ≤ o then patRead s ((o - 0xC00) / 0x20) (o % 0x20)
  else if 0x0A00 ≤ o then ringRead s ((o - 0xA00) / 0x20) (o % 0x20)
  else if 0x0800 ≤ o then bckRead s ((o - 0x800) / 0x10) (o % 0x10)
  else match idxIn o 0x100 4 48, idxIn o 0x200 4 48, idxIn o 0x300 4 48, idxIn o 0x400 4 48 with
    | some g, _, _, _ => ret' s.sampled (s.ginOf g)
    | _, some g, _, _ => ret' s (s.gout g)
    | _, _, some g, _ => ret' s (s.goe g)
    | _, _, _, some g => ret' s (s.mmOf g)
    | _, _, _, _ =>
      match o with
      | 0x00 => ret' s s.pinEvtWord
      | 0x04 => ret' s x.evtEn
      | 0x08 => ret { s with pins := { x with msgLost := 0 } } x.msgLost
      | 0x0C => ret' s x.mmSettle
      | 0x10 => ret s x.pmEvt
      | 0x14 => ret s x.errInfo
      | _ => ret s 0

/-! ### SEAL (Table 5.6) -/

/-- SEAL_ALIAS_ST of an agent. -/
def AliasBank.status (b : AliasBank) : W32 :=
  putBit (putBit (putBit (b.word.setWidth 32) 31 b.wait) 30 b.granted) 29 b.relErr

def sealRead (s : State) (ag : Agent) (o : Nat) : State :=
  let x := s.seals
  let m := s.xch
  match o with
  | 0x000 => retN s x.held.length
  | 0x004 => ret' s x.evt
  | 0x008 => ret' s x.evtEn
  | 0x00C => ret { s with seals := { x with fullCnt := 0 } } x.fullCnt
  | 0x010 => ret { s with seals := { x with orphCnt := 0 } } x.orphCnt
  | 0x020 => ret' s x.aprio
  | 0x024 => ret' s x.leaseAg
  | 0x040 => ret' s (s.alias ag).addr
  | 0x044 => aliasAcq s ag
  | 0x04C => ret s (s.alias ag).status
  | 0x100 => retN s (b2n m.scrubEn * 2 ^ 31 + m.scrubPeriod.toNat)
  | 0x104 => retN s m.scrubPos
  | 0x108 => ret { s with xch := { m with ceCnt := 0 } } m.ceCnt
  | 0x10C => ret { s with xch := { m with dbeCnt := 0 } } m.dbeCnt
  | 0x110 => retN s (b2n m.dbeValid * 2 ^ 31 + m.dbeAddr.toNat)
  | 0x114 => ret' s m.dbeSrc
  | 0x118 => retN s (b2n m.parValid * 2 ^ 31 + m.parAddr.toNat)
  | _ => match idxIn o 0x080 4 32 with | some n => if n < s.nDep then ret' s (x.leaseDep.get n 0x3E8) else ret s 0 | none => ret s 0

/-! ### LAN (Table 8.6) -/

/-- LAN_STAT of lane x. -/
def Lane.stat (x : Lane) : W32 :=
  BitVec.ofNat 32 ((match x.state with | .off => 0 | .stopping => 1 | .run => 2) * 2 ^ 30 + b2n x.link * 2 ^ 29 + b2n x.blockLock * 2 ^ 28)

/-- A register of lane l at +o; a lane that is absent or without power reads 0 (R4, R403). -/
def laneRead (s : State) (l o : Nat) : State :=
  let x := s.lane l
  if s.nLane ≤ l ∨ !bitAt s.pwr.lanePow l then ret s 0 else
  match o with
  | 0x000 => ret s x.ctl
  | 0x004 => ret s x.stat
  | 0x008 => ret' s x.evt
  | 0x00C => ret' s x.evtEn
  | 0x010 => ret s x.tsLat
  | 0x014 => ret s x.defRing
  | 0x018 => ret' s x.txPoll
  | 0x01C => ret' s x.txLate
  | _ =>
    match idxIn o 0x040 4 12 with
    | some c => ret (s.setLane l { x with cnt := x.cnt.set c 0 0 }) (x.cnt.get c 0)
    | none =>
      if 0x100 ≤ o ∧ o < 0x180 then
        let t := x.txq ((o - 0x100) / 0x10)
        match o % 0x10 with
        | 0x0 => ret s t.cfg
        | 0x4 => ret' s t.base
        | 0x8 => ret s t.cons
        | _ => ret s 0
      else ret s 0

def prpRead (s : State) (p o : Nat) : State :=
  let x := s.prp p
  if s.nLane ≤ 2 * p then ret s 0 else
  match o with
  | 0x0 => retN s (b2n x.en * 2 ^ 31 + x.forget.toNat)
  | 0x4 => ret (s.setPrp p { x with dup := 0 }) x.dup
  | 0x8 => ret (s.setPrp p { x with miss := 0 }) x.miss
  | 0xC => ret (s.setPrp p { x with wrong := 0 }) x.wrong
  | _ => ret s 0

def fringRead (s : State) (k o : Nat) : State :=
  let r := s.fring k
  match o with
  | 0x0 => ret s r.cfg
  | 0x4 => ret' s r.base
  | 0x8 => ret s r.ch
  | 0xC => ret (s.setFring k { r with lost := 0 }) r.lost
  | _ => ret s 0

def lanRead (s : State) (o : Nat) : State :=
  let x := s.lan
  if 0x4000 ≤ o then (if o < 0x6000 then laneRead s ((o - 0x4000) / 0x400) (o % 0x400) else ret s 0)
  else if 0x1000 ≤ o then (if o < 0x2000 then fringRead s ((o - 0x1000) / 0x10) (o % 0x10) else ret s 0)
  else if 0x0100 ≤ o then (if o < 0x140 then prpRead s ((o - 0x100) / 0x10) (o % 0x10) else ret s 0)
  else match o with
    | 0x00 => ret' s x.clsIdx
    | 0x10 => ret s x.cls.w0
    | 0x14 => ret s x.cls.w1
    | 0x18 => ret s x.cls.w2
    | 0x1C => ret s x.cls.w3
    | 0x20 => ret { s with lan := { x with msgLost := 0 } } x.msgLost
    | _ => ret s 0

/-! ### IRQ (Tables 16.5, 11.2, 14.5) -/

/-- IRQ_TWIN_DEP: depots with a frozen pair. -/
def State.twinDeps (s : State) : W32 := (List.range 32).foldl (fun v d => if (s.dep d).frozen = 0 then v else setBit v d) 0

def irqRead (s : State) (o : Nat) : State :=
  let x := s.irq
  match o with
  | 0x000 => ret s (lo32 s.irqPend)
  | 0x004 => ret s (hi32 s.irqPend)
  | 0x008 => ret s (lo32 x.mask)
  | 0x00C => ret s (hi32 x.mask)
  | 0x020 => ret s (lo32 x.test)
  | 0x024 => ret s (hi32 x.test)
  | 0x038 => ret s (lo32 s.irqOut)
  | 0x03C => ret s (hi32 s.irqOut)
  | 0x200 => ret' s x.h2p
  | 0x210 => ret' s x.p2h
  | 0x220 => retN s (b2n x.dl)
  | 0x300 => ret' s x.safe
  | 0x304 => ret' s x.safeEn
  | 0x310 => retN s (b2n x.pmMm * 2 + b2n x.pmFrozen)
  | 0x314 => ret s s.twinDeps
  | 0x318 => retN s (b2n x.pmTwinValid * 2 ^ 31 + x.pmTwinGroup.toNat * 2 ^ 24)
  | 0x31C => ret s (lo32 x.pmTwinT)
  | 0x320 => ret s (hi32 x.pmTwinT)
  | 0x324 => retN s (b2n x.wdogEn * 2 ^ 31 + x.wdogLim.toNat)
  | 0x330 => ret { s with irq := { x with pmCe := 0 } } x.pmCe
  | 0x340 => retN s (b2n x.testDone * 2 ^ 31 + x.testBits.toNat)
  | _ => ret s 0

/-! ### PWR, SEC, ID (Tables 15.9, 15.10, 16.6, 13.6) -/

def PState.code : PState → Nat | .run => 0 | .trim => 1 | .vigil => 2 | .hold => 3 | .off => 0

/-- Depots, and banks, that are powered and cleared. -/
def State.onDep (s : State) : W32 := (List.range s.nDep).foldl (fun v d => if (s.dep d).powered && (s.dep d).state != .clearing then setBit v d else v) 0
def State.onBank (s : State) : W64 :=
  (List.range s.nBank).foldl (fun v b => if bitAt s.pwr.bankPow b && !bitAt s.pwr.bankClr b then setBit v b else v) 0

def pwrRead (s : State) (o : Nat) : State :=
  let x := s.pwr
  match o with
  | 0x000 => retN s (x.state.code * 2 ^ 29 + b2n x.busy * 2 ^ 28)
  | 0x008 => ret' s x.evt
  | 0x00C => ret' s x.evtEn
  | 0x010 => ret s x.depEn
  | 0x014 => ret s x.vigilDep
  | 0x018 => ret s (lo32 x.bankEn)
  | 0x01C => ret s (hi32 x.bankEn)
  | 0x020 => ret s (lo32 x.bankRet)
  | 0x024 => ret s (hi32 x.bankRet)
  | 0x028 => ret' s x.vlanes
  | 0x02C => ret' s x.wakeEn
  | 0x030 => ret' s x.wakeCause
  | 0x034 => ret s s.onDep
  | 0x038 => ret s (lo32 s.onBank)
  | 0x03C => ret s (hi32 s.onBank)
  | 0x040 => ret s (lo32 x.wakeT)
  | 0x044 => ret s (hi32 x.wakeT)
  | _ => ret s 0

/-- SEC_STAT (Table 15.11). -/
def State.secStat (s : State) : W32 :=
  BitVec.ofNat 32 (b2n s.sec.esc * 2048 + b2n s.sec.dbgLock * 1024 + b2n s.sec.chalPend * 512 + b2n s.sec.ikeySet * 256 + b2n s.sec.romlock * 4 + s.lc)

def secRead (s : State) (ag : Agent) (o : Nat) : State :=
  let x := s.sec
  if 0x300 ≤ o ∧ o < 0x330 then
    if !s.machineMode ag then ret s 0 else
    match o with
    | 0x300 => ret' s x.aesStatus
    | 0x304 => ret s x.aesAddr
    | 0x308 => ret s x.aesLen
    | 0x30C => ret s x.aesAad
    | _ => match idxIn o 0x310 4 3, idxIn o 0x320 4 4 with
      | some i, _ => ret s (x.aesIv.extractLsb' (32 * i) 32)
      | _, some i => ret s (x.aesTag.extractLsb' (32 * i) 32)
      | _, _ => ret s 0
  else match o with
    | 0x000 => ret s s.secStat
    | 0x004 => ret' s x.evt
    | 0x008 => ret' s x.evtEn
    | 0x00C => retN s (b2n x.violValid * 2 ^ 31 + x.violKind.toNat * 2 ^ 28 + x.violAgent.toNat)
    | 0x010 => ret s x.violAddr
    | 0x020 => retN s (b2n x.romlock)
    | 0x030 => ret s x.depDom
    | 0x034 => ret' s x.lbDom
    | 0x038 => ret s x.zdDep
    | 0x2C4 => ret' s x.fails
    | _ => match idxIn o 0x040 8 16, idxIn o 0x044 8 16, idxIn o 0x0C0 4 48, idxIn o 0x240 4 8, idxIn o 0x260 4 24 with
      | some r, _, _, _, _ => ret s (x.xregLo.get r 0)
      | _, some r, _, _, _ => ret s (x.xregHi.get r 0)
      | _, _, some g, _, _ => if 16 * g < s.nPin then ret' s (x.pinDom.get g 0) else ret s 0
      | _, _, _, some i, _ => ret s (x.chal.extractLsb' (32 * i) 32)
      | _, _, _, _, some i => ret s (x.resp.get i 0)
      | _, _, _, _, _ => ret s 0

def BPhase.code : BPhase → Nat | .reset => 0 | .selftest => 1 | .waitGo => 2 | .select => 3 | .handover => 4 | .running => 5 | .halted => 6

/-- ID_FEAT (Table 16.6). -/
def featOf : Build → W32 | .fl512 => 0x08304001 | .fl256 => 0x04182001 | .fl128 => 0x020C1001

def idRead (s : State) (o : Nat) : State :=
  let b := s.boot
  match o with
  | 0x000 => ret s 0x464C4E44
  | 0x004 => ret s (versionOf s.straps.build)
  | 0x008 => ret s (featOf s.straps.build)
  | 0x00C => retN s (s.straps.bootList.toNat * 65536 + s.straps.lifecycle.toNat * 256 + b2n s.straps.pmTwin)
  | 0x010 => retN s (b.phase.code * 2 ^ 28 + b.err.toNat * 65536 + b.rejMore.toNat * 256 + b2n b.enc)
  | 0x018 => ret s b.seq
  | 0x01C => ret s (b.addr.extractLsb' 0 32)
  | 0x020 => ret s (b.addr.extractLsb' 32 8 |>.setWidth 32)
  | 0x024 => ret' s b.src
  | 0x028 => ret s b.time
  | 0x060 => ret s s.straps.twinCfg
  | 0x0C0 => ret' s b.hmWin
  | _ => match idxIn o 0x040 4 8, idxIn o 0x080 4 12 with
    | some i, _ => ret s (b.rej[i]?.getD 0)
    | _, some i => ret s (s.straps.frankHash.extractLsb' (32 * i) 32)
    | _, _ => ret s 0

/-! ### DBG (Table 15.12) -/

def dbgSrcOf : Agent → DbgSrc | .hostS => .hostS | .hostN => .hostN | .dbg => .tap | _ => .pm

/-- The hart DBG_PMREG shows: the halted one, A first. -/
def State.dbgHart (s : State) : Option Nat := if s.dbg.haltA then some 0 else if s.dbg.haltB then some 1 else none

/-- DBG_PMREG[i] and DBG_PMCSR_D, for a source at level 3 with a hart halted (R420). -/
def State.pmReg (s : State) (src : DbgSrc) (i : Nat) : W32 :=
  match s.dbgHart with
  | some h => if s.pmDebug src h then (if i = 32 then (s.hart h).pc else (s.hart h).getX i) else 0
  | none => 0
def State.pmCsr (s : State) (src : DbgSrc) : W32 :=
  match s.dbgHart with
  | some h => if s.pmDebug src h then s.csrRead h s.dbg.pmcsr.toNat else 0
  | none => 0

def dbgRead (s : State) (src : DbgSrc) (o : Nat) : State :=
  let x := s.dbg
  if 0x8000 ≤ o then sliceAccess s src ((o - 0x8000) / 4) none else
  match o with
  | 0x000 => ret' s x.level
  | 0x004 => ret' s x.evt
  | 0x008 => ret' s x.evtEn
  | 0x010 => ret s x.brkDep
  | 0x01C => retN s (b2n x.haltB * 2 + b2n x.haltA)
  | 0x020 => ret s x.winCtl
  | 0x024 => codeDataRead s src
  | 0x030 => ret s x.trcCtl
  | 0x034 => ret' s x.trcBase
  | 0x584 => ret' s x.pmcsr
  | 0x588 => ret s.tick1 (s.pmCsr src)
  | _ => match idxIn o 0x400 4 64, idxIn o 0x500 4 33 with
    | some i, _ => tregAccess s src i none
    | _, some i => ret s (s.pmReg src i)
    | _, _ => ret s 0

/-! ### Depots (Tables 3.7, 5.5, 13.10, 14.6) -/

def DState.code : DState → Nat | .off => 0 | .run => 1 | .draining => 2 | .clearing => 3
def XPhase.num : XPhase → Nat
  | .idle => 0 | .code => 1 | .wait => 2 | .freeze => 3 | .done => 4 | .timeout => 5 | .aborted => 6

/-- DEP_FAULTi of depot d: faulted threads 32i to 32i + 31 (R90). -/
def Depot.faultWord (D : Depot) (i : Nat) : W32 :=
  (List.range 32).foldl (fun v b => if (D.thr (32 * i + b)).state = .faulted then setBit v b else v) 0

/-- CHUTE_FILL (Table 5.5). -/
def Chute.fill (c : Chute) : Nat := b2n (c.receivers != []) * 2 ^ 17 + b2n (c.senders != []) * 2 ^ 16 + c.msgs.length * 256 + c.words
/-- CHUTE_LFILL: with the words reserved and not yet arrived. -/
def LChute.fill (c : LChute) : Nat :=
  ((c.granted.filter fun v => v.msg == []).map (·.len)).sum * 2 ^ 19 + b2n (c.receivers != []) * 2 ^ 17 + b2n (c.queue != []) * 2 ^ 16
    + c.msgs.length * 256 + (c.msgs.map (·.2.1.length)).sum

/-- The oldest dead-letter record of a depot (Table 5.5). -/
def DlRec.hdr (r : DlRec) : W32 := BitVec.ofNat 32 (r.cause * 2 ^ 28 + r.tid.toNat * 65536 + r.target.toNat)
def Depot.dlHdr (D : Depot) : W32 := match D.dl with | r :: _ => r.hdr | [] => 0
def Depot.dlInfo (D : Depot) : W32 := match D.dl with | r :: _ => BitVec.ofNat 32 (D.dl.length * 256 + r.words.length) | [] => 0
def Depot.dlWord (D : Depot) (i : Nat) : W32 := match D.dl with | r :: _ => (r.words[i]?.getD 0).setWidth 32 | [] => 0

/-- Registers of the window of depot D that a read only returns. up says whether the depot answers; one that does not reads its reset values, but for DEP_STAT.twin (R403, R434). -/
def depValue (s : State) (d : Nat) (D : Depot) (up : Bool) (o : Nat) : W32 :=
  match o with
  | 0x00 => BitVec.ofNat 32 (b2n D.en)
  | 0x04 => BitVec.ofNat 32 ((D.threads.filter fun e => e.2.state != .idle).length * 65536 + b2n (s.twin d) * 4 + D.state.code)
  | 0x08 => D.stallLim.setWidth 32
  | 0x0C => D.drainTmo.setWidth 32
  | 0x10 => D.fstatWord.setWidth 32
  | 0x14 => D.fen.setWidth 32
  | 0x18 => BitVec.ofNat 32 (b2n D.twinValid * 2 ^ 31 + D.twinGroup.toNat * 2 ^ 24 + D.twinPair.toNat * 65536 + D.frozen.toNat)
  | 0x1C => lo32 D.twinT
  | 0x30 => D.drainCnt
  | 0x34 => D.eccCode ++ D.eccData
  | 0x38 => hi32 D.twinT
  | 0x40 => D.xselLo
  | 0x44 => D.xselHi
  | 0x50 => D.ldAddr.setWidth 32
  | 0x58 => D.redir
  | 0x60 => BitVec.ofNat 32 (D.xfer.spare * 2 ^ 21 + D.xfer.guard)
  | 0x64 => D.xfer.per
  | 0x68 => lo32 D.xfer.bnd
  | 0x6C => hi32 D.xfer.bnd
  | 0x70 => BitVec.ofNat 32 D.xfer.tmo
  | 0x74 => BitVec.ofNat 32 (D.xfer.phase.num * 2 ^ 29 + D.xfer.rots % 256)
  | 0x78 => lo32 D.xfer.t
  | 0x7C => hi32 D.xfer.t
  | 0xB00 => D.torn
  | 0xB04 => D.dlLost
  | 0xB08 => D.dlHdr
  | 0xB0C => D.dlInfo
  | _ =>
    match idxIn o 0x20 4 4, idxIn o 0x80 4 16, idxIn o 0x300 4 128, idxIn o 0x500 4 128 with
    | some i, _, _, _ => D.faultWord i
    | _, some e, _, _ => (D.chx.get e 0).setWidth 32
    | _, _, some t, _ => if up then s.tstat (tidOf d t) else 0
    | _, _, _, some t => (D.thr t).slice
    | _, _, _, _ =>
      match idxIn o 0x700 4 128, idxIn o 0x900 4 128, idxIn o 0xB40 4 16, idxIn o 0xB80 4 8 with
      | some t, _, _, _ => (D.thr t).prio.setWidth 32
      | _, some t, _, _ => (D.thr t).tmo
      | _, _, some i, _ => D.dlWord i
      | _, _, _, some j => D.lxdom.extractLsb' (32 * j) 32
      | _, _, _, _ =>
        match idxIn o 0xC00 4 256, idxIn o 0x1000 4 256 with
        | some i, _ => BitVec.ofNat 32 (D.chute (i / 16) (i % 16)).fill
        | _, some l => BitVec.ofNat 32 (D.lchute l).fill
        | _, _ => 0

/-- The RC fields of a depot window after a read of offset o. -/
def Depot.clearRc (D : Depot) (o : Nat) : Depot :=
  match o with
  | 0x30 => { D with drainCnt := 0 }
  | 0x34 => { D with eccCode := 0, eccData := 0 }
  | 0xB00 => { D with torn := 0 }
  | 0xB04 => { D with dlLost := 0 }
  | _ => D

/-- A read of the window of depot d; absent depots read 0 (R4). -/
def depRead (s : State) (ag : Agent) (d o : Nat) : State :=
  if s.nDep ≤ d then ret s 0
  else if !s.depUp d then ret s (depValue s d {} false o)
  else if o = 0x54 then outState s (execDepLdDataRead ag d s)
  else ret (s.setDep d ((s.dep d).clearRc o)) (depValue s d (s.dep d) true o)

/-! ### The register map (Table 16.7) -/

/-- Windows that answer while the block is in Hold (R407, Table 15.1). -/
def holdWindow (w : Nat) : Bool := w == 1 || w == 2 || (decide (5 ≤ w) && decide (w ≤ 9))

/-- Debug may read offset off (R418 to R420, Table 15.6): at level 0 the TAP set; in Hold also the DBG window; below level 3 no secure depot window and no secure pin. -/
def State.dbgVisible (s : State) (off : Nat) : Bool :=
  let tap := off == 0x1080000 || off == 0x108001C || off == 0x1070000 || (decide (0x1070240 ≤ off) && decide (off < 0x1070260))
  let d := (off - 0x1100000) / 0x10000
  let secure :=
    (decide (0x1100000 ≤ off) && decide (off < 0x1300000) && !s.depNormal d)
    || (decide (0x1021000 ≤ off) && decide (off < 0x1026000) && !s.pinNormal (off % 0x1000 / 4))
  tap || (s.dbg.level != 0 && (s.pwr.state != .hold || off / 0x10000 == 0x108) && (s.dbg.level == 3 || !secure))

/-- A read of the 32-bit register at host byte offset off by agent ag; unassigned offsets and the write alias read 0 (R8, R204). -/
def regRead (s : State) (ag : Agent) (off : Nat) : State :=
  let w := (off - 0x1000000) / 0x10000
  let o := off % 0x10000
  if s.inReset ∨ s.pwr.state = .off ∨ off % 4 ≠ 0 ∨ off < 0x1000000 ∨ (ag = .dbg ∧ !s.dbgVisible off) then ret s 0
  else if s.pwr.state = .hold ∧ !holdWindow w then ret s 0
  else if 0x1100000 ≤ off then (if off < 0x1300000 then depRead s ag ((off - 0x1100000) / 0x10000) o else ret s 0)
  else match w with
    | 0 => srtRead s o
    | 1 => pmkRead s ag o
    | 2 => pinRead s o
    | 3 => sealRead s ag o
    | 4 => lanRead s o
    | 5 => irqRead s o
    | 6 => pwrRead s o
    | 7 => secRead s ag o
    | 8 => dbgRead s (dbgSrcOf ag) o
    | 9 => idRead s o
    | _ => ret s 0

/-- RC_REGISTER_READ: a register read; an RC field returns its value and clears (R7). -/
def execRcRegisterRead (ag : Agent) (off : Nat) (s : State) : Out := .next (regRead s ag off)

end Sys2Proof.Machine
end

