-- ==== Sys2Proof/Machine/SorterEv.lean ====
section
/-! DEFINITION. Sorter events: arbitration, overdue entries, starvation windows, house operations, scrub, map commit (R152, R153, R169 to R184). -/
namespace Sys2Proof.Machine

/-- SORTER_GRANT (R175). -/
def execSorterGrant (tg : Nat) (s : State) : Out := .next (if s.inReset then s else arbitrate s tg)

/-- OVERDUE_ENTRY: presented requests whose count has reached SRT_WLIM enter the lane of target tg (R176, R177). -/
def execOverdueEntry (tg : Nat) (s : State) : Out := .next (enterLane s tg)

/-- The starvation window in microsecond ticks; 0 acts as 1 (Table 6.5). -/
def Sorter.window (x : Sorter) : Nat := Nat.max 1 x.starveWin.toNat

/-- STARVE_WINDOW_RESTART: the tick counter has reached SRT_STARVE_WIN; the grid of windows stays (R178). -/
def execStarveWindowRestart (s : State) : Out :=
  let n := s.usTick - s.srt.winTick
  .next (if s.srt.winTick + s.srt.window ≤ s.usTick then
    { s with srt := { s.srt with win := [], winTick := s.srt.winTick + n / s.srt.window * s.srt.window } } else s)

/-- A write of SRT_STARVE_WIN: the grid stays, unless the tick counter has passed the new value; then the windows restart at the next tick (R178). -/
def writeStarveWin (s : State) (v : Word) : State :=
  let x := { s.srt with starveWin := v }
  { s with srt := if x.winTick + x.window ≤ s.usTick then { x with winTick := s.usTick + 1 - x.window } else x }

/-- A write of SRT_STARVE_TH: a requester whose window counter exceeds the new threshold is flagged (R178). -/
def writeStarveTh (s : State) (v : Word) : State :=
  s.srt.win.foldl (fun s e => flagStarved s e.1) { s with srt := { s.srt with starveTh := v } }

/-- The read-check-write of a house operation on pair-word pw (R152): an uncorrectable word is counted and left, a single error is corrected. -/
def houseOp (s : State) (pw : Nat) (id : BitVec 13) : State :=
  match xerr s pw with
  | some .double => xdbe s pw 0 id
  | some .single => s.xclean pw
  | none => s

/-- The first house operation waiting for pair-word pw. -/
def popHouse (s : State) (p : (Nat × Nat × Nat × BitVec 13) → Bool) : Option ((Nat × Nat × Nat × BitVec 13) × State) :=
  match s.srt.house.find? p with
  | none => none
  | some x => some (x, { s with srt := { s.srt with house := s.srt.house.erase x } })

/-- HOUSE_INSERT: a house operation of target tg that has waited 16 FCLK cycles is inserted before the winner of the next point; of any 17 cycles at most one is inserted (R180). -/
def execHouseInsert (tg : Nat) (s : State) : Out :=
  .next (if s.clk.fcyc + 1 < s.srt.houseAt.get tg 0 + 17 ∧ s.srt.houseAt.get tg 0 ≠ 0 then s else
    match popHouse s (fun x => x.1 == tg && decide (x.2.2.1 + 16 ≤ s.clk.fcyc)) with
    | none => s
    | some (x, s) => houseOp { s with srt := { s.srt with houseAt := s.srt.houseAt.set tg (s.clk.fcyc + 1) 0 } } x.2.1 x.2.2.2)

/-- ECC_WRITE_BACK: the write-back scheduled for pair-word pw takes a free cycle of its bank, one with no request presented (R152, R180). -/
def execEccWriteBack (pw : Nat) (s : State) : Out :=
  .next (if s.presented (bankOf (2 * pw)) ≠ [] then s else
    match popHouse s (fun x => x.2.1 == pw) with
    | none => s
    | some (x, s) => houseOp s x.2.1 x.2.2.2)

/-- The bank of a pair-word is not Off for the scrubber (R153). -/
def State.scrubbable (s : State) (pw : Nat) : Bool := s.bankHere (2 * pw) && bitAt s.pwr.bankPow (bankOf (2 * pw))

/-- The next scrub position at or after pw: banks that are Off are skipped (R153); n bounds the banks looked at. -/
def scrubNext (s : State) : Nat → Nat → Nat
  | 0, pw => pw
  | n + 1, pw =>
    let total := s.nBank * 32768
    let p := if total ≤ pw then 0 else pw
    if s.scrubbable p then p else scrubNext s n ((p / 32768 + 1) * 32768 % total)

/-- The pair-words of the build. -/
def State.pairWords (s : State) : Nat := s.nBank * 32768

/-- One slot of the scrubber, in BT × pair-words: the period over all pair-words; period 0 acts as 1 (R153). -/
def State.scrubSlot (s : State) : Nat := Nat.max 1 s.xch.scrubPeriod.toNat * secBt

/-- The time of the slot of pair-word p, which the slots of the skipped banks come before (R153). -/
def State.scrubTime (s : State) (p : Nat) : Nat :=
  s.xch.scrubDue + (p + s.pairWords - s.xch.scrubPos) % s.pairWords * s.scrubSlot

/-- SCRUB_READ: in its slot the scrubber reads the next pair-word at emergency input 46; a correction follows as a house operation (R152, R153, R179, R180). It pauses in Hold. -/
def execScrubRead (s : State) : Out :=
  let p := scrubNext s 64 s.xch.scrubPos
  let due := s.scrubTime p
  let now := s.clk.bt * s.pairWords
  .next (if s.xch.scrubEn ∧ s.pwr.state ≠ .hold ∧ s.pwr.target ≠ some .hold ∧ s.scrubbable p ∧ due ≤ now then
    let s := s.atPoint scrubCode (2 * p)
    let s := match xerr s p with
      | some .single => houseOp (({ s with xch := { s.xch with ceCnt := satInc s.xch.ceCnt } }).houseCycle (2 * p)) p 0
      | some .double => xdbe s p 1 0
      | none => s
    { s with xch := { s.xch with
        scrubPos := if p + 1 = s.pairWords then 0 else p + 1
        scrubDue := (if now < due + s.scrubSlot then due else now) + s.scrubSlot } }
  else s)

/-- The shadow map as a list of codes at inputs 0 to 43 (R182). -/
def State.shadowList (s : State) : List Nat := (List.range 44).map fun i => s.srt.shadow.get i i

/-- Every code lies in 0 to 43 and appears once (R182). -/
def mapOk (l : List Nat) : Bool := l.all (fun c => decide (c < 44)) && (List.range 44).all (fun c => l.count c == 1)

/-- SRT_COMMIT: the shadow map becomes live, or map_err (R182, R183, R185). -/
def commitMap (s : State) : State :=
  if mapOk s.shadowList then { s with srt := { s.srt with live := s.srt.shadow } } else s.srtEvt 1
def execSrtCommit (ag : Agent) (s : State) : Out := .next (if s.globalWriter ag && !s.inReset then readmit (commitMap s) else s)

end Sys2Proof.Machine
end

