-- ==== Sys2Proof/Machine/RegWrite.lean ====
section
/-! DEFINITION. Writes of block registers by host byte offset: rights, access codes, and the effects of registers that have rows of their own. -/
namespace Sys2Proof.Machine

/-- The bits of a W1C field after a write of v. -/
def w1c {w : Nat} (x : BitVec w) (v : W32) : BitVec w := x &&& ~~~ (v.setWidth w)
/-- A 64-bit register with one half written. -/
def putLo (x : W64) (v : W32) : W64 := x.extractLsb' 32 32 ++ v
def putHi (x : W64) (v : W32) : W64 := v ++ x.extractLsb' 0 32
/-- Channel registers: [31] ch_en, [30:26] depot, [25:22] engine, [21:18] chute. -/
def chMask : W32 := 0xFFFC0000

/-! ### SRT -/

/-- Shadow register j := v (R182). -/
def shadowWrite (m : SMap Nat) (j : Nat) (v : W32) : SMap Nat :=
  (List.range 4).foldl (fun m i => SMap.set m (4 * j + i) (fld v (8 * i) 6) (4 * j + i)) m

def srtWrite (s : State) (ag : Agent) (o : Nat) (v : W32) : State :=
  let x := s.srt
  if !s.globalWriter ag then s else
  match o with
  | 0x000 => if fld v 0 2 = 3 then s else readmit { s with srt := { x with bmax := v.extractLsb' 0 2 } }
  | 0x004 => { s with srt := { x with evt := w1c x.evt v } }
  | 0x008 => { s with srt := { x with evtEn := v.extractLsb' 0 3 } }
  | 0x00C => readmit (commitMap s)
  | 0x010 => writeStarveTh s (v.extractLsb' 0 16)
  | 0x014 => writeStarveWin s (v.extractLsb' 0 16)
  | 0x020 => { s with srt := { x with starve := x.starve &&& ~~~ (v.setWidth 44) } }
  | 0x024 => { s with srt := { x with starve := x.starve &&& ~~~ ((v.extractLsb' 0 12) ++ (0 : W32)) } }
  | _ =>
    match idxIn o 0x040 4 11, idxIn o 0x100 4 44 with
    | some j, _ => { s with srt := { x with shadow := shadowWrite x.shadow j v } }
    | _, some r => if s.codeHere r then readmit { s with srt := { x with wlim := x.wlim.set r (v.extractLsb' 0 8) 0x10 } } else s
    | _, _ => s

/-! ### PMK -/

/-- PMK_PTP_CMD (Table 2.12): load, then step, then mark. -/
def ptpCmd (s : State) (v : W32) : State :=
  let s := if bitAt v 2 then loadTime s else s
  let s := if bitAt v 0 then applyStep s else s
  if bitAt v 1 then markLocked s else s

/-- PMK_NOM[k] := v (Table 2.7); a user reference that has not locked yet advances at the new value (R42). -/
def writeNom (s : State) (k : Nat) (v : W32) : State :=
  let r := { s.ref k with nom := v &&& (s.ref k).nomMask k }
  s.setRef k (if isUser k && !r.everLocked && r.state == .acquiring then r.restart s.clk.bt (r.restFreq k) else r)

def refWrite (s : State) (k o : Nat) (v : W32) : State :=
  let r := s.ref k
  match o with
  | 0x00 => writeCfg s k v
  | 0x04 => writeNom s k v
  | 0x08 => s.setRef k { r with bound := v }
  | 0x0C => s.setRef k { r with hold := v &&& 0xFFFF }
  | 0x10 => s.setRef k { r with evch := v &&& 0xFFFC03FF }
  | 0x14 => s.setRef k { r with evt := w1c r.evt v }
  | _ => s

/-- Writes of the PTP registers: Postmaster only (R43). -/
def ptpWrite (s : State) (o : Nat) (v : W32) : State :=
  let x := s.pmk
  match o with
  | 0x040 => rateWrite s v
  | 0x044 => { s with pmk := { x with step := v } }
  | 0x048 => ptpCmd s v
  | 0x04C => { s with pmk := { x with wdog := v.extractLsb' 0 16 } }
  | 0x050 => { s with pmk := { x with setNs := v.extractLsb' 0 30 } }
  | 0x054 => { s with pmk := { x with setSec := x.setSec.extractLsb' 32 16 ++ v } }
  | 0x058 => { s with pmk := { x with setSec := v.extractLsb' 0 16 ++ x.setSec.extractLsb' 0 32 } }
  | _ => s

def pmkWrite (s : State) (ag : Agent) (o : Nat) (v : W32) : State :=
  let x := s.pmk
  if o = 0x020 then (if s.mayRead ag then s.setPbank ag { s.pbank ag with convLo := v } else s)
  else if o = 0x024 then convStart s ag v
  else if 0x040 ≤ o ∧ o < 0x05C then (if s.ptpWriter ag then ptpWrite s o v else s)
  else if !s.pmkWriter ag then s
  else if 0x100 ≤ o ∧ o < 0x300 then refWrite s ((o - 0x100) / 0x40) ((o - 0x100) % 0x40) v
  else match o with
    | 0x00C => { s with pmk := { x with evtEn := v.extractLsb' 0 10 } }
    | 0x010 => { s with pmk := { x with alarm := x.alarm && !bitAt v 8 } }
    | 0x018 => { s with pmk := { x with alarmPm := x.alarmPm.extractLsb' 32 16 ++ v } }
    | 0x01C => { s with pmk := { x with alarmPm := v.extractLsb' 0 16 ++ x.alarmPm.extractLsb' 0 32, alarmEn := bitAt v 31 } }
    | _ => s

/-! ### PIN -/

def ringWriteReg (s : State) (ag : Agent) (k o : Nat) (v : W32) : State :=
  let r := s.pring k
  match o with
  | 0x00 => if bitAt v 31 then pinRingEnable s ag k v else ringClear s k (v &&& 0x1F)
  | 0x04 => s.setPring k { r with base := v.extractLsb' 0 22 }
  | 0x10 => s.setPring k { r with ch := v &&& chMask }
  | _ => s

def patWrite (s : State) (u o : Nat) (v : W32) : State :=
  let p := s.pins.pats.get u {}
  let put (p : Pat) : State := { s with pins := { s.pins with pats := s.pins.pats.set u p {} } }
  match o with
  | 0x00 => put { p with cfg := v &&& 0x7FC0FFFF, since := s.clk.bt, last := none }
  | 0x04 => put { p with mp := v }
  | 0x08 => put { p with ch := v &&& chMask }
  | _ => s

/-- Bit clock k at +o (R211, R212): period and start time change only while en is 0; a period below 6,144 is refused. -/
def bckWrite (s : State) (ag : Agent) (k o : Nat) (v : W32) : State :=
  let b := s.bck k
  match o with
  | 0x0 => if bitAt v 31 then bckEnable s ag k else bckDisable s ag k
  | 0x4 => if v.toNat < 6144 then s.pinErr 0 7 else if b.en then s else s.setBck k { b with per := v }
  | 0x8 => if b.en then s else s.setBck k { b with t0 := putLo b.t0 v }
  | 0xC => if b.en then s else s.setBck k { b with t0 := putHi b.t0 v }
  | _ => s

/-- PIN_EVT W1C: clearing cfg_err ends the validity of PIN_ERR_INFO (Table 7.6). -/
def pinEvtClear (s : State) (v : W32) : State :=
  { s with pins := { s.pins with
      evt := s.pins.evt &&& ~~~ (v.extractLsb' 0 8 &&& 0xFC)
      errInfo := if bitAt v 3 then clrBit s.pins.errInfo 31 else s.pins.errInfo } }

def pinWrite (s : State) (ag : Agent) (o : Nat) (v : W32) : State :=
  let x := s.pins
  let n := o % 0x1000 / 4
  if 0x1000 ≤ o then
    match o / 0x1000 with
    | 1 => writeOwn s ag n v
    | 2 => writeFunc s ag n v
    | 3 => writeElec s ag n v
    | _ => s
  else if !s.globalWriter ag then s
  else if 0x0C00 ≤ o then patWrite s ((o - 0xC00) / 0x20) (o % 0x20) v
  else if 0x0A00 ≤ o then (if o < 0xC00 then ringWriteReg s ag ((o - 0xA00) / 0x20) (o % 0x20) v else s)
  else if 0x0800 ≤ o then bckWrite s ag ((o - 0x800) / 0x10) (o % 0x10) v
  else match idxIn o 0x400 4 48 with
    | some g => { s with pins := { x with mm := x.mm.set g (w1c (s.mmOf g) v) 0 } }
    | none =>
      match o with
      | 0x00 => pinEvtClear s v
      | 0x04 => { s with pins := { x with evtEn := v.extractLsb' 0 8 } }
      | 0x0C => { s with pins := { x with mmSettle := v.extractLsb' 0 16 } }
      | 0x10 => { s with pins := { x with pmEvt := x.pmEvt &&& ~~~ v } }
      | _ => s

/-! ### SEAL -/

/-- SEAL_EVT W1C: clearing dbe and lb_par ends the validity of their addresses (Table 5.6). -/
def sealEvtClear (s : State) (v : W32) : State :=
  { s with
    seals := { s.seals with evt := w1c s.seals.evt v }
    xch := { s.xch with dbeValid := s.xch.dbeValid && !bitAt v 1, parValid := s.xch.parValid && !bitAt v 2 } }

def sealWrite (s : State) (ag : Agent) (o : Nat) (v : W32) : State :=
  let x := s.seals
  if o = 0x028 then sealForce s ag v
  else if o = 0x040 then (if s.mayRead ag then aliasAddr s ag v else s)
  else if o = 0x048 then (if s.mayRead ag then aliasRel s ag else s)
  else if o = 0x04C then
    (if s.mayRead ag then
      s.setAlias ag { s.alias ag with granted := (s.alias ag).granted && !bitAt v 30, relErr := (s.alias ag).relErr && !bitAt v 29 }
    else s)
  else if !pmOrHostS ag then s
  else match o with
    | 0x004 => sealEvtClear s v
    | 0x008 => { s with seals := { x with evtEn := v.extractLsb' 0 10 } }
    | 0x020 => { s with seals := { x with aprio := v.extractLsb' 0 24 } }
    | 0x024 => { s with seals := { x with leaseAg := v.extractLsb' 0 16 } }
    | 0x100 => { s with xch := { s.xch with scrubEn := bitAt v 31, scrubPeriod := v.extractLsb' 0 8 } }
    | _ => match idxIn o 0x080 4 32 with
      | some n => if n < s.nDep then { s with seals := { x with leaseDep := x.leaseDep.set n (v.extractLsb' 0 16) 0x3E8 } } else s
      | none => s

/-! ### LAN -/

/-- LAN_CTL := v: mode and fec while OFF, tsfmt, then en (R250, Table 8.7). -/
def lanCtl (s : State) (l : Nat) (v : W32) : State :=
  let x := s.lane l
  let keep : W32 := if x.state = .off then 0x80000000 else 0xE0000000
  let s := s.setLane l { x with ctl := (x.ctl &&& keep) ||| (v &&& 0x70000000 &&& ~~~ keep) }
  if bitAt v 31 then laneStart s l else laneStop s l

def laneWrite (s : State) (l o : Nat) (v : W32) : State :=
  let x := s.lane l
  if !s.laneOn l then s else
  match o with
  | 0x000 => lanCtl s l v
  | 0x008 => s.setLane l { x with evt := w1c x.evt v }
  | 0x00C => s.setLane l { x with evtEn := v.extractLsb' 0 7 }
  | 0x010 => s.setLane l { x with tsLat := v }
  | 0x014 => s.setLane l { x with defRing := v &&& 0x800000FF }
  | 0x018 => s.setLane l { x with txPoll := v.extractLsb' 0 16 }
  | 0x01C => s.setLane l { x with txLate := v.extractLsb' 0 16 }
  | _ =>
    if 0x100 ≤ o ∧ o < 0x180 then
      let q := (o - 0x100) / 0x10
      let t := x.txq q
      match o % 0x10 with
      | 0x0 => if bitAt v 31 then txqEnable s l q v else s.setLane l (x.setTxq q { t with cfg := v &&& 0xF, head := none })
      | 0x4 => s.setLane l (x.setTxq q { t with base := v.extractLsb' 0 22, head := none })
      | _ => s
    else s

/-- LAN_PRP_CFG[p] := v: en only while both lanes are OFF. -/
def prpWrite (s : State) (p : Nat) (v : W32) : State :=
  let x := s.prp p
  if s.nLane ≤ 2 * p then s
  else s.setPrp p { x with forget := v.extractLsb' 0 16, en := if s.laneIsOff (2 * p) && s.laneIsOff (2 * p + 1) then bitAt v 31 else x.en }

def fringWrite (s : State) (k o : Nat) (v : W32) : State :=
  let r := s.fring k
  match o with
  | 0x0 => if bitAt v 31 then fringEnable s k v else s.setFring k { r with cfg := if bitAt r.cfg 31 && (v &&& 0x7C7F0000) != clrBit r.cfg 31 then r.cfg else v &&& 0x7C7F0000 }
  | 0x4 => s.setFring k { r with base := v.extractLsb' 0 22 }
  | 0x8 => s.setFring k { r with ch := (v &&& chMask) ||| BitVec.ofNat 32 (Nat.min 8 (fld v 0 4)) }
  | _ => s

def lanWrite (s : State) (ag : Agent) (o : Nat) (v : W32) : State :=
  let x := s.lan
  if !s.lanWriter ag then s
  else if 0x4000 ≤ o then (if o < 0x6000 then laneWrite s ((o - 0x4000) / 0x400) (o % 0x400) v else s)
  else if 0x1000 ≤ o then (if o < 0x2000 then fringWrite s ((o - 0x1000) / 0x10) (o % 0x10) v else s)
  else if 0x0100 ≤ o then (if o < 0x140 ∧ o % 0x10 = 0 then prpWrite s ((o - 0x100) / 0x10) v else s)
  else match o with
    | 0x00 => { s with lan := { x with clsIdx := v.extractLsb' 0 12 } }
    | 0x04 => if bitAt v 1 then clsWrite s else if bitAt v 0 then clsRead s else s
    | 0x10 => { s with lan := { x with cls := { x.cls with w0 := v &&& 0xFFF80FFF } } }
    | 0x14 => { s with lan := { x with cls := { x.cls with w1 := v } } }
    | 0x18 => { s with lan := { x with cls := { x.cls with w2 := v } } }
    | 0x1C => { s with lan := { x with cls := { x.cls with w3 := v &&& 0xC00000FF } } }
    | _ => s

/-! ### IRQ -/

def irqWrite (s : State) (ag : Agent) (o : Nat) (v : W32) : State :=
  let x := s.irq
  match o with
  | 0x010 => outState s (execIrqMaskSet ag false v s)
  | 0x014 => outState s (execIrqMaskSet ag true v s)
  | 0x018 => outState s (execIrqMaskClr ag false v s)
  | 0x01C => outState s (execIrqMaskClr ag true v s)
  | 0x028 => outState s (execIrqTestSet ag false v s)
  | 0x02C => outState s (execIrqTestSet ag true v s)
  | 0x030 => outState s (execIrqTestClr ag false v s)
  | 0x034 => outState s (execIrqTestClr ag true v s)
  | 0x204 => h2pSet s ag v
  | 0x208 => h2pClr s ag v
  | 0x214 => p2hSet s ag v
  | 0x218 => p2hClr s ag v
  | 0x224 => dlSet s ag v
  | 0x228 => dlClr s ag v
  | 0x300 => if pmOrHostS ag then { s with irq := { x with safe := w1c x.safe v } } else s
  | 0x304 => if ag = .hostS then { s with irq := { x with safeEn := v.extractLsb' 0 9 } } else s
  | 0x308 => safeSw s ag v
  | 0x310 => if pmOrHostS ag then { s with irq := { x with pmMm := x.pmMm && !bitAt v 1 } } else s
  | 0x324 => wdogWrite s ag v
  | 0x328 => wdogKick s ag v
  | 0x32C => pmRestart s ag v
  | _ => s

/-! ### PWR, SEC, ID, DBG -/

/-- PWR_CMD := v (Table 15.9): target states 0 to 3; another value is refused. -/
def pwrTarget (v : W32) : PState := match fld v 0 3 with | 0 => .run | 1 => .trim | 2 => .vigil | 3 => .hold | _ => .off

def pwrWrite (s : State) (ag : Agent) (o : Nat) (v : W32) : State :=
  let x := s.pwr
  if !s.globalWriter ag then s else
  match o with
  | 0x004 => pwrCmd s ag (pwrTarget v)
  | 0x008 => { s with pwr := { x with evt := w1c x.evt v } }
  | 0x00C => { s with pwr := { x with evtEn := v.extractLsb' 0 4 } }
  | 0x010 => maskWrite s ag .depots v
  | 0x014 => { s with pwr := { x with vigilDep := v } }
  | 0x018 => maskWrite s ag .banksLo v
  | 0x01C => maskWrite s ag .banksHi v
  | 0x020 => { s with pwr := { x with bankRet := putLo x.bankRet v } }
  | 0x024 => { s with pwr := { x with bankRet := putHi x.bankRet v } }
  | 0x028 => { s with pwr := { x with vlanes := v.extractLsb' 0 8 } }
  | 0x02C => { s with pwr := { x with wakeEn := v.extractLsb' 0 4 } }
  | _ => s

/-- SEC_AES registers, for the Postmaster in machine mode (R417). -/
def aesWrite (s : State) (ag : Agent) (o : Nat) (v : W32) : State :=
  let x := s.sec
  if !s.machineMode ag then s else
  match o with
  | 0x300 => if bitAt v 31 then aesGo s ag else s
  | 0x304 => { s with sec := { x with aesAddr := v } }
  | 0x308 => { s with sec := { x with aesLen := v } }
  | 0x30C => { s with sec := { x with aesAad := v } }
  | _ => match idxIn o 0x310 4 3, idxIn o 0x320 4 4 with
    | some i, _ => { s with sec := { x with
        aesIv := (x.aesIv &&& ~~~ ((0xFFFFFFFF#96) <<< (32 * i))) ||| (v.setWidth 96 <<< (32 * i)) } }
    | _, some i => { s with sec := { x with
        aesTag := (x.aesTag &&& ~~~ ((0xFFFFFFFF#128) <<< (32 * i))) ||| (v.setWidth 128 <<< (32 * i)) } }
    | _, _ => s

def secWrite (s : State) (ag : Agent) (o : Nat) (v : W32) : State :=
  let x := s.sec
  if 0x300 ≤ o ∧ o < 0x330 then aesWrite s ag o v
  else if 0x030 ≤ o ∧ o < 0x180 then domainWrite s ag o v
  else match o with
    | 0x004 => if pmOrHostS ag then { s with sec := { x with evt := w1c x.evt v, violValid := x.violValid && !bitAt v 0 } } else s
    | 0x008 => if pmOrHostS ag then { s with sec := { x with evtEn := v.extractLsb' 0 5 } } else s
    | 0x020 => romLock s ag v
    | 0x220 => challengeReq s (dbgSrcOf ag) v
    | 0x2C0 => if fld v 0 2 = 1 then grant s ag true else if fld v 0 2 = 2 then grant s ag false else s
    | _ => match idxIn o 0x200 4 8, idxIn o 0x260 4 24 with
      | some i, _ => ikeyWrite s ag i v
      | _, some i => responseWrite s (dbgSrcOf ag) i v
      | _, _ => s

/-- HM_WIN := v (R440): every host-window D-cache line of both harts goes. -/
def hmWinWrite (s : State) (ag : Agent) (v : W32) : State :=
  if isPm ag && !s.inReset then
    let s := (s.setHart 0 { s.hart 0 with dlines := [] }).setHart 1 { s.hart 1 with dlines := [] }
    { s with boot := { s.boot with hmWin := v.extractLsb' 0 9 } }
  else s

def idWrite (s : State) (ag : Agent) (o : Nat) (v : W32) : State :=
  match o with
  | 0x014 => bootGo s ag v
  | 0x0C0 => hmWinWrite s ag v
  | _ => s

/-- The depots whose BRK behaviour a source may change (R420). -/
def State.brkMask (s : State) (src : DbgSrc) : W32 :=
  if s.srcLevel src = 3 then 0xFFFFFFFF else if s.srcLevel src = 2 then s.sec.depDom else 0

/-- A write of a register of a halted hart. -/
def pmRegWrite (s : State) (src : DbgSrc) (f : Hart → Hart) : State :=
  match s.dbgHart with
  | some h => if s.pmDebug src h then s.setHart h (f (s.hart h)) else s
  | none => s

/-- DBG_TCMD and DBG_PMCMD (Table 15.12). -/
def tcmd (s : State) (src : DbgSrc) (v : W32) : State :=
  let t : Tid := v.extractLsb' 0 12
  match fld v 28 4 with
  | 1 => dbgHalt s src t
  | 2 => dbgResume s src t
  | 3 => dbgStep s src t
  | _ => s
def pmcmd (s : State) (src : DbgSrc) (v : W32) : State :=
  let h := b2n (bitAt v 8)
  match fld v 0 3 with
  | 1 => pmHalt s src h
  | 2 => pmResume s src h
  | 4 => pmStep s src h
  | _ => s

def dbgWrite (s : State) (src : DbgSrc) (o : Nat) (v : W32) : State :=
  let x := s.dbg
  if 0x8000 ≤ o then sliceAccess s src ((o - 0x8000) / 4) (some v)
  else if o = 0x000 then levelWrite s src v
  else if o = 0x004 then (if src = .hostN then s else { s with dbg := { x with evt := w1c x.evt v } })
  else if o = 0x008 then (if src = .hostN then s else { s with dbg := { x with evtEn := v.extractLsb' 0 4 } })
  else if s.srcLevel src = 0 then s
  else match o with
    | 0x00C => if bitAt v 0 then ctlWake s src else s
    | 0x010 => { s with dbg := { x with brkDep := (x.brkDep &&& ~~~ s.brkMask src) ||| (v &&& s.brkMask src) } }
    | 0x014 => tcmd s src v
    | 0x018 => pmcmd s src v
    | 0x020 => { s with dbg := { x with winCtl := v &&& 0x0FFFFFFF } }
    | 0x030 => if bitAt v 31 then traceEnable s src v else { s with dbg := { x with trcCtl := v &&& 0x1FF0FFFF } }
    | 0x034 => { s with dbg := { x with trcBase := v.extractLsb' 0 22 } }
    | 0x584 => if s.srcLevel src = 3 then { s with dbg := { x with pmcsr := v.extractLsb' 0 12 } } else s
    | 0x588 => pmRegWrite s src fun h => h.debugCsr x.pmcsr.toNat v
    | _ => match idxIn o 0x400 4 64, idxIn o 0x500 4 33 with
      | some i, _ => tregAccess s src i (some v)
      | _, some i => pmRegWrite s src fun h => if i = 32 then { h with pc := v } else h.setX (Fin.ofNat 32 i) v
      | _, _ => s

/-! ### Depots -/

/-- DEP_TCTL[t] := v (Table 3.10): code 0 is no command; a code Table 3.5 does not list is ignored and sets cmd_err (R78, Table 3.8). -/
def tctlWrite (s : State) (ag : Agent) (t : Tid) (v : W32) : State :=
  match fld v 28 4 with
  | 1 => outState s (execStart ag t (v.extractLsb' 0 16) s)
  | 2 => outState s (execStop ag t s)
  | 3 => outState s (execResume ag t s)
  | 4 => outState s (execAbort ag t s)
  | 0 => s
  | _ => threadCmd ag t s (fun _ => false) fun s => s

/-- The transfer registers, for the Postmaster (R380). -/
def xferWrite (s : State) (d o : Nat) (v : W32) : State :=
  let D := s.dep d
  let x := D.xfer
  let open' := x.phase == .idle || x.phase == .wait
  match o with
  | 0x58 => s.setDep d { D with redir := v &&& 0x8000001F }
  | 0x60 =>
    if bitAt v 31 then xferGo s d v
    else if bitAt v 30 then xferAbort s d
    else if x.phase.active then s
    else s.setDep d { D with xfer := { x with spare := fld v 21 5, guard := fld v 0 16 } }
  | 0x64 => if open' then s.setDep d { D with xfer := { x with per := v } } else s
  | 0x68 => if open' then s.setDep d { D with xfer := { x with bnd := putLo x.bnd v } } else s
  | 0x6C => if open' then s.setDep d { D with xfer := { x with bnd := putHi x.bnd v } } else s
  | 0x70 => if open' then s.setDep d { D with xfer := { x with tmo := fld v 0 16 } } else s
  | _ => s

def depWriteReg (s : State) (ag : Agent) (d o : Nat) (v : W32) : State :=
  let D := s.dep d
  if !s.depWrite ag d then s
  else if 0x58 ≤ o ∧ o < 0x80 then (if isPm ag then xferWrite s d o v else s)
  else match o with
    | 0x00 => if bitAt v 0 then enableDepot s d else drainDepot s d
    | 0x08 => s.setDep d { D with stallLim := v.extractLsb' 0 24 }
    | 0x0C => s.setDep d { D with drainTmo := v.extractLsb' 0 16 }
    | 0x10 => s.setDep d { D with fstat := D.fstat &&& ~~~ (v.extractLsb' 0 7 &&& 0x7E) }
    | 0x14 => s.setDep d { D with fen := v.extractLsb' 0 7 &&& 0x7B }
    | 0x40 => s.setDep d { D with xselLo := v }
    | 0x44 => s.setDep d { D with xselHi := v }
    | 0x50 => s.setDep d { D with ldAddr := v.extractLsb' 0 16 }
    | 0x54 => outState s (execDepLdDataWrite ag d v s)
    | 0xB10 => popDl s d
    | _ =>
      match idxIn o 0x80 4 16, idxIn o 0x100 4 128, idxIn o 0x500 4 128, idxIn o 0x700 4 128 with
      | some e, _, _, _ => s.setDep d { D with chx := D.chx.set e (v.extractLsb' 0 16) 0 }
      | _, some t, _, _ => tctlWrite s ag (tidOf d t) v
      | _, _, some t, _ => outState s (execDepSliceWrite ag (tidOf d t) v s)
      | _, _, _, some t => s.setDep d (D.setThr t { D.thr t with prio := v.extractLsb' 0 4 })
      | _, _, _, _ =>
        match idxIn o 0x900 4 128, idxIn o 0xB80 4 8 with
        | some t, _ => s.setDep d (D.setThr t { D.thr t with tmo := v })
        | _, some j =>
          if s.secureAgent ag then
            s.setDep d { D with lxdom := (D.lxdom &&& ~~~ ((0xFFFFFFFF#256) <<< (32 * j))) ||| (v.setWidth 256 <<< (32 * j)) }
          else s
        | _, _ => s

/-! ### The register map -/

/-- Debug may write offset off (R418 to R420): at every level SEC_DBG_CTL, SEC_DBG_RESP and DBG_LEVEL; otherwise from level 1, and in Hold only DBG_CTL. -/
def State.dbgReaches (s : State) (off : Nat) : Bool :=
  off == 0x1070220 || (decide (0x1070260 ≤ off) && decide (off < 0x10702C0)) || off == 0x1080000
  || (s.dbg.level != 0 && (s.pwr.state != .hold || off == 0x108000C))

/-- A write of the 32-bit register at host byte offset off by agent ag (R7, R8, R411). -/
def regWrite (s : State) (ag : Agent) (off : Nat) (v : W32) : State :=
  let w := (off - 0x1000000) / 0x10000
  let o := off % 0x10000
  if s.inReset ∨ s.pwr.state = .off ∨ off % 4 ≠ 0 ∨ off < 0x1000000 ∨ (ag = .dbg ∧ !s.dbgReaches off) then s
  else if s.pwr.state = .hold ∧ !holdWindow w then s
  else if 0x1100000 ≤ off then (if off < 0x1300000 then depWriteReg s ag ((off - 0x1100000) / 0x10000) o v else s)
  else if 0x10C0000 ≤ off then groupWrite s ag (BitVec.ofNat 16 ((off - 0x10C0000) / 4)) 2 v
  else match w with
    | 0 => srtWrite s ag o v
    | 1 => pmkWrite s ag o v
    | 2 => pinWrite s ag o v
    | 3 => sealWrite s ag o v
    | 4 => lanWrite s ag o v
    | 5 => irqWrite s ag o v
    | 6 => pwrWrite s ag o v
    | 7 => secWrite s ag o v
    | 8 => dbgWrite s (dbgSrcOf ag) o v
    | 9 => idWrite s ag o v
    | _ => s

/-- REGISTER_WRITE: a write of a register acts by its access code (R7, R8). -/
def execRegisterWrite (ag : Agent) (off : Nat) (v : W32) (s : State) : Out := .next (regWrite s ag off v)

/-- HM_WIN_WRITE (R440). -/
def execHmWinWrite (ag : Agent) (v : W32) (s : State) : Out := .next (hmWinWrite s ag v)

end Sys2Proof.Machine
end

