-- ==== Sys2Proof/Machine/Host.lean ====
section
/-! DEFINITION. Accesses to exchange memory, letterbox RAM and Postmaster SRAM by agents that are not threads, the host subordinate port and the TAP (R149 to R155, R411, R418, R437 to R439). -/
namespace Sys2Proof.Machine

/-- The value of n bytes from byte a of a memory, least significant first. -/
def Mem.num (m : Mem) (a : Nat) : Nat → Nat
  | 0 => 0
  | n + 1 => (m.read a).toNat + 256 * Mem.num m (a + 1) n
/-! ### Exchange memory -/

/-- Check the pair-words of bytes [a, a + n) as agent reads (R152). -/
def xcheckAll (s : State) (id : BitVec 13) (pw : Nat) : Nat → State × Bool
  | 0 => (s, true)
  | k + 1 =>
    let r := xcheck s pw 0 id
    let q := xcheckAll r.1 id (pw + 1) k
    (q.1, r.2 && q.2)

/-- An aligned read of n bytes at byte a by an agent: none for an error response (R150 to R152, R411). -/
def xchRead (s : State) (ag : Agent) (a n : Nat) : State × Option Nat :=
  let w := a / 2
  match agentRefused s ag w 0 with
  | some s => (s, none)
  | none =>
    if !s.bankHere w then (s, some 0) else
    let r := xcheckAll (s.atPoint (codeOf ag) w) (agentId (s.who ag)) (a / 4) ((n + 3) / 4)
    (r.1, if r.2 then some (r.1.xch.mem.num a n) else none)

/-- An aligned write of n bytes at byte a by an agent; false for an error response. -/
def xchWrite (s : State) (ag : Agent) (a n v : Nat) : State × Bool :=
  let w := a / 2
  let id := agentId (s.who ag)
  match agentRefused s ag w 0 with
  | some s => (s, false)
  | none =>
    let s := s.atPoint (codeOf ag) w
    if n = 1 then
      let old := s.xword w
      let new : Word := if a % 2 = 0 then old.extractLsb' 8 8 ++ BitVec.ofNat 8 v else BitVec.ofNat 8 v ++ old.extractLsb' 0 8
      xwrite1 s w new 0 id
    else if n = 2 then xwrite1 s w (BitVec.ofNat 16 v) 0 id
    else if n = 4 then (xwrite2 s w (BitVec.ofNat 16 v) (BitVec.ofNat 16 (v / 65536)), true)
    else
      let s := xwrite2 s w (BitVec.ofNat 16 v) (BitVec.ofNat 16 (v / 65536))
      (xwrite2 s (w + 2) (BitVec.ofNat 16 (v / 2 ^ 32)) (BitVec.ofNat 16 (v / 2 ^ 48)), true)

/-! ### Letterbox RAM -/

/-- Agent ag is refused at byte a of letterbox RAM (R411, R420): debug needs level 2, and only reads. -/
def lbRefused (s : State) (ag : Agent) (a : Nat) (write : Bool) : Option State :=
  if ag = .dbg ∧ (write ∨ s.dbg.level.toNat < 2) then some s
  else if !s.secureAgent ag && !s.lbNormal (a / 0x1000) then some (s.violation 2 (agentId ag) (BitVec.ofNat 32 (a / 8)))
  else none

/-- An aligned read of n bytes of letterbox RAM; none for an error response (R155). -/
def lbRead (s : State) (ag : Agent) (a n : Nat) : State × Option Nat :=
  match lbRefused s ag a false with
  | some s => (s, none)
  | none => let r := lbParity s a n; (r.1, if r.2 then some (r.1.xch.lb.num a n) else none)

/-- A byte of letterbox RAM written by the host port in a port cycle that overlaps the present one of the Postmaster port: their clock periods share the time at which either began (R154). -/
def State.hostKeeps (s : State) (i : Nat) : Bool :=
  match s.xch.lbHost with
  | some (h, p, a, n) => (h == s.clk.hcyc || p == s.clk.pcyc) && decide (a ≤ i ∧ i < a + n)
  | none => false

/-- A write of n bytes at byte a of letterbox RAM; where writes of both ports overlap, a byte holds the host port's value (R154). -/
def lbWrite (s : State) (ag : Agent) (a n v : Nat) : State × Bool :=
  match lbRefused s ag a true with
  | some s => (s, false)
  | none =>
    let err := clearPar s.xch.lbErr a n
    if isPm ag then
      let bs := ((List.range n).zip (numBytes v n)).map fun e => if s.hostKeeps (a + e.1) then s.xch.lb.read (a + e.1) else e.2
      ({ s with xch := { s.xch with lb := s.xch.lb.writeBytes a bs, lbErr := err } }, true)
    else
      ({ s with xch := { s.xch with lb := s.xch.lb.writeBytes a (numBytes v n), lbErr := err, lbHost := some (s.clk.hcyc, s.clk.pcyc, a, n) } }, true)

/-! ### Postmaster SRAM -/

/-- The ECC of the SRAM words of bytes [a, a + n): a single error is corrected and counted, an uncorrectable one sets IRQ_SAFE.pm_ue (Table 14.5, R395). -/
def sramCheck (s : State) (w : Nat) : Nat → State × Bool
  | 0 => (s, true)
  | k + 1 =>
    match s.pm.sramErr.get w none with
    | none => sramCheck s (w + 1) k
    | some .single =>
      sramCheck { s with pm := { s.pm with sramErr := s.pm.sramErr.set w none none }, irq := { s.irq with pmCe := satInc s.irq.pmCe } } (w + 1) k
    | some .double => (s.safeEvt 5, false)

/-- A read of n bytes of SRAM from offset a. -/
def sramRead (s : State) (a n : Nat) : State × Option Nat :=
  let r := sramCheck s (a / 4) ((a + n + 3) / 4 - a / 4)
  (r.1, if r.2 then some (r.1.pm.sram.num a n) else none)

/-- A write of n bytes of SRAM from offset a; a whole word gets fresh check bits, and hart h's reservation of another hart's word is lost (R342). -/
def sramWrite (s : State) (h : Nat) (a n v : Nat) : State :=
  let err := if a % 4 = 0 ∧ n = 4 then s.pm.sramErr.set (a / 4) none none else s.pm.sramErr
  let s := { s with pm := { s.pm with sram := s.pm.sram.writeBytes a (numBytes v n), sramErr := err } }
  (List.range 2).foldl (fun s g =>
    let x := s.hart g
    if g != h && (match x.resv with | some r => decide (r < a + n ∧ a < r + 4) | none => false) then s.setHart g { x with resv := none } else s) s

/-! ### Targets by host byte offset -/

/-- What an offset of the block names (Table 16.7). -/
inductive BusTarget | xch | lb | pmDbg | regs
deriving DecidableEq, Repr
def busTarget (off : Nat) : BusTarget :=
  if off < 0x800000 then .xch else if off < 0x810000 then .lb
  else if 0x1400000 ≤ off ∧ off < 0x1500000 then .pmDbg else .regs

/-- The Postmaster debug window: SRAM for the debug agent, or host secure acting as it, at level 3 (R420). -/
def State.pmWindow (s : State) (ag : Agent) : Bool := s.pmDebug (dbgSrcOf ag) 0

/-- The block is in Hold. -/
def State.inHold (s : State) : Bool := s.pwr.state == .hold

/-- A seal operation at the alias registers that is refused like an access to the seal's word answers with an error response (R151, R411). -/
def State.aliasRefused (s : State) (ag : Agent) (off : Nat) : Bool :=
  (off == 0x1030044 || off == 0x1030048) && !s.inHold && (agentRefused s ag (s.alias ag).addr.toNat 1).isSome

/-- One read of 2^size bytes at offset off; none for an error response (R438). -/
def portRead (s : State) (ag : Agent) (off size : Nat) : State × Option Nat :=
  let n := 2 ^ size
  match busTarget off with
  | .xch => if off % n = 0 ∧ !s.inHold then xchRead s ag off n else (s, none)
  | .lb => if off % n = 0 ∧ !(ag = .dbg ∧ s.inHold) then lbRead s ag (off - 0x800000) n else (s, none)
  | .pmDbg => if s.pmWindow ag then sramRead s (off - 0x1400000) n else (s, none)
  | .regs =>
    if size = 2 then
      let r := regRead s ag off
      (r, if s.aliasRefused ag off then none else some r.rdata.toNat)
    else (s, none)

/-- One write of 2^size bytes; false for an error response. A write of another size to the group alias sets gw_err (R204). -/
def portWrite (s : State) (ag : Agent) (off size v : Nat) : State × Bool :=
  let n := 2 ^ size
  match busTarget off with
  | .xch => if off % n = 0 ∧ !s.inHold then xchWrite s ag off n v else (s, false)
  | .lb => if off % n = 0 ∧ !(ag = .dbg ∧ s.inHold) then lbWrite s ag (off - 0x800000) n v else (s, false)
  | .pmDbg => if s.pmWindow ag then (sramWrite s 2 (off - 0x1400000) n v, true) else (s, false)
  | .regs =>
    if size = 2 then (regWrite s ag off (BitVec.ofNat 32 v), !s.aliasRefused ag off)
    else if 0x10C0000 ≤ off ∧ off < 0x1100000 then (groupWrite s ag 0 (BitVec.ofNat 2 size) 0, false)
    else (s, false)

/-! ### The host subordinate port (R437 to R439) -/

/-- The host agent of the security attribute (Table 16.2). -/
def hostAgent (sec : Bool) : Agent := if sec then .hostS else .hostN

/-- A request of n beats is well formed: a burst is of 64-bit beats within 64 bytes of exchange memory or letterbox RAM (R438). -/
def burstOk (off size n : Nat) : Bool :=
  n == 1 || (size == 3 && decide (off % 64 + 8 * n ≤ 64) && (busTarget off == .xch || busTarget off == .lb))

/-- The strobes that size and address select. -/
def strobes (off size : Nat) : BitVec 8 := BitVec.ofNat 8 ((2 ^ 2 ^ size - 1) * 2 ^ (off % 8))

/-- A response leaves; at most 32 are outstanding (R439). -/
def respondHost (s : State) (r : HostRsp) : State := { s with hrsp := (s.hrsp ++ [r]).drop (s.hrsp.length - 31) }

/-- The read beats, each on its byte lanes; an error beat carries 0. -/
def readBeats (ag : Agent) (size : Nat) : Nat → Nat → State → State × List (W64 × Bool)
  | 0, _, s => (s, [])
  | k + 1, off, s =>
    let r := portRead s ag off size
    let q := readBeats ag size k (off + 8) r.1
    (q.1, (match r.2 with | some v => (BitVec.ofNat 64 (v * 2 ^ (8 * (off % 8))), false) | none => (0, true)) :: q.2)

/-- The write beats; whether any was refused. -/
def writeBeats (ag : Agent) (size : Nat) : List (W64 × BitVec 8) → Nat → State → State × Bool
  | [], _, s => (s, false)
  | (v, _) :: r, off, s =>
    let x := portWrite s ag off size (v.toNat / 2 ^ (8 * (off % 8)) % 2 ^ (8 * 2 ^ size))
    let q := writeBeats ag size r (off + 8) x.1
    (q.1, !x.2 || q.2)

/-- The port answers: out of reset and powered (R433, R408). -/
def State.portUp (s : State) : Bool := !s.inReset && s.pwr.state != .off && s.clk.hHz != 0

/-- HOST_READ (R437 to R439). -/
def execHostRead (id : BitVec 6) (sec : Bool) (addr : BitVec 25) (size : BitVec 2) (len : BitVec 3) (s : State) : Out :=
  let n := len.toNat + 1
  .next (if !s.portUp then s
    else if !burstOk addr.toNat size.toNat n then respondHost s { id := id, beats := List.replicate n (0, true) }
    else
      let r := readBeats (hostAgent sec) size.toNat n addr.toNat s
      respondHost r.1 { id := id, beats := r.2 })

/-- HOST_WRITE (R437 to R439): strobes other than those size and address select refuse the request. -/
def execHostWrite (id : BitVec 6) (sec : Bool) (addr : BitVec 25) (size : BitVec 2) (beats : List (W64 × BitVec 8)) (s : State) : Out :=
  let n := beats.length
  .next (if !s.portUp ∨ n = 0 ∨ 8 < n then s
    else if !burstOk addr.toNat size.toNat n ∨ beats.any (fun b => b.2 != strobes addr.toNat size.toNat) then
      let gw := decide (0x10C0000 ≤ addr.toNat ∧ addr.toNat < 0x1100000) && size != 2
      let s := if gw then groupWrite s (hostAgent sec) 0 size 0 else s
      respondHost s { id := id, beats := [(0, true)] }
    else
      let r := writeBeats (hostAgent sec) size.toNat beats addr.toNat s
      respondHost r.1 { id := id, beats := [(0, r.2)] })

/-! ### The TAP (R418) -/

/-- TAP_DBGACC: op 1 reads, op 2 writes one 32-bit word as the debug agent; the result stands for the next capture. -/
def execTapDbgacc (op : BitVec 2) (off data : W32) (s : State) : Out :=
  let s := { s with dbg := { s.dbg with tapIr := 0x8 } }
  .next (if s.inReset ∨ s.pwr.state = .off then s
    else match op with
    | 1 =>
      let r := portRead s .dbg off.toNat 2
      { r.1 with dbg := { r.1.dbg with tapRes := if r.2.isSome then 0 else 1, tapData := BitVec.ofNat 32 (r.2.getD 0) } }
    | 2 =>
      let r := portWrite s .dbg off.toNat 2 data.toNat
      { r.1 with dbg := { r.1.dbg with tapRes := if r.2 then 0 else 1 } }
    | _ => s)

end Sys2Proof.Machine
end

