-- ==== Sys2Proof/Machine/PmCore.lean ====
section
/-! DEFINITION. The Postmaster harts: accesses by region and attribute, the manager port, LR, SC and AMO, FENCE.I, mode CSRs, interrupts (R338 to R357, R440, R441). -/
namespace Sys2Proof.Machine

/-! ### Retirement with the I-cache -/

/-- Hart h becomes x; where deterministic mode comes into effect the I-cache is invalidated too (R354). -/
def putHart (s : State) (h : Nat) (x : Hart) : State :=
  s.setHart h (if x.det && !(s.hart h).det then { x with imem := s.pm.sram } else x)

/-- The 4-byte instruction of hart h retires with the registers f gives. -/
def retireH (s : State) (h : Nat) (f : Hart → Hart) : State := putHart s h (f (s.hart h)).retire

/-- A load or store retires; whether a word access is a compressed instruction is open. -/
def retireMem (s : State) (h : Nat) (word : Bool) (f : Hart → Hart) : State :=
  let x := f (s.hart h)
  (putHart s h (x.retireTo (x.pc + (if word && Config.flag s.free then 2 else 4)))).tick1

/-- A trap of hart h, by exception cause; pending mode-CSR writes come into force with it. -/
def raise (s : State) (h cause : Nat) (tval : W32) : State :=
  putHart s h ((s.hart h).trap false cause tval)

/-- An illegal-instruction exception; the value saved is open (0 or the instruction). -/
def illegalH (s : State) (h : Nat) : State := (raise s h 2 (Config.word32 s.free)).tick1

/-! ### Regions (Table 12.2) -/

inductive Region12 | rom | sram | xch | lb | regs | host
deriving DecidableEq, Repr

def regionOf (a : Nat) : Option Region12 :=
  if a < 0x10000 then some .rom
  else if 0x10000000 ≤ a ∧ a < 0x10100000 then some .sram
  else if 0x20000000 ≤ a ∧ a < 0x20800000 then some .xch
  else if 0x21000000 ≤ a ∧ a < 0x21010000 then some .lb
  else if 0x40000000 ≤ a ∧ a < 0x80000000 then some .regs
  else if 0x80000000 ≤ a ∧ a < 0x100000000 then some .host
  else none

/-- An access that is effectful rather than plain, at physical address a in a page of E bit e; e is false where no page counts (R343). -/
def effectful (e : Bool) (a : Nat) : Bool :=
  match regionOf a with
  | some .regs => true
  | some .xch | some .lb | some .host => e
  | _ => false

/-! ### Sv32 translation (R340, R347)

The page-table entries are those of the RISC-V privileged specification; their RSW bit 8 is the E bit, and A and D are software's (Table 12.1). -/

/-- The mode a load or store of hart x has: that of mstatus.MPP under mstatus.MPRV. -/
def Hart.accPriv (x : Hart) : Priv :=
  if x.priv = .m ∧ bitAt (x.effOf 0x300) 17 = true then privOf (fld (x.effOf 0x300) 11 2) else x.priv
/-- Loads and stores of hart x are translated: not in machine mode, and not in bare translation. -/
def Hart.paged (x : Hart) : Bool := x.accPriv != .m && bitAt (x.effOf 0x180) 31

/-- A page-table entry; none outside SRAM, where no table may lie, and for an uncorrectable word. -/
def pteRead (s : State) (a : Nat) : State × Option W32 :=
  if 0x10000000 ≤ a ∧ a + 4 ≤ 0x10100000 then
    let r := sramRead s (a - 0x10000000) 4
    (r.1, r.2.map fun v => BitVec.ofNat 32 v)
  else (s, none)

/-- V is set, and W not without R. -/
def pteValid (p : W32) : Bool := bitAt p 0 && (bitAt p 1 || !bitAt p 2)
/-- R or X: a leaf. -/
def pteLeaf (p : W32) : Bool := bitAt p 1 || bitAt p 3
/-- The leaf p lets hart x load, or store: R (or X under MXR), W and D, A, and U by mode and SUM. -/
def Hart.pteAllows (x : Hart) (store : Bool) (p : W32) : Bool :=
  bitAt p 6 && (if store then bitAt p 2 && bitAt p 7 else bitAt p 1 || (bitAt (x.effOf 0x300) 19 && bitAt p 3)) &&
    (if x.accPriv = .u then bitAt p 4 else !bitAt p 4 || bitAt (x.effOf 0x300) 18)

/-- A translated address with the page's E bit, or the cause of the exception. -/
inductive Xlat | ok (pa : Nat) (e : Bool) | fault (cause : Nat)
deriving DecidableEq, Repr

/-- The physical address of a load or store of hart h at va. -/
def xlate (s : State) (h : Nat) (store : Bool) (va : Nat) : State × Xlat :=
  let x := s.hart h
  let pageFault : Xlat := .fault (if store then 15 else 13)
  let accessFault : Xlat := .fault (if store then 7 else 5)
  if !x.paged then (s, .ok va false) else
  let r := pteRead s (fld (x.effOf 0x180) 0 22 * 4096 + va / 2 ^ 22 % 1024 * 4)
  match r.2 with
  | none => (r.1, accessFault)
  | some p =>
    if !pteValid p then (r.1, pageFault)
    else if pteLeaf p then
      (r.1, if fld p 10 10 ≠ 0 ∨ !x.pteAllows store p then pageFault else .ok (fld p 20 12 * 2 ^ 22 + va % 2 ^ 22) (bitAt p 8))
    else
      let t := pteRead r.1 (fld p 10 22 * 4096 + va / 4096 % 1024 * 4)
      match t.2 with
      | none => (t.1, accessFault)
      | some q => (t.1, if !pteValid q ∨ !pteLeaf q ∨ !x.pteAllows store q then pageFault else .ok (fld q 10 22 * 4096 + va % 4096) (bitAt q 8))

/-- Every part of an access, translated. -/
def xlateParts (h : Nat) (store : Bool) : List (Nat × Nat) → State → State × List ((Nat × Nat) × Xlat)
  | [], s => (s, [])
  | p :: r, s =>
    let x := xlate s h store p.1
    let y := xlateParts h store r x.1
    (y.1, (p, x.2) :: y.2)

/-- The parts of an access: its bytes up to the next multiple of its size, and the rest (R347). -/
def partsOf (a n : Nat) : List (Nat × Nat) :=
  if a % n = 0 then [(a, n)] else [(a, n - a % n), ((a + n - a % n) % 2 ^ 32, a % n)]

/-- A part passes the checks before it is sent: region, size, permission, bank power (R347). -/
def State.partOk (s : State) (store : Bool) (p : Nat × Nat) : Bool :=
  match regionOf p.1 with
  | none => false
  | some .rom => !store && !s.sec.romlock
  | some .regs => p.2 == 4
  | some .xch => let w := (p.1 - 0x20000000) / 2; !s.bankHere w || s.bankOn w
  | _ => true

/-! ### Parts at the block's own targets -/

/-- A read of k bytes of one pair-word (R347). -/
def xchPartRead (s : State) (ag : Agent) (off k : Nat) : State × Option (List Byte) :=
  let r := xchRead s ag (off / 4 * 4) 4
  (r.1, r.2.map fun v => (numBytes v 4).drop (off % 4) |>.take k)

/-- A write of part of one pair-word: one read-modify-write; not on an uncorrectable one (R150, R152). -/
def xchPartWrite (s : State) (ag : Agent) (off : Nat) (bs : List Byte) : State × Bool :=
  let w := off / 4 * 2
  let id := agentId (s.who ag)
  let b (i : Nat) : Byte := if off % 4 ≤ i ∧ i < off % 4 + bs.length then bs[i - off % 4]?.getD 0 else s.xch.mem.read (off / 4 * 4 + i)
  if bs.length = 4 then xchWrite s ag off 4 (leNum bs 0 4)
  else
    let lo := decide (off % 4 < 2)
    let hi := decide (2 < off % 4 + bs.length)
    let r := if lo then xwrite1 s w (b 1 ++ b 0) 0 id else (s, true)
    if r.2 && hi then xwrite1 r.1 (w + 1) (b 3 ++ b 2) 0 id else r

/-- A read of a part that is not in host memory; none for an access fault. -/
def partRead (s : State) (h : Nat) (p : Nat × Nat) : State × Option (List Byte) :=
  match regionOf p.1 with
  | some .rom => (s.tick1, some (numBytes (Config.word32 s.free).toNat p.2))
  | some .sram => let r := sramRead s (p.1 - 0x10000000) p.2; (r.1, r.2.map fun v => numBytes v p.2)
  | some .xch => xchPartRead s (hartAgent h) (p.1 - 0x20000000) p.2
  | some .lb => let r := lbRead s (hartAgent h) (p.1 - 0x21000000) p.2; (r.1, r.2.map fun v => numBytes v p.2)
  | some .regs =>
    if p.1 < 0x40400000 then
      let s := regRead s (hartAgent h) (0x1000000 + (p.1 - 0x40000000))
      (s, some (numBytes s.rdata.toNat 4))
    else (s, some (numBytes 0 4))
  | _ => (s, none)

/-- A write of a part that is not in host memory; false for an access fault. -/
def partWrite (s : State) (h : Nat) (p : Nat × Nat) (bs : List Byte) : State × Bool :=
  match regionOf p.1 with
  | some .sram => (sramWrite s h (p.1 - 0x10000000) p.2 (leNum bs 0 p.2), true)
  | some .xch => xchPartWrite s (hartAgent h) (p.1 - 0x20000000) bs
  | some .lb => lbWrite s (hartAgent h) (p.1 - 0x21000000) p.2 (leNum bs 0 p.2)
  | some .regs =>
    (if p.1 < 0x40400000 then regWrite s (hartAgent h) (0x1000000 + (p.1 - 0x40000000)) (BitVec.ofNat 32 (leNum bs 0 4)) else s, true)
  | _ => (s, false)

/-! ### The access -/

/-- The host address of a window address (R440). -/
def State.hostAddr (s : State) (a : Nat) : BitVec 40 := BitVec.ofNat 40 (s.boot.hmWin.toNat * 2 ^ 31 + a % 2 ^ 31)

/-- Where in the access the part of n bytes lies, with the parts r still to come. -/
def partOff (a : PmAccess) (n : Nat) (r : List (Nat × Nat)) : Nat := a.size - n - (r.map (·.2)).sum
/-- The bytes of the store that a part of n bytes carries. -/
def accBytes (a : PmAccess) (n : Nat) (r : List (Nat × Nat)) : List Byte := ((numBytes a.data.toNat 4).drop (partOff a n r)).take n
/-- The address a trap at that part saves: its first byte (R347). -/
def partVa (a : PmAccess) (n : Nat) (r : List (Nat × Nat)) : W32 := a.addr + BitVec.ofNat 32 (partOff a n r)

/-- The value a load writes. -/
def accValue (a : PmAccess) (bs : List Byte) : W32 :=
  let v := leNum bs 0 a.size
  if a.sgn && decide (2 ^ (8 * a.size - 1) ≤ v) then BitVec.ofInt 32 ((v : Int) - 2 ^ (8 * a.size)) else BitVec.ofNat 32 v

/-- A load fault is cause 5, a store fault cause 7; misalignment 4 and 6. -/
def accFault (a : PmAccess) : Nat := if a.store then 7 else 5

/-- A store updates the line it hits; a write allocates none (R344). -/
def Hart.lineStore (x : Hart) (p : Nat × Nat) (bs : List Byte) : Hart :=
  let l := p.1 / 32 * 32
  match x.dlines.get l [] with
  | [] => x
  | d => { x with dlines := x.dlines.set l ((List.range 32).map fun i =>
      if p.1 ≤ l + i ∧ l + i < p.1 + p.2 then bs[l + i - p.1]?.getD 0 else d[i]?.getD 0) [] }

/-- Perform the parts that remain, at physical addresses; a part in host memory sends a request and the access waits for its response (R441). e says that the access is effectful; n bounds the parts. -/
def runParts (h : Nat) (a : PmAccess) (e : Bool) : Nat → List (Nat × Nat) → List Byte → State → State
  | 0, _, _, s => s
  | _, [], got, s => retireMem s h (a.size == 4) fun x => if a.store then x else x.setX a.rd (accValue a got)
  | n + 1, p :: r, got, s =>
    if regionOf p.1 = some .host then
      let x := s.hart h
      let plain := !e && !x.det
      let line := p.1 / 32 * 32
      let ask (fill : Bool) (at' : Nat) (s : State) : State :=
        { s with pm := { s.pm with hm := s.pm.hm ++
          [{ id := BitVec.ofNat 3 (h * 4 + b2n a.store * 2 + b2n fill), hart := h, fill := fill, host := s.hostAddr at', part := p, acc := a, rest := r, got := got }] } }
      if a.store then ask false p.1 (s.setHart h (x.lineStore p (accBytes a p.2 r)))
      else if plain then
        match x.dlines.get line [] with
        | [] => ask true line s
        | d => runParts h a e n r (got ++ (d.drop (p.1 - line)).take p.2) s
      else ask false p.1 s
    else if a.store then
      let q := partWrite s h p (accBytes a p.2 r)
      if q.2 then runParts h a e n r got q.1 else raise q.1 h 7 (partVa a p.2 r)
    else
      let q := partRead s h p
      match q.2 with
      | some bs => runParts h a e n r (got ++ bs) q.1
      | none => raise q.1 h 5 (partVa a p.2 r)

/-- The exception that the check of a translated part finds: of its translation, else of its region, size, permission or bank (R347). -/
def State.partCause (s : State) (a : PmAccess) (p : (Nat × Nat) × Xlat) : Option Nat :=
  match p.2 with
  | .fault c => some c
  | .ok pa _ => if s.partOk a.store (pa, p.1.2) then none else some (accFault a)
/-- The part is effectful, its physical address and length. -/
def partEff (p : (Nat × Nat) × Xlat) : Bool := match p.2 with | .ok pa e => effectful e pa | .fault _ => false
def partPa (p : (Nat × Nat) × Xlat) : Nat × Nat := (match p.2 with | .ok pa _ => pa | .fault _ => 0, p.1.2)

/-- PM_UNALIGNED_ACCESS (R343, R347 to R349): checked whole before a part is sent; an unaligned access to an effectful region accesses nothing. -/
def execPmUnalignedAccess (h : Nat) (a : PmAccess) (s : State) : Out :=
  .next (if !s.hartUp h ∨ ¬(a.size = 1 ∨ a.size = 2 ∨ a.size = 4) then s
    else
      let r := xlateParts h a.store (partsOf a.addr.toNat a.size) s
      if r.2.length = 2 ∧ r.2.any partEff then raise r.1 h (if a.store then 6 else 4) a.addr
      else match r.2.find? (fun p => (r.1.partCause a p).isSome) with
        | some p => raise r.1 h ((r.1.partCause a p).getD 0) (BitVec.ofNat 32 p.1.1)
        | none => runParts h a (r.2.any partEff) 3 (r.2.map partPa) [] r.1)

/-- HM_RESPONSE: the response to request id, with the bytes read, or an error (R441). A fill allocates its line, an error faults the instruction. What is left of an access is plain: an effectful one is not split. -/
def execHmResponse (id : BitVec 3) (data : List Byte) (err : Bool) (s : State) : Out :=
  .next (match s.pm.hm.find? (fun r => r.id == id) with
    | none => s
    | some q =>
      if s.inReset || s.irq.pmFrozen then s else
      let s := { s with pm := { s.pm with hm := s.pm.hm.erase q } }
      let h := q.hart
      if err then raise s h (accFault q.acc) (partVa q.acc q.part.2 q.rest)
      else if q.acc.store then runParts h q.acc false 3 q.rest q.got s
      else if q.fill then
        let l := q.part.1 / 32 * 32
        let d := (List.range 32).map fun i => data[i]?.getD 0
        let s := s.setHart h { s.hart h with dlines := (s.hart h).dlines.set l d [] }
        runParts h q.acc false 3 q.rest (q.got ++ (d.drop (q.part.1 - l)).take q.part.2) s
      else runParts h q.acc false 3 q.rest (q.got ++ (List.range q.part.2).map fun i => data[i]?.getD 0) s)

/-! ### LR, SC, AMO (R342, R349) -/

/-- An atomic access of hart h at addr: misaligned, not translated, outside SRAM, uncorrectable, or k with the offset in SRAM and the old value. -/
def atomicH (s : State) (h : Nat) (addr : W32) (store : Bool) (k : State → Nat → W32 → State) : State :=
  let fault := if store then 7 else 5
  if !s.hartUp h then s
  else if addr.toNat % 4 ≠ 0 then raise s h (if store then 6 else 4) addr
  else
    let t := xlate s h store addr.toNat
    match t.2 with
    | .fault c => raise t.1 h c addr
    | .ok pa _ =>
      if regionOf pa ≠ some .sram then raise t.1 h fault addr
      else
        let r := sramRead t.1 (pa - 0x10000000) 4
        match r.2 with
        | none => raise r.1 h fault addr
        | some v => k r.1 (pa - 0x10000000) (BitVec.ofNat 32 v)

/-- PM_LR. -/
def execPmLr (h : Nat) (rd : Fin 32) (addr : W32) (s : State) : Out :=
  .next (atomicH s h addr false fun s o v =>
    let s := retireH s h fun x => x.setX rd v
    s.setHart h { s.hart h with resv := some o, resvAge := 0 })

/-- PM_SC: stores with the reservation of its word held and at most 64 instructions since the LR; the reservation is lost either way. -/
def execPmSc (h : Nat) (rd : Fin 32) (addr v : W32) (s : State) : Out :=
  .next (atomicH s h addr true fun s o _ =>
    let x := s.hart h
    let ok := x.resv == some o && decide (x.resvAge ≤ 64)
    let s := if ok then sramWrite s h o 4 v.toNat else s
    retireH s h fun x => { x.setX rd (if ok then 0 else 1) with resv := none })

/-- The RV32A operations. -/
def amoApply (op : AmoOp) (a b : W32) : W32 :=
  match op with
  | .swap => b | .add => a + b | .xor => a ^^^ b | .and => a &&& b | .or => a ||| b
  | .min => if a.slt b then a else b
  | .max => if a.slt b then b else a
  | .minu => if a.ult b then a else b
  | .maxu => if a.ult b then b else a

/-- PM_AMO. -/
def execPmAmo (h : Nat) (op : AmoOp) (rd : Fin 32) (addr v : W32) (s : State) : Out :=
  .next (atomicH s h addr true fun s o old =>
    retireH (sramWrite s h o 4 (amoApply op old v).toNat) h fun x => x.setX rd old)

/-! ### FENCE.I and CSRs -/

/-- PM_FENCE_I: the hart's fetch sees every store so far (R352). -/
def execPmFenceI (h : Nat) (s : State) : Out :=
  .next (if s.hartUp h then retireH s h fun x => { x with imem := s.pm.sram } else s)

def modeCsrNum : ModeCsr → Nat
  | .mstatus => 0x300 | .sstatus => 0x100 | .mie => 0x304 | .sie => 0x104 | .mideleg => 0x303 | .medeleg => 0x302
  | .mtvec => 0x305 | .stvec => 0x105 | .satp => 0x180

/-- The hart's mode may write CSR c: machine CSRs in machine mode, supervisor CSRs also in supervisor mode; satp not there under mstatus.TVM. -/
def Hart.mayWrite (x : Hart) (c : ModeCsr) : Bool :=
  match c with
  | .sstatus | .sie | .stvec => x.priv != .u
  | .satp => x.priv == .m || (x.priv == .s && !bitAt (x.effOf 0x300) 20)
  | _ => x.priv == .m

/-- PM_MODE_CSR_WRITE: the value reads back at once and takes effect for the fourth instruction after (R353). -/
def execPmModeCsrWrite (h : Nat) (c : ModeCsr) (v : W32) (s : State) : Out :=
  .next (if !s.hartUp h then s
    else if !(s.hart h).mayWrite c then illegalH s h
    else
      let s := retireH s h id
      let x := s.hart h
      let r := x.csrNew (modeCsrNum c) v
      s.setHart h { x.putCsr r.1 r.2 with pendW := x.pendW ++ [(r.1, r.2, 3)] })

/-- PMDET_WRITE: en reads back at once; act follows for the fourth instruction after (R353, R354, R357). -/
def execPmdetWrite (h : Nat) (v : W32) (s : State) : Out :=
  .next (if !s.hartUp h then s
    else if (s.hart h).priv ≠ .m then illegalH s h
    else
      let s := retireH s h id
      let x := s.hart h
      s.setHart h { x.putCsr 0x7C0 (v &&& 1) with pendW := x.pendW ++ [(0x7C0, v &&& 1, 3)] })

/-- PMDCINV_WRITE: every D-cache line of host-window data goes (R344, R357). -/
def execPmdcinvWrite (h : Nat) (s : State) : Out :=
  .next (if !s.hartUp h then s
    else if (s.hart h).priv ≠ .m then illegalH s h
    else retireH s h fun x => { x with dlines := [] })

/-! ### Interrupts -/

/-- PM_TIMER_COMPARE: the compare at a PCLK edge (R341). -/
def execPmTimerCompare (h : Nat) (s : State) : Out :=
  .next (if (h = 0 ∨ (h = 1 ∧ !s.straps.pmTwin)) ∧ !s.inReset ∧ s.clk.pHz ≠ 0 then
    s.setHart h { s.hart h with mtip := decide ((s.hart h).tcmp.toNat ≤ s.timeCsr.toNat) } else s)

/-- The interrupts of hart h that are pending and enabled for machine mode, and for supervisor mode. -/
def State.irqReady (s : State) (h : Nat) : W32 × W32 :=
  let x := s.hart h
  let p := s.mip h &&& x.effOf 0x304
  let d := x.effOf 0x303
  let st := x.effOf 0x300
  (if x.priv != .m || bitAt st 3 then p &&& ~~~ d else 0,
   if x.priv == .u || (x.priv == .s && bitAt st 1) then p &&& d else 0)

/-- The interrupt taken among those of v: the standard order among 11, 3, 7, 9, 1, 5; where local ones are pending, which one comes first is open. -/
def State.pickIrq (s : State) (v : W32) : Option Nat :=
  let std := ([11, 3, 7, 9, 1, 5].filter fun b => bitAt v b).take 1
  let loc := (List.range 13).filterMap fun i => if bitAt v (16 + i) then some (16 + i) else none
  let cs := std ++ loc
  cs[(Config.word32 s.free).toNat % (if cs.length = 0 then 1 else cs.length)]?

/-- The hart can take an interrupt: as hartUp, and also out of WFI. -/
def State.irqUp (s : State) (h : Nat) : Bool := (s.setHart h { s.hart h with wfi := false }).hartUp h

/-- PM_INTERRUPT: a pending enabled interrupt is taken between instructions, machine ones first (R355, R356). -/
def execPmInterrupt (h : Nat) (s : State) : Out :=
  let r := s.irqReady h
  .next (if !s.irqUp h then s
    else match s.pickIrq (if r.1 = 0 then r.2 else r.1) with
      | some c => (putHart s h ((s.hart h).trap true c 0)).tick1
      | none => s)

end Sys2Proof.Machine
end

