-- ==== Sys2Proof/Machine/LetterEv.lean ====
section
/-! DEFINITION. Letters in and out: reading the H2P rings, checks, turns, polls, reply timeouts, and the move of chute dead letters (R147, R312 to R327). -/
namespace Sys2Proof.Machine

/-- The host-to-Postmaster producer index of letterbox n as letterbox RAM holds it. -/
def State.h2pProd (s : State) (n : Nat) : Nat := (s.lb32 (h2pBase n)).toNat

/-- Sheow reads the producer index of letterbox n (R315, R318): a value above 503 is recorded once and nothing is read. -/
def readProd (s : State) (n : Nat) : State :=
  let s := (lbParity s (h2pBase n) 4).1
  let b := s.box n
  if 503 < s.h2pProd n then
    let s := if b.badIdx then s else logRec s (dlEntry s 2 0 n [] (s.h2pProd n))
    s.setBox n { b with prodIn := b.cons, badIdx := true }
  else s.setBox n { b with prodIn := s.h2pProd n, badIdx := false }

/-- Sheow takes the doorbell of letterbox n: the bit is cleared first, then prod is read (R318). -/
def takeBell (s : State) (n : Nat) : State :=
  if bitAt s.irq.h2p n then readProd { s with irq := { s.irq with h2p := clrBit s.irq.h2p n } } n else s

/-- A letter waits in letterbox n, known or announced by its doorbell. -/
def State.letterWaits (s : State) (n : Nat) : Bool := (s.box n).cons != (s.box n).prodIn || bitAt s.irq.h2p n

/-- The turn order of the letterboxes other than LB2 (R326). -/
def turnOrder : List Nat := [0, 1, 3, 4, 5, 6, 7, 8, 9, 10, 11, 12, 13, 14, 15]

/-- Letterbox n can start a letter: none of its own is in service, and its last reply is out (R326, R327). -/
def State.boxReady (s : State) (n : Nat) : Bool := (s.box n).svc == none && (s.box n).outq == []
/-- The letterbox whose turn it is: the first from `turn` on that can start a waiting letter. -/
def State.turnOf (s : State) : Option Nat :=
  ((turnOrder.drop s.sheow.turn) ++ turnOrder.take s.sheow.turn).find? fun n => s.letterWaits n && s.boxReady n

/-- A letterbox other than LB2 holds back the others: a letter in service there that is no background task (R326, R376). -/
def State.serving (s : State) : Bool :=
  turnOrder.any fun n => match (s.box n).svc with
    | some l => !(l.cls == 10 && l.op == 1)
    | none => false

/-- Letterbox n may start its next letter: LB2 first, the others by turns, none while its own is in service (R326). -/
def State.mayServe (s : State) (n : Nat) : Bool :=
  decide (n < 16) && s.boxReady n &&
  (n == 2 || (!s.letterWaits 2 && (s.box 2).svc == none && !s.serving && s.turnOf == some n))

/-- The classes and ops of Tables 11.7 to 11.10. -/
def lastOp : Nat → Nat
  | 1 => 5 | 2 => 4 | 3 => 7 | 4 => 9 | 5 => 4 | 6 => 7 | 7 => 3 | 8 => 3 | 9 => 4 | 10 => 5 | 11 => 2 | 12 => 5 | _ => 0
def knownOp (cls op : Nat) : Bool := decide (1 ≤ op ∧ op ≤ lastOp cls)

/-- Words [i, i + k) of the ring of letterbox n; a word with a parity error reads as a free value (R155). -/
def readRing (s : State) (n i : Nat) : Nat → State × List W32
  | 0 => (s, [])
  | k + 1 =>
    let a := ringAddr (h2pBase n) i
    let r := lbParity s a 4
    let w := if r.2 then s.lb32 a else Config.word32 s.free
    let p := readRing (if r.2 then r.1 else r.1.tick1) n (i + 1) k
    (p.1, w :: p.2)

/-- The header breaks Table 11.3: a reserved bit, a flag or status that commands hold 0, or a length above 256. -/
def badHeader (w0 w2 w3 : W32) : Bool :=
  fld w0 0 16 != 0 || decide (256 < w2.toNat) || fld w3 30 2 != 0 || fld w3 0 29 != 0

/-- The letter with header ws and body bs. -/
def letterOf (ws bs : List W32) : Letter :=
  let w0 := ws.headD 0
  { cls := fld w0 24 8, op := fld w0 16 8, tag := BitVec.ofNat 16 (fld ((ws.drop 1).headD 0) 16 16)
    quiet := bitAt ((ws.drop 3).headD 0) 29, body := bs, hdr := ws }

/-- A letter refused before its row: reply, and record with cause c (R323). -/
def refuseLetter (s : State) (n : Nat) (l : Letter) (c : Nat) (st : LStat) : State :=
  replyTo (logRec s (dlEntry s c 0 n l.hdr st.code)) n l (.err st 0xFFFF 0)

/-- The consumer index of letterbox n moves to c (R313). -/
def putCons (s : State) (n c : Nat) : State :=
  (s.lbPut32 (h2pBase n + 4) (BitVec.ofNat 32 c)).setBox n { s.box n with cons := c }

/-- The expected sequence number is checked and moves on (R320). -/
def checkSeq (s : State) (n : Nat) (l : Letter) : State :=
  let q := BitVec.ofNat 16 (fld ((l.hdr.drop 1).headD 0) 0 16)
  let b := s.box n
  let s := if q = b.seqIn then s else logRec s (dlEntry s 3 0 n l.hdr b.seqIn.toNat)
  s.setBox n { b with seqIn := q + 1 }

/-- Read the next letter of letterbox n and start it (R319 to R324). -/
def startLetter (s : State) (n : Nat) : State :=
  let b := s.box n
  let avail := (b.prodIn + 504 - b.cons) % 504
  let (s, ws) := readRing s n b.cons 4
  let len := fld ((ws.drop 2).headD 0) 0 9
  if avail < 4 ∨ badHeader (ws.headD 0) ((ws.drop 2).headD 0) ((ws.drop 3).headD 0) ∨ avail < 4 + len then
    refuseLetter (putCons s n b.prodIn) n (letterOf ws []) 1 .header
  else
    let (s, bs) := readRing s n (b.cons + 4) len
    let l := letterOf ws bs
    let s := checkSeq (putCons s n ((b.cons + 4 + len) % 504)) n l
    if !knownOp l.cls l.op then refuseLetter s n l 1 .cls
    else if !bitAt (s.box n).classes l.cls then refuseLetter s n l 4 .box
    else s.setBox n { s.box n with svc := some l }

/-- The turn passes to the letterbox after n (R326). -/
def passTurn (s : State) (n : Nat) : State :=
  if n = 2 then s
  else { s with sheow := { s.sheow with turn := ((turnOrder.findIdx? fun m => m == n).getD 0 + 1) % 15 } }

/-- LETTER_SERVE (R326): Sheow takes the doorbell, then starts the next letter of letterbox n in ring order. Replies that still wait for room go first (R327). -/
def execLetterServe (n : Nat) (s : State) : Out :=
  .next (if !s.shUp then s else
    let s := flushBox n ((s.box n).outq.length) s
    if s.mayServe n && s.letterWaits n then
      let s := takeBell s n
      if (s.box n).cons = (s.box n).prodIn then s else passTurn (startLetter s n) n
    else s)

/-- LETTER_POLL: every poll_ms Sheow reads every H2P prod (R318); letters that wait for room are tried again. -/
def execLetterPoll (s : State) : Out :=
  .next (if s.shUp ∧ s.sheow.lastPoll + s.sheow.pollMs * msBt ≤ s.clk.bt then
    let s := { s with sheow := { s.sheow with lastPoll := s.clk.bt } }
    (List.range 16).foldl (fun s n => flushBox n ((s.box n).outq.length) (readProd s n)) s
  else s)

/-- REPLY_TIMEOUT: on a letterbox other than LB2 a letter still waiting after reply_tmo is logged RING_FULL and not sent (R327). -/
def execReplyTimeout (n : Nat) (s : State) : Out :=
  .next (if !s.shUp || n == 2 || decide (16 ≤ n) then s else
    let s := flushBox n ((s.box n).outq.length) s
    match (s.box n).outq with
    | [] => s
    | l :: r =>
      if l.since + s.sheow.replyTmo * msBt ≤ s.clk.bt then
        logRec (s.setBox n { s.box n with outq := r, seqOut := (s.box n).seqOut + 1 }) (dlEntry s 5 0 n ((l.words (s.box n).seqOut).take 4) (l.cls * 256 + l.op))
      else s)

/-! ### Chute dead letters (R147, Table 11.11) -/

/-- Sheow moves the oldest record of depot d to its log and pops it. -/
def moveDl (s : State) (d : Nat) : State :=
  match (s.dep d).dl with
  | [] => s
  | r :: _ =>
    let D := s.dep d
    popDl (logRec s (dlEntry s 6 1 d [D.dlHdr, D.dlInfo, D.dlWord 0, D.dlWord 1] r.cause)) d

/-- CHUTE_DL_LOST was not 0: recorded with the count, which the read clears. -/
def moveLost (s : State) (d : Nat) : State :=
  if (s.dep d).dlLost = 0 then s
  else (logRec s (dlEntry s 7 1 d [] (s.dep d).dlLost.toNat)).setDep d { s.dep d with dlLost := 0 }

/-- UNIT_LOST: detail is unit [15:12] and count [11:0]; the read clears the count. -/
def unitLost (s : State) (u : Nat) (n : W32) (clear : State → State) : State :=
  if n = 0 then s else clear (logRec s (dlEntry s 10 3 0 [] (u * 4096 + Nat.min n.toNat 4095)))
def moveUnitLost (s : State) : State :=
  let s := unitLost s 0 s.pmk.evtLost fun s => { s with pmk := { s.pmk with evtLost := 0 } }
  let s := unitLost s 1 s.pins.msgLost fun s => { s with pins := { s.pins with msgLost := 0 } }
  unitLost s 2 s.lan.msgLost fun s => { s with lan := { s.lan with msgLost := 0 } }

/-- DEAD_LETTER_MOVE (R147): with the record go the loss counters of the depot and of the units. -/
def execDeadLetterMove (d : Nat) (s : State) : Out :=
  .next (if s.shUp && s.depUp d && (s.dep d).dl != [] then moveUnitLost (moveLost (moveDl s d) d) else s)

end Sys2Proof.Machine
end

