-- ==== Sys2Proof/Machine/OpsServ.lean ====
section
/-! DEFINITION. What the letters and the services share: places, threads, the media clock, records, pins, relays, supplies (R25, R279, R282, R284 to R292, R306 to R311, R332). -/
namespace Sys2Proof.Machine

/-! ### Places in a memory range -/

/-- [b, b + n) lies in [lo, hi) and meets no used piece. -/
def placeFits (lo hi n : Nat) (used : List (Nat × Nat)) (b : Nat) : Bool :=
  decide (lo ≤ b ∧ b + n ≤ hi) && used.all fun u => decide (b + n ≤ u.1 ∨ u.1 + u.2 ≤ b)
/-- A free place for n: the firmware's own choice where it is free, else the first that is. -/
def findPlace (pick lo hi n : Nat) (used : List (Nat × Nat)) : Option Nat :=
  if placeFits lo hi n used pick then some pick
  else (lo :: used.map fun u => u.1 + u.2).find? fun b => placeFits lo hi n used b
/-- The room from b up to the next used piece or hi. -/
def roomAt (hi : Nat) (used : List (Nat × Nat)) (b : Nat) : Nat :=
  if used.any fun u => decide (u.1 ≤ b ∧ b < u.1 + u.2) then 0
  else (used.foldl (fun m u => if b ≤ u.1 then Nat.min m u.1 else m) hi) - b
/-- What is missing for n in the largest gap. -/
def placeShort (lo hi n : Nat) (used : List (Nat × Nat)) : Nat :=
  n - ((lo :: used.map fun u => u.1 + u.2).map (roomAt hi used)).foldl Nat.max 0

/-! ### Threads of the library (R282, Table 9.5, Table 10.8) -/

def State.role (s : State) (t : Tid) : Option ThreadRole := s.sheow.roles.get t.toNat none
def State.setRole (s : State) (t : Tid) (r : Option ThreadRole) : State :=
  { s with sheow := { s.sheow with roles := s.sheow.roles.set t.toNat r none } }
/-- A thread of the shipped library. -/
def State.library (s : State) (t : Tid) : Bool := match s.role t with | some r => r.service != 0 | none => false
def State.anyTwin (s : State) : Bool := (List.range s.nDep).any fun d => s.twin d

/-- Depots that may hold threads of service sv: placed, powered, neither spare nor failed; for the alarm path, set to twin when any depot is (R282). -/
def State.placeDeps (s : State) (sv : Nat) (alarm : Bool) : List Nat :=
  (List.range s.nDep).filter fun d =>
    bitAt (s.sheow.place.get sv 0) d && s.depUp d && !bitAt s.sheow.spares d && !bitAt s.sheow.failed d && (!alarm || !s.anyTwin || s.twin d)
/-- Threads that could take a role of service sv. -/
def State.freeTids (s : State) (sv : Nat) (alarm : Bool) : List Tid :=
  (s.placeDeps sv alarm).flatMap fun d => ((List.range 128).map (tidOf d)).filter fun t => !s.follower t && s.role t == none && (s.thr t).state == .idle

/-- Start a library thread of service sv: its depot enabled, its role noted, START at its parcel entry, which the manual does not give (R390). -/
def startLib (s : State) (t : Tid) (sv : Nat) : State :=
  let s := if (s.dep (depOf t)).state = .off then enableDepot s (depOf t) else s
  let e := Config.word16 s.free
  let s := (s.setRole t (some { service := sv, parcel := 0, base := 0, entry := e.toNat })).tick1
  if s.depRun (depOf t) && startOk (s.thr t) then startThr s t e else s

/-- The library thread works: its depot runs, its pair is not frozen, it is neither stopped nor faulted. -/
def State.libRuns (s : State) (t : Tid) : Bool :=
  s.depIssues (depOf t) && !s.frozen t && s.library t && ((s.thr t).state == .running || (s.thr t).state == .blocked)

def ceilDiv (n k : Nat) : Nat := (n + k - 1) / k

def State.chan (s : State) (c : Nat) : Chan := s.sheow.chans.get c {}
def State.setChan (s : State) (c : Nat) (x : Chan) : State := { s with sheow := { s.sheow with chans := s.sheow.chans.set c x {} } }
def Chan.par (x : Chan) (id : Nat) : Int := param x.live id
def Chan.parN (x : Chan) (id : Nat) : Nat := (x.par id).toNat
def State.supply (s : State) (k : Nat) : Supply := s.sheow.supplies.get k {}
def State.setSupply (s : State) (k : Nat) (x : Supply) : State := { s with sheow := { s.sheow with supplies := s.sheow.supplies.set k x {} } }
def Supply.par (x : Supply) (id : Nat) : Int := param x.live id
def Supply.parN (x : Supply) (id : Nat) : Nat := (x.par id).toNat
def State.sin (s : State) (i : Nat) : Option StreamIn := s.sheow.streamsIn.get i none
def State.setSin (s : State) (i : Nat) (x : Option StreamIn) : State := { s with sheow := { s.sheow with streamsIn := s.sheow.streamsIn.set i x none } }
def State.sout (s : State) (i : Nat) : Option StreamOut := s.sheow.streamsOut.get i none
def State.setSout (s : State) (i : Nat) (x : Option StreamOut) : State := { s with sheow := { s.sheow with streamsOut := s.sheow.streamsOut.set i x none } }

/-- Enabled channels, on the alarm path or not (R282, Table 10.8). -/
def State.chansOn (s : State) (alarm : Bool) : List Nat :=
  (s.sheow.chans.filter fun e => e.2.enabled && (s.zone e.2.zone).onAlarmPath == alarm).map (·.1)
/-- Zones on the alarm path or not, in ascending order. -/
def State.zonesOn (s : State) (alarm : Bool) : List Nat :=
  (s.sheow.zones.filter fun e => e.2.declared && e.2.onAlarmPath == alarm).map (·.1)

/-- Pack zones on threads, each filled while R279 admits; the zones left over. -/
def packZones (s : State) : List Nat → List Tid → List Nat → List (Tid × List Nat) × List Nat
  | [], [], _ => ([], [])
  | [], t :: _, cur => (if cur = [] then [] else [(t, cur)], [])
  | z :: zs, [], _ => ([], z :: zs)
  | z :: zs, t :: ts, cur =>
    if s.admits (depOf t) ((cur ++ [z]).map s.zone) then packZones s zs (t :: ts) (cur ++ [z])
    else if cur = [] then ([], z :: zs)
    else match ts with
      | [] => ([(t, cur)], z :: zs)
      | t' :: _ =>
        if s.admits (depOf t') [s.zone z] then
          let p := packZones s zs ts [z]
          ((t, cur) :: p.1, p.2)
        else ([(t, cur)], z :: zs)

/-- Threads that service sv needs for what is declared: alarm path, others (Tables 9.5 and 10.8). Zone threads are counted on the first depot that could hold them. -/
def State.needs (s : State) (sv : Nat) : Nat × Nat :=
  match sv with
  | 1 =>
    let n (alarm : Bool) : Nat :=
      let t := tidOf ((s.placeDeps 1 alarm).headD 0) 0
      let p := packZones s (s.zonesOn alarm) (List.replicate (s.zonesOn alarm).length t) []
      p.1.length + p.2.length
    (n true, n false)
  | 2 =>
    let a := (s.sheow.streamsIn.filter fun e => match e.2 with | some x => x.alarm | none => false).length
    (a, ceilDiv (s.sheow.streamsIn.length - a) 16)
  | 3 => (0, ceilDiv s.sheow.streamsOut.length 32)
  | 4 => (0, ceilDiv (s.sheow.zones.filter fun e => e.2.angOn).length 64)
  | 5 => (0, ceilDiv (4 * ((s.chansOn true).length + (s.chansOn false).length) + 2 * (s.sheow.supplies.filter fun e => e.2.enabled).length) 17)
  | 6 => ((s.chansOn true).length, (s.chansOn false).length)
  | 7 => (ceilDiv (s.chansOn true).length 16, ceilDiv (s.chansOn false).length 16)
  | 8 => (0, (s.sheow.supplies.filter fun e => e.2.enabled).length)
  | _ => (0, 0)

/-- Threads that already serve sv. -/
def State.serves (s : State) (sv : Nat) : Nat :=
  (s.sheow.roles.filter fun e => match e.2 with | some r => r.service == sv | none => false).length

/-- Threads missing for service sv: alarm threads may use only the depots of the alarm path (R282). -/
def State.threadShort (s : State) (sv : Nat) : Nat :=
  let n := s.needs sv
  let have' := s.serves sv
  let a := n.1 - have'
  let o := n.2 - (have' - n.1)
  Nat.max (a - (s.freeTids sv true).length) (a + o - (s.freeTids sv false).length)

/-- Start n more threads of a service, on the alarm path or not. -/
def startMore (s : State) (sv : Nat) (alarm : Bool) : Nat → State
  | 0 => s
  | n + 1 => match s.freeTids sv alarm with
    | t :: _ => startMore (startLib s t sv) sv alarm n
    | [] => s

/-- Give every enabled channel its modulator thread and every enabled supply its power thread. -/
def bindThreads (s : State) : State :=
  let s := s.sheow.chans.foldl (fun s e =>
    if e.2.enabled && e.2.tid == none then
      match s.freeTids 6 (s.zone e.2.zone).onAlarmPath with
      | t :: _ => (startLib s t 6).setChan e.1 { s.chan e.1 with tid := some t }
      | [] => s
    else s) s
  s.sheow.supplies.foldl (fun s e =>
    if e.2.enabled && e.2.tid == none then
      match s.freeTids 8 false with
      | t :: _ => (startLib s t 8).setSupply e.1 { s.supply e.1 with tid := some t }
      | [] => s
    else s) s

/-- The streams that receive thread t serves. -/
def State.streamsOf (s : State) (t : Tid) : List StreamIn :=
  s.sheow.streamsIn.filterMap fun e => match e.2 with | some x => if x.tid = some t then some x else none | none => none
/-- The receive thread for one more stream: one of its own for an alarm stream, else one that serves fewer than 16 streams and none declared alarm, a partly used one first (R281, Table 9.5). -/
def State.recvThread (s : State) (alarm : Bool) : Option Tid :=
  let ts := s.sheow.roles.filterMap fun e => match e.2 with | some r => if r.service = 2 then some (BitVec.ofNat 12 e.1) else none | none => none
  let idle := ts.filter fun t => s.streamsOf t == []
  if alarm then
    match idle.find? fun t => (s.placeDeps 2 true).contains (depOf t) with | some t => some t | none => idle.head?
  else
    match ts.find? fun t => let xs := s.streamsOf t; xs != [] && decide (xs.length < 16) && !xs.any (·.alarm) with
    | some t => some t
    | none => idle.head?
/-- Streams without a receive thread are bound to one, alarm streams first. -/
def bindStreams (s : State) : State :=
  [true, false].foldl (fun s alarm => s.sheow.streamsIn.foldl (fun s e => match s.sin e.1 with
    | some x => if x.alarm == alarm && x.tid == none then s.setSin e.1 (some { x with tid := s.recvThread alarm }) else s
    | none => s) s) s

/-- Start the threads services 2 to 8 still lack. -/
def startServices (s : State) : State :=
  let s := bindThreads s
  bindStreams ([2, 3, 4, 5, 7].foldl (fun s sv =>
    let n := s.needs sv
    let have' := s.serves sv
    let a := n.1 - have'
    startMore (startMore s sv true a) sv false (n.2 - (have' - n.1))) s)

/-- In RUN, new objects get their threads; before, CFG COMMIT places them. -/
def ensureThreads (s : State) : State := if s.sheow.state = .run then startServices s else s
/-- The shortfall in threads of services 2 to 8 in RUN. -/
def State.runShort (s : State) : Nat :=
  if s.sheow.state = .run then ([2, 3, 4, 5, 6, 7, 8].map s.threadShort).sum else 0

/-! ### Regions, rings -/

def State.regionsOf (s : State) (k : Nat) : List Region := s.sheow.regions.filter fun r => r.kind == k
/-- log2 of the output ring length: L ≥ d + 64, 7 to 17 (R272). -/
def ringBits (d : Nat) : Nat := ((List.range 11).map (· + 7)).find? (fun k => decide (d + 64 ≤ 2 ^ k)) |>.getD 17
/-- The pieces of the delay pool in use by other zones than z: their rings, and those they have been given. -/
def State.ringsUsed (s : State) (z : Nat) : List (Nat × Nat) :=
  (s.sheow.zones.filter fun e => e.1 != z && e.2.ringLen != 0).flatMap fun e => (e.2.ringBase, e.2.ringLen) :: e.2.ringNew.toList
/-- A ring for zone z with delay d in the delay pool; none where the pool cannot hold it. -/
def State.ringPlace (s : State) (z d : Nat) : Option Nat :=
  (s.regionsOf 3).findSome? fun r => findPlace (Config.choice s.free) r.base (r.base + r.len) (2 ^ ringBits d) (s.ringsUsed z)
def State.ringShort (s : State) (z d : Nat) : Nat :=
  ((s.regionsOf 3).map fun r => placeShort r.base (r.base + r.len) (2 ^ ringBits d) (s.ringsUsed z)).foldl Nat.min (2 ^ ringBits d)

/-- Zone z is given an output ring for delay d, keeping one of the right length; a zone that has a ring moves to the new one when its thread reloads (R272). -/
def sizeRing (s : State) (z d : Nat) : State :=
  let x := s.zone z
  let n := 2 ^ ringBits d
  if x.ringLen = n then s.setZone z { x with ringNew := none }
  else if (x.ringNew.map (·.2)) = some n then s
  else match s.ringPlace z d with
    | some b => (s.setZone z (if x.ringLen = 0 then { x with ringBase := b, ringLen := n } else { x with ringNew := some (b, n) })).tick1
    | none => s

/-- Zone z moves to the ring it has been given, before cycle c; the samples of the cycles before c are kept (R272). -/
def moveRing (s : State) (z c : Nat) : State :=
  let x := s.zone z
  match x.ringNew with
  | none => s
  | some (nb, nl) =>
    let old := (List.range (Nat.min x.ringLen nl)).map fun k => let b := c + 2 ^ 29 - 1 - k; (nb + b % nl, s.xword (x.ringBase + b % x.ringLen))
    old.foldl (fun s e => xputs s pmCode (agentId .pmA) e.1 [e.2]) (s.setZone z { x with ringBase := nb, ringLen := nl, ringNew := none })

/-! ### The media clock (R24, R25) -/

/-- BT of the start of PMK3 cycle c. -/
def State.cycleBt (s : State) (c : Nat) : Nat :=
  match s.convert (BitVec.ofNat 48 (3 * 2 ^ 45 + c % 2 ^ 29 * 65536)) with
  | .ok t => t.toNat
  | _ => s.clk.bt

/-- While PMK3 is valid and the threads follow it, its present boundary is the last valid one (R25). -/
def noteGrid (s : State) : State :=
  if s.refValid 3 && s.sheow.grid.isNone then { s with sheow := { s.sheow with lastB := (s.cycleBt s.pmk3Cycle, s.pmk3Cycle) } } else s

/-- Cycle numbers that Sheow's tables hold move on by d: the threads take over PMK3's numbering where they return to it, with the period they are in (R25). -/
def Sheow.renumber (x : Sheow) (d : Nat) : Sheow :=
  let mv (c : Nat) : Nat := (c + d) % 2 ^ 29
  let rt (r : Route) : Route := match r.src with | .msg _ => { r with start := mv r.start } | _ => r
  { x with
    zthreads := x.zthreads.map fun e => (e.1, { e.2 with cycle := mv e.2.cycle })
    streamsOut := x.streamsOut.map fun e => (e.1, e.2.map fun y => { y with cycle := mv y.cycle })
    streamsIn := x.streamsIn.map fun e => (e.1, e.2.map fun y => { y with arrival := mv y.arrival })
    chans := x.chans.map fun e => (e.1, { e.2 with lastPer := e.2.lastPer.map fun l => (mv l.1, l.2) })
    zones := x.zones.map fun e => (e.1, { e.2 with
      switched := e.2.switched.map fun w => (w.1, mv w.2)
      slots := e.2.slots.map fun v => (v.1, { v.2 with route := rt v.2.route, live := rt v.2.live, saved := v.2.saved.map rt }) }) }

/-- The threads return to PMK3 at the start of its cycle c, which is the grid's nearest boundary: at most one sample slips or repeats (R25). -/
def comeBack (s : State) (g : Nat × Nat) (c : Nat) : State :=
  let b := s.cycleBt c
  let x : Sheow := { s.sheow with grid := none, pmkSeen := none, lastB := (b, c) }
  { s with sheow := x.renumber ((c + 2 ^ 29 - (g.2 + (b - g.1 + 100000) / 200000) % 2 ^ 29) % 2 ^ 29) }

/-- The threads' view of the sample grid is brought up to date (R25): the last valid boundary while PMK3 is valid; the grid from it once PMK3 is not, with outbound streams stopped (R28); PMK3 again at its first boundary after 1 s of validity. -/
def gridStep (s : State) : State :=
  let x := s.sheow
  if s.refValid 3 then
    match x.grid, x.pmkSeen with
    | none, _ => noteGrid s
    | some _, none => { s with sheow := { x with pmkSeen := some s.clk.bt } }
    | some g, some t => if t + secBt ≤ s.cycleBt s.pmk3Cycle then comeBack s g s.pmk3Cycle else s
  else
    match x.grid with
    | none => { s with sheow := { x with grid := some x.lastB, pmkSeen := none, streamsOut := x.streamsOut.map fun e => (e.1, e.2.map fun y => { y with down := true }) } }
    | some _ => { s with sheow := { x with pmkSeen := none } }

/-- The cycle of the sample period in force. -/
def State.mediaCycle (s : State) : Nat :=
  match s.sheow.grid with
  | some (b, c) => (c + (s.clk.bt - b) / 200000) % 2 ^ 29
  | none => s.pmk3Cycle
/-- BT of the start of cycle c on the clock in force. -/
def State.mediaBt (s : State) (c : Nat) : Nat :=
  match s.sheow.grid with
  | some (b, c0) => b + (c + 2 ^ 29 - c0) % 2 ^ 29 * 200000
  | none => s.cycleBt c
/-- Cycle c has begun. -/
def State.cycleDue (s : State) (c : Nat) : Bool := decide ((s.mediaCycle + 2 ^ 29 - c % 2 ^ 29) % 2 ^ 29 < 2 ^ 28)

/-! ### Records (R310, R311, R332) -/

def Rec.key (r : Rec) : Nat × Nat × Nat × Nat := (r.unitKind, r.unit, r.cls * 16 + r.box, r.kind)
/-- The letterbox has room for the record now. -/
def State.recRoom (s : State) (r : Rec) : Bool := (s.box r.box).outq == [] && decide (12 ≤ s.p2hRoom r.box)
def postRec (s : State) (r : Rec) : State := eventOn s r.box r.lcls 0x80 r.body

/-- The second of BT that a record's event falls in. -/
def Rec.second (r : Rec) : Nat := ((r.body[3]?.getD 0).toNat + 2 ^ 32 * (r.body[4]?.getD 0).toNat) / secBt

/-- Hold a record: 1,024 at most; a new DRIFT or OVERLOAD goes first, then another; never one for LB2, which takes the place of one that may go. Of a class reported more than once in one second the latest change stays (R311). -/
def holdRec (s : State) (r : Rec) : State :=
  let l := if r.kind < 2 ∧ r.box ≠ 2 then s.sheow.records.filter fun q => q.key != r.key || q.second != r.second else s.sheow.records
  let put (l : List Rec) (n : Nat) : State := { s with sheow := { s.sheow with records := l, recDropped := s.sheow.recDropped + n } }
  let minor (q : Rec) : Bool := (q.cls == 6 || q.cls == 7) && q.box != 2
  if l.length < 1024 then put (l ++ [r]) 0
  else if minor r then put l 1
  else match l.findIdx? minor, l.findIdx? fun q => q.box != 2 with
    | some i, _ => put (l.eraseIdx i ++ [r]) 1
    | none, some i => if r.box = 2 then put (l.eraseIdx i ++ [r]) 1 else put l 1
    | none, none => if r.box = 2 then put (l ++ [r]) 0 else put l 1

/-- A record is made: sent at once, or held where its unit waits, its class was reported in this second, or there is no room (R311). -/
def addRec (s : State) (r : Rec) : State :=
  let waits := s.sheow.records.any fun q => q.unitKind == r.unitKind && q.unit == r.unit && q.box == r.box
  let again := decide (r.kind < 2) && s.sheow.sentNow.contains r.key
  if s.shUp && !waits && !again && s.recRoom r then
    postRec { s with sheow := { s.sheow with sentNow := if r.kind < 2 then r.key :: s.sheow.sentNow else s.sheow.sentNow } } r
  else holdRec s r

/-- A record of class cls and kind (0 RAISED, 1 CLEARED, 2 ACTION) for a leg, channel or supply (0, 1, 2), on the letterbox of its class and, where lb2, on LB2 (R310, R332). -/
def report (s : State) (lcls cls kind uk unit : Nat) (value base : Int) (extra : Nat) (lb2 : Bool) : State :=
  let body := [BitVec.ofNat 32 (cls + kind * 256 + uk * 4096 + unit * 65536), BitVec.ofInt 32 value, BitVec.ofInt 32 base,
    BitVec.ofNat 32 s.clk.bt, BitVec.ofNat 32 (s.clk.bt / 2 ^ 32), BitVec.ofNat 32 s.ptpSecs, BitVec.ofNat 32 s.ptpNanos, BitVec.ofNat 32 extra]
  let r (b : Nat) : Rec := { cls := cls, kind := kind, unitKind := uk, unit := unit, box := b, lcls := lcls, body := body }
  let b := s.sheow.reportBox.get lcls 0
  let s := addRec s (r b)
  if lb2 && b != 2 then addRec s (r 2) else s
def lineRec (s : State) (cls kind uk unit : Nat) (value base : Int) (extra : Nat := 0) (lb2 : Bool := false) : State :=
  report s 6 cls kind uk unit value base extra lb2
def powerRec (s : State) (cls kind k : Nat) (value base : Int) (lb2 : Bool := false) : State :=
  report s 7 cls kind 2 k value base 0 lb2

/-! ### Pins of the services -/

/-- Post level v on pin n by thread t, with the posting lead of 1 µs (R286, R291). -/
def edgeNow (s : State) (t : Option Tid) (n : Nat) (v : Bool) : State :=
  match t with
  | some t => if (s.pin n).eqFull then s else postEdge s t n (s.bt64 + 9600) v
  | none => s

/-- Flush the queue of pin n and post level 0 at once (R291). -/
def gateLow (s : State) (t : Option Tid) (n : Nat) : State :=
  edgeNow (flushEdges s n) t n false

/-- The sense pins of a channel: its four streams V, leg A, leg B, E (R285). -/
def LinePins.senses (p : LinePins) : List Nat := ((List.range 4).map fun j => (linkAt p.sense j).1).eraseDups
/-- The pins a channel uses: gates, relays, sense link. -/
def LinePins.list (p : LinePins) (b4 : Bool) : List Nat :=
  [p.gateA, p.gateB] ++ (if b4 then [p.lowA, p.lowB] else []) ++ p.senses ++ [fld p.status 0 10, fld p.relayA 0 10, fld p.relayB 0 10]
def LinePins.gates (p : LinePins) (b4 : Bool) : List Nat := [p.gateA, p.gateB] ++ (if b4 then [p.lowA, p.lowB] else [])
def SupPins.list (p : SupPins) : List Nat := [p.gate, (linkAt p.cur 0).1, (linkAt p.volt 0).1, fld p.relay 0 10, p.batt]
/-- Pins that the library uses. -/
def State.libPins (s : State) : List Nat :=
  (s.sheow.chans.flatMap fun e => match e.2.pins with | some p => p.list e.2.bridge4 | none => []) ++
  (s.sheow.supplies.flatMap fun e => match e.2.pins with | some p => p.list | none => [])

/-- The relay command of a chain word goes out with the next word that the chain on pin n shifts: behind an empty queue it is posted, and with it the latch edge one bit after that word; a word that still waits is replaced by it, since each holds every relay of the chain (R286). -/
def postChain (s : State) (t : Tid) (n : Nat) (w : Word) : State :=
  let p := s.pin n
  if p.serq ≠ [] then s.setPin n { p with serq := [w] }
  else
    let s := postSer s t n w
    let b := s.bck p.bclk
    let l := Config.boardPin 0 n
    if b.en && decide (l < s.nPin) && (s.pin l).fsel == 2 && s.ownsPin (depOf t) l && !s.libPins.contains l && !(s.pin l).eqFull then
      postEdge s t l (BitVec.ofNat 64 (b.start (16 * (b.bit s.clk.bt / 16 + 2) + 1))) true
    else s

/-- Put level v on an output given as pin [9:0], chain bit [15:12], chain [16]: an EDGE pin, or the next word of a relay chain (R285, R286). -/
def driveOut (s : State) (t : Option Tid) (o : W32) (v : Bool) : State :=
  let n := fld o 0 10
  if bitAt o 16 then
    let w := putBit (s.sheow.chains.get n 0) (fld o 12 4) v
    let s := { s with sheow := { s.sheow with chains := s.sheow.chains.set n w 0 } }
    match t with
    | some t => postChain s t n w
    | none => s
  else edgeNow s t n v

/-- Sheow gives pin n to depot d with function value f, where neither holds yet; a pin that a channel of another depot shares stays there (R190, R192, R290). -/
def claimPin (s : State) (d n : Nat) (f : W32) : State :=
  let s := if (s.pin n).ownKind = 0 then writeOwn s .pmA n (BitVec.ofNat 32 (0x60 + d)) else s
  if (s.pin n).fsel = fld f 0 4 then s else writeFunc s .pmA n f
/-- A pin of the board that no letter names, where the Postmaster has it and nothing uses it (R285, R286). -/
def claimBoard (s : State) (d n : Nat) (f : W32) : State :=
  if decide (n < s.nPin) && (s.pin n).ownKind == 0 && !s.libPins.contains n then claimPin s d n f else s
/-- The bit clock of a kind of link runs at 6.144 Mb/s for each of its w streams; a clock already enabled stays as it is (R285, R286). -/
def boardClock (s : State) (kind w : Nat) : State :=
  let k := (Config.boardClk kind).val
  if (s.bck k).en then s else bckEnable (s.setBck k { s.bck k with per := BitVec.ofNat 32 (400000 / w) }) .pmA k
/-- PIN_FUNC of a pin on the bit clock of a kind of link. -/
def clkFunc (kind : Nat) (f : W32) : W32 := f ||| BitVec.ofNat 32 ((Config.boardClk kind).val * 64)

/-- A channel's gates and direct relays become EDGE pins of its modulator's depot, its chains SER pins, most significant bit first, with latch and clock, its sense link DES with the clock of its converters (Table 10.1, R285, R286); late = EMIT. -/
def claimChan (s : State) (c : Nat) : State :=
  let x := s.chan c
  match x.pins, x.tid with
  | some p, some t =>
    let d := depOf t
    let chain (s : State) (n : Nat) (f : W32) : State := claimBoard (claimPin (boardClock s 0 1) d n (clkFunc 0 f)) d (Config.boardPin 1 n) (clkFunc 0 5)
    let s := (p.gates x.bridge4).foldl (fun s n => claimPin s d n 2) s
    let s := [p.relayA, p.relayB].foldl (fun s o =>
      let n := fld o 0 10
      if bitAt o 16 then claimBoard (chain s n 0x00300003) d (Config.boardPin 0 n) 2 else claimPin s d n 2) s
    let w := linkWidth p.sense
    let s := p.senses.foldl (fun s n => claimBoard (claimPin (boardClock s w w) d n (clkFunc w 0x00008004)) d (Config.boardPin 2 n) (clkFunc 1 5)) (boardClock s 1 1)
    if bitAt p.status 16 then chain s (fld p.status 0 10) 0x00208004 else claimPin s d (fld p.status 0 10) 1
  | _, _ => s
/-- The pins of a supply likewise. -/
def claimSupply (s : State) (k : Nat) : State :=
  let x := s.supply k
  match x.pins, x.tid with
  | some p, some t =>
    let d := depOf t
    let s := [p.gate, fld p.relay 0 10, p.batt].foldl (fun s n => claimPin s d n 2) s
    [p.cur, p.volt].foldl (fun s o => claimPin (boardClock s (linkWidth o) (linkWidth o)) d (linkAt o 0).1 (clkFunc (linkWidth o) 0x00008004)) s
  | _, _ => s

/-! ### Channels -/

/-- Records of one letter act from the next sample boundary (R328): of a modulating channel when a modulation period begins, of another at any later cycle (first). -/
def settleChan (s : State) (c : Nat) (first : Bool) : State :=
  let x := s.chan c
  if x.live = x.params ∨ x.setCyc = s.mediaCycle ∨ !first then s
  else s.setChan c { x with live := x.params }
def settleSupply (s : State) (k : Nat) : State :=
  let x := s.supply k
  if x.live = x.params ∨ x.setCyc = s.mediaCycle then s else s.setSupply k { x with live := x.params }

/-- P of the zone a channel carries. -/
def State.chanPrio (s : State) (c : Nat) : Nat := (s.zone (s.chan c).zone).prio
/-- The channel is latched off (R292, R293). -/
def Chan.latched (x : Chan) : Bool := x.trip || x.ovlTrip || x.gate
/-- The channel is on the alarm path (R282). -/
def State.chanAlarm (s : State) (c : Nat) : Bool := (s.zone (s.chan c).zone).onAlarmPath

/-- The relay of leg A or B is energised or not; windows that overlap the change and 5 ms of settling are discarded (R284, R295). -/
def setRelay (s : State) (c : Nat) (legB : Bool) (on : Bool) : State :=
  let x := s.chan c
  match x.pins with
  | none => s
  | some p =>
    let blank := s.clk.bt + 5 * msBt + x.parN 0x37 * 9600
    let s := s.setChan c (if legB then { x with legB := { x.legB with relay := on }, blankBt := blank } else { x with legA := { x.legA with relay := on }, blankBt := blank })
    driveOut s x.tid (if legB then p.relayB else p.relayA) on

/-- The modulator stops the channel: queued edges discarded, level 0 on every gate at once (R291). -/
def stopChan (s : State) (c : Nat) : State :=
  let x := s.chan c
  let s := match x.pins with
    | some p => (p.gates x.bridge4).foldl (fun s n => gateLow s x.tid n) s
    | none => s
  s.setChan c { x with stopped := true, stopAt := s.clk.bt, rampFrom := none, e1 := 0, e2 := 0, e3 := 0 }

/-! ### Supplies -/

/-- The change to battery (R308): converter enabled, PFC gate low, mains relay open, in one step; once. -/
def toBattery (s : State) (k : Nat) : State :=
  let x := s.supply k
  if !x.enabled || x.state == .battery then s else
  let s := match x.pins with
    | some p => driveOut (gateLow (edgeNow s x.tid p.batt true) x.tid p.gate) x.tid p.relay false
    | none => s
  let s := s.setSupply k { x with state := .battery, relay := false, batt := true, duty := 0, stableFrom := none, retStep := 0, busOk := none }
  powerRec s 18 2 k x.vBus (x.par 0x42) true

/-- Tracker of a supply. -/
def Supply.phase (x : Supply) : Nat := x.parN 0x40 % 4

/-- The power thread of supply k works. -/
def State.powThread (s : State) (k : Nat) : Option Tid :=
  let x := s.supply k
  match x.tid with | some t => if x.enabled && x.pins.isSome && s.libRuns t then some t else none | none => none

/-- The return timer starts anew while the tracker is LOCKED. -/
def State.stableNow (s : State) (x : Supply) : Option Nat := if (s.ref x.phase).state = .locked then some s.clk.bt else none

/-- A disturbance during a return cancels it: the relay opens again, the supply stays on battery; on battery it restarts the timer. -/
def disturb (s : State) (k : Nat) (loss : Bool) : State :=
  let x := s.supply k
  let from' := if loss || x.stableFrom.isNone && x.state != .returning then none else s.stableNow x
  if x.state = .returning then
    let s := match x.pins with
      | some p => driveOut (gateLow s x.tid p.gate) x.tid p.relay false
      | none => s
    s.setSupply k { x with state := .battery, relay := false, batt := true, duty := 0, retStep := 0, busOk := none, stableFrom := from' }
  else if x.state = .battery then s.setSupply k { x with stableFrom := from' }
  else s

/-- LOSS or INVALID of the tracker of supply k: onto the battery (Table 10.7). -/
def lossOf (s : State) (k : Nat) : State :=
  if (s.powThread k).isNone then s else if (s.supply k).state = .mains then toBattery s k else disturb s k true

end Sys2Proof.Machine
end

