-- ==== Sys2Proof/Machine/SysLetters.lean ====
section
/-! DEFINITION. The SYS, CFG, DEPOT and PIN letters, but for the takeover (R282, R329, R334, R335, R374, R375, R402, Tables 11.6, 11.7). -/
namespace Sys2Proof.Machine

/-- The H2P and P2H rings of letterbox n are empty. -/
def State.h2pEmpty (s : State) (n : Nat) : Bool := s.h2pProd n == (s.box n).cons
def State.ringsEmpty (s : State) (n : Nat) : Bool :=
  s.h2pEmpty n && (s.box n).outq == [] && fld (s.lb32 (p2hBase n + 4)) 0 9 == (s.box n).prodOut

/-! ### SYS -/

/-- SYS IDENT: block and Sheow versions and state. -/
def execSysIdent (n : Nat) (s : State) : Out :=
  .next (serve n 1 1 s fun s l => needLen s l 0 <| doneW s
    [versionOf s.straps.build, BitVec.ofNat 32 (5 * 2 ^ 24 + 65536 + Config.sheowBuild % 65536),
     BitVec.ofNat 32 (s.sheow.state.code + s.lc * 16 + s.dbg.level.toNat * 256 + s.pwr.state.code * 4096),
     s.sheow.update.runSeq, s.straps.twinCfg, BitVec.ofNat 32 (b2n s.straps.pmTwin)])

/-- SYS PING: the body words come back. -/
def execSysPing (n : Nat) (s : State) : Out := .next (serve n 1 2 s fun s l => doneW s l.body)

/-- SYS LB_ASSIGN: the classes and the domain of LB3 to LB15 (R324, R413). -/
def lbAssign (s : State) (n : Nat) (l : Letter) : State × LRes :=
  let b := fld (l.b 0) 0 4
  let normal := bitAt (l.b 0) 8
  needLen s l 2 <|
    if !s.secureBox n then bad0 s .domain
    else if b < 3 then bad s .range 0
    else if (l.b 1) &&& ~~~ 0x1FFE#32 ≠ 0 ∨ bitAt (l.b 1) 10 ∨ bitAt (l.b 1) 12 then bad s .range 1
    else if !s.h2pEmpty b ∨ (normal ≠ bitAt s.sec.lbDom b ∧ s.sec.esc) then bad s .busy 0
    else
      let s := domainWrite s .pmA 0x34 ((putBit s.sec.lbDom b normal).setWidth 32)
      done0 (s.setBox b { s.box b with classes := (l.b 1).setWidth 16 })
def execSysLbAssign (n : Nat) (s : State) : Out := .next (serve n 1 3 s fun s l => lbAssign s n l)

/-- SYS REPORT_BOX: the letterbox of a class's events (R327). -/
def execSysReportBox (n : Nat) (s : State) : Out :=
  .next (serve n 1 4 s fun s l =>
    let c := fld (l.b 0) 0 8
    let b := fld (l.b 0) 8 4
    needLen s l 1 <|
      if c = 0 ∨ 12 < c then bad s .range 0
      else if !bitAt (s.box b).classes c then bad s .box 0
      else done0 { s with sheow := { s.sheow with reportBox := s.sheow.reportBox.set c b 0 } })

/-- The target would power off a bank that holds a declared region, or a depot that runs placed service threads (R402). -/
def State.powerBlocked (s : State) (t : PState) : Bool :=
  (s.sheow.regions.any fun r => (List.range s.nBank).any fun b =>
    decide (bankOf r.base ≤ b ∧ b ≤ bankOf (r.base + r.len - 1)) && !s.wantsBank b t) ||
  (s.sheow.roles.any fun e => match e.2 with
    | some r => r.service != 0 && !s.wantsDep (depOf (BitVec.ofNat 12 e.1)) t
    | none => false)

/-- SYS PSTATE: a power state transition after Sheow's checks; the reply when it is complete (R401, R402). -/
def pstate (s : State) (n : Nat) (l : Letter) : State × LRes :=
  let t := pwrTarget (l.b 0)
  needLen s l 2 <|
    if l.begun then (if s.pwr.busy then (s, .wait) else doneW s [BitVec.ofNat 32 t.code])
    else if t = .off then bad s .range 0
    else
      let s' := if t = .vigil then { s with pwr := { s.pwr with vigilDep := l.b 1 } } else s
      if s.pwr.busy ∨ !s.pwrListed t ∨ s'.powerBlocked t then bad s .state 0
      else
        let s' := outState s' (match t with | .run => execPwrCmdRun .pmA s' | .trim => execPwrCmdTrim .pmA s' | .vigil => execPwrCmdVigil .pmA s' | _ => execPwrCmdHold .pmA s')
        if s'.pwr.busy then (beginService s' n, .wait) else doneW s' [BitVec.ofNat 32 t.code]
def execSysPstate (n : Nat) (s : State) : Out := .next (serve n 1 5 s fun s l => pstate s n l)

/-! ### CFG -/

/-- CFG SET: reply_tmo and poll_ms. -/
def execCfgSet (n : Nat) (s : State) : Out :=
  .next (serve n 2 1 s fun s l =>
    match badRec 0x60 0x61 l.body with
    | some i => bad s .range i
    | none => done0 (l.body.foldl (fun (s : State) w =>
        if recId w = 0x60 then { s with sheow := { s.sheow with replyTmo := (recVal w).toNat } }
        else { s with sheow := { s.sheow with pollMs := (recVal w).toNat } }) s))

/-- The parameters of object kind k (0 Sheow, 1 zone, 2 channel, 3 supply) and index i, with the ids it takes; none where it is not declared. -/
def State.paramsOf (s : State) (k i : Nat) : Option (SMap Int × Nat × Nat) :=
  match k with
  | 0 => some ((SMap.set (SMap.set [] 0x60 (s.sheow.replyTmo : Int) unsent) 0x61 (s.sheow.pollMs : Int) unsent), 0x60, 0x61)
  | 1 => if i < 1024 ∧ (s.zone i).declared then some ((s.zone i).params, 1, 0x0F) else none
  | 2 => if i < 256 ∧ (s.chan i).pins ≠ none then some ((s.chan i).params, 0x20, 0x38) else none
  | _ => if i < 16 ∧ (s.supply i).pins ≠ none then some ((s.supply i).params, 0x40, 0x48) else none

/-- CFG GET: parameter records of an object. -/
def execCfgGet (n : Nat) (s : State) : Out :=
  .next (serve n 2 2 s fun s l =>
    if l.body = [] then bad0 s .len else
    match s.paramsOf (fld (l.b 0) 0 2) (fld (l.b 0) 8 10) with
    | none => bad s .absent 0
    | some (m, lo, hi) =>
      let ids := l.body.drop 1
      match ids.findIdx? fun w => !(decide (lo ≤ recId w ∧ recId w ≤ hi) && (paramRow (recId w)).isSome) with
      | some i => bad s .range (i + 1)
      | none => doneW s (ids.map fun w => recWord (recId w) (param m (recId w))))

/-- [b, b + n) meets a declared region or a plug-in window. -/
def State.overlaps (s : State) (b n : Nat) : Bool :=
  (s.sheow.regions.any fun r => !decide (b + n ≤ r.base ∨ r.base + r.len ≤ b)) ||
  (s.sheow.plugins.any fun e => match e.2 with
    | some p => p.windows.any fun w => w.2.2 != 0 && !decide (b + n ≤ w.1 ∨ w.1 + w.2.2 ≤ b)
    | none => false)
/-- Every bank of [b, b + n) is in the build and on. -/
def State.banksOn (s : State) (b n : Nat) : Bool :=
  (List.range 64).all fun k => !decide (bankOf b ≤ k ∧ k ≤ bankOf (b + n - 1)) || (decide (k < s.nBank) && s.bankOn (65536 * k))

/-- CFG REGION: declares an exchange memory region. -/
def cfgRegion (s : State) (l : Letter) : State × LRes :=
  let k := fld (l.b 0) 0 3
  let b := fld (l.b 1) 0 22
  let n := (l.b 2).toNat
  needLen s l 3 <|
    if k = 0 ∨ 5 < k then bad s .range 0
    else if n = 0 ∨ 2 ^ 22 < b + n ∨ (k = 4 ∧ 3145728 < n) then bad s .range 2
    else if s.sheow.state ≠ .config then bad0 s .state
    else if !s.banksOn b n then bad s .absent 1
    else if s.overlaps b n ∨ (k = 4 ∧ s.regionsOf 4 ≠ []) then bad s .conflict 1
    else done0 { s with sheow := { s.sheow with regions := s.sheow.regions ++ [{ kind := k, base := b, len := n }] } }
def execCfgRegion (n : Nat) (s : State) : Out := .next (serve n 2 3 s cfgRegion)

/-- Zone threads i, i + 1, … start with their zones, each with a seal word in the route table (R265). -/
def startZoneThreads (s : State) : Nat → List (Tid × List Nat) → State
  | _, [] => s
  | i, (t, zs) :: r =>
    let used := s.sheow.zthreads.map fun e => (e.2.sealAddr, 1)
    let a := ((s.regionsOf 1).findSome? fun g => findPlace (Config.choice s.free) g.base (g.base + g.len) 1 used).getD 0
    let s := startLib s.tick1 t 1
    let s := s.setZth i { tid := t, zones := zs, cycle := (s.mediaCycle + 1) % 2 ^ 29, sealAddr := a }
    let s := zs.foldl (fun s z =>
      let x := s.zone z
      s.setZone z { x with live := x.params, liveEq := x.eq, liveEvac := x.evac, idleFrom := s.clk.bt }) s
    startZoneThreads s (i + 1) r

/-- Every declared zone gets a ring and a thread; the zones that found no thread. -/
def placeZones (s : State) : State × List Nat :=
  let s := s.sheow.zones.foldl (fun s e => if e.2.declared then sizeRing s e.1 e.2.delay else s) s
  let p := packZones s (s.zonesOn true) (s.freeTids 1 true) []
  let s := startZoneThreads s s.sheow.zthreads.length p.1
  let q := packZones s (s.zonesOn false) (s.freeTids 1 false) []
  (startZoneThreads s s.sheow.zthreads.length q.1, p.2 ++ q.2)

/-- Threads the services lack after placement. -/
def State.missing (s : State) : Nat :=
  ([2, 3, 4, 5, 7].map fun sv => (s.needs sv).1 + (s.needs sv).2 - s.serves sv).sum +
  (s.sheow.chans.filter fun e => e.2.enabled && e.2.tid == none).length + (s.sheow.supplies.filter fun e => e.2.enabled && e.2.tid == none).length

/-- Words of regions 1, 2 and 5 that the tables need. -/
def State.regionUse (s : State) (k : Nat) : Nat :=
  Config.regionNeed k (if k = 1 then s.sheow.zthreads.length else if k = 2 then s.sheow.streamsIn.length else s.sheow.roles.length)
def State.regionWords (s : State) (k : Nat) : Nat := ((s.regionsOf k).map (·.len)).sum

/-- An enabled supply begins on the mains. -/
def startSupply (s : State) (k : Nat) : State :=
  let x := s.supply k
  if !x.enabled || x.state != .off then s else
  let s := claimSupply s k
  let s := match x.pins with | some p => driveOut s x.tid p.relay true | none => s
  s.setSupply k { x with state := .mains, relay := true }

/-- With no depot set to twin Sheow reports, after every power-up, that the alarm path is unprotected (R282): a depot event whose kind the manual does not give. -/
def unprotected (s : State) : State :=
  if !s.anyTwin && s.sheow.zones.any (fun e => e.2.onAlarmPath) then devent s.tick1 0 (fld (Config.word16 s.free) 0 4) 0 else s

/-- CFG COMMIT: ends CONFIG, places the threads, starts the services. -/
def cfgCommit (s : State) (l : Letter) : State × LRes :=
  needLen s l 0 <|
    if s.sheow.state ≠ .config then bad0 s .state
    else if [1, 2, 5].any (fun k => s.regionsOf k == []) then bad0 s .absent
    else
      let p := placeZones s
      let t := startServices p.1
      let noRing := t.sheow.zones.filter fun e => e.2.declared && e.2.ringLen == 0
      let short := ([1, 2, 5].map fun k => t.regionUse k - t.regionWords k).foldl Nat.max 0
      if noRing ≠ [] then bad s .capacity 0xFFFF ((noRing.map fun e => t.ringShort e.1 e.2.delay).sum)
      else if short ≠ 0 then bad s .capacity 0xFFFF short
      else if p.2 ≠ [] ∨ t.missing ≠ 0 then bad s .capacity 0xFFFF (p.2.length + t.missing)
      else
        let t := t.sheow.chans.foldl (fun s e => if e.2.enabled then claimChan s e.1 else s) t
        let t := t.sheow.supplies.foldl (fun s e => startSupply s e.1) t
        let t := unprotected (writeStates { t with sheow := { t.sheow with state := .run } })
        doneW t
          [BitVec.ofNat 32 (t.sheow.roles.filter fun e => match e.2 with | some r => r.service != 0 | none => false).length,
           BitVec.ofNat 32 ((([1, 2, 5].map t.regionUse).sum) + (t.sheow.zones.map fun e => e.2.ringLen).sum)]
def execCfgCommit (n : Nat) (s : State) : Out := .next (serve n 2 4 s cfgCommit)

/-! ### DEPOT PARCEL (R334, R335) -/

/-- The major opcodes of form E (Table 4.4): control transfers and loops. -/
def isFormE (w : W32) : Bool := [0x20, 0x21, 0x23, 0x24].contains (fld w 26 6)

/-- A checked parcel: instructions, entries, relocations. -/
structure ParcelData where
  code : List W32
  entries : List Nat
  relocs : List Nat
deriving DecidableEq, Repr

/-- The franking block of a parcel holds key and signature over the parcel before it; it is required in Deployed (R334, R365). -/
def State.parcelFranked (s : State) (bs : List Byte) (f : Nat) : Bool :=
  if f = 0 then s.lc == 0
  else decide (f + 192 ≤ bs.length) && s.keyHashOk (List.replicate 64 0 ++ slice bs f 96) &&
    Config.ecdsaOk (slice bs f 96) (slice bs 0 f) (slice bs (f + 96) 96)

/-- The checks of R334 on the copy; none where one fails. -/
def State.parcelOf (s : State) (bs : List Byte) : Option ParcelData :=
  let n := leNum bs 4 4
  let e := leNum bs 8 4
  let r := leNum bs 12 4
  let f := leNum bs 16 4
  if bs.length < 32 ∨ leNum bs 0 4 ≠ 0x57430001 ∨ leNum bs 24 8 ≠ 0 ∨ bs.length < 32 + 4 * n + 2 * e + 4 * r
      ∨ BitVec.ofNat 32 (leNum bs 20 4) ≠ crc32Of (slice bs 0 20 ++ List.replicate 4 0 ++ bs.drop 24) ∨ !s.parcelFranked bs f then none
  else
    let code := (List.range n).map fun i => BitVec.ofNat 32 (leNum bs (32 + 4 * i) 4)
    let ents := (List.range e).map fun i => leNum bs (32 + 4 * n + 2 * i) 2
    let rels := (List.range r).map fun i => leNum bs (32 + 4 * n + 2 * e + 4 * i) 4
    if rels.any (fun i => !(match code[i]? with | some w => isFormE w | none => false)) || ents.any fun i => decide (n ≤ i) then none
    else some { code := code, entries := ents, relocs := rels }

/-- The code with base added to target16 of each listed instruction. -/
def ParcelData.relocated (p : ParcelData) (base : Nat) : List W32 :=
  p.relocs.foldl (fun ws i =>
    let w := ws[i]?.getD 0
    setAt ws i (w.extractLsb' 16 16 ++ BitVec.ofNat 16 (fld w 0 16 + base))) p.code

/-- A copy is in use while it is the latest of its id, or a thread started from it is not IDLE (R335). -/
def State.parcelUsed (s : State) (p : Parcel) : Bool :=
  p.current || s.sheow.roles.any fun e => match e.2 with
    | some r => r.service == 0 && r.parcel == p.id && r.base == p.base && depOf (BitVec.ofNat 12 e.1) == p.depot
        && (s.thr (BitVec.ofNat 12 e.1)).state != .idle
    | none => false
/-- Old copies that no thread runs any longer are freed. -/
def freeParcels (s : State) : State := { s with sheow := { s.sheow with parcels := s.sheow.parcels.filter s.parcelUsed } }

/-- Load words at base of depot d through the loader path (R87). -/
def loadCode (s : State) (d base : Nat) (ws : List W32) : State :=
  let s := regWrite s .pmA (0x1100050 + 0x10000 * d) (BitVec.ofNat 32 base)
  ws.foldl (fun s w => regWrite s .pmA (0x1100054 + 0x10000 * d) w) s

/-- DEPOT PARCEL: copy, check, relocate, load; img is what the host port delivers. -/
def loadParcel (s : State) (img : HostRead) (l : Letter) : State × LRes :=
  let d := fld (l.b 0) 8 5
  let id := fld (l.b 0) 0 8
  let n := (l.b 3).toNat
  needLen s l 4 <|
    if s.nDep ≤ d then bad s .absent 0
    else if !s.depUp d then bad s .state 0
    else if s.xferActive d then bad s .busy 0
    else if img.err ∨ img.bytes.length < n then bad s .fault 1
    else match s.parcelOf (slice img.bytes 0 n) with
      | none => bad s .verify 0xFFFF
      | some p =>
        let s := freeParcels s
        let used := (s.sheow.parcels.filter fun q => q.depot == d).map fun q => (q.base, q.count)
        let k := p.code.length
        match findPlace (Config.choice s.free) 0 0xC000 k used with
        | none => bad s .capacity 0xFFFF (placeShort 0 0xC000 k used)
        | some b =>
          let s := (loadCode s d b (p.relocated b)).tick1
          let old := s.sheow.parcels.map fun q => if q.id = id ∧ q.depot = d then { q with current := false } else q
          doneW { s with sheow := { s.sheow with parcels := old ++ [{ id := id, depot := d, base := b, count := k, entries := p.entries, current := true }] } }
            [BitVec.ofNat 32 b, BitVec.ofNat 32 k]
def execDepotParcel (n : Nat) (img : HostRead) (s : State) : Out := .next (serve n 3 1 s fun s l => loadParcel s img l)

/-! ### The other DEPOT letters -/

/-- Registers of the window of depot d. -/
def depReg (d o : Nat) : Nat := 0x1100000 + 0x10000 * d + o

/-- The express selection of the engine of thread t: t where it asks, none where it was t and does not (Table 3.9). -/
def setExpress (s : State) (t : Tid) (on : Bool) : State :=
  let d := depOf t
  let e := engOf t
  let i := idxOf t % 8
  let o := if e < 8 then 0x40 else 0x44
  let v := if e < 8 then (s.dep d).xselLo else (s.dep d).xselHi
  let m : W32 := 0xF <<< (4 * (e % 8))
  if on then regWrite s .pmA (depReg d o) ((v &&& ~~~ m) ||| BitVec.ofNat 32 ((8 + i) * 2 ^ (4 * (e % 8))))
  else if (s.dep d).express e = some i then regWrite s .pmA (depReg d o) (v &&& ~~~ m)
  else s

/-- DEPOT TSTART: configures and starts a customer thread from the copy loaded most recently (R335, R374, R375). -/
def tstart (s : State) (l : Letter) : State × LRes :=
  let t : Tid := (l.b 0).extractLsb' 0 12
  let d := depOf t
  let i := idxOf t
  let k := fld (l.b 1) 8 16
  needLen s l 6 <|
    if s.nDep ≤ d then bad s .absent 0
    else if !s.depRun d ∨ s.frozen t ∨ s.follower t then bad s .state 0
    else if s.library t then bad s .conflict 0
    else if (s.thr t).state ≠ .idle ∧ (s.thr t).state ≠ .faulted then bad s .state 0
    else match s.sheow.parcels.find? fun p => p.id == fld (l.b 1) 0 8 && p.depot == d && p.current with
      | none => bad s .absent 1
      | some p =>
        match p.entries[k]? with
        | none => bad s .range 1
        | some e =>
          if !sliceOk (l.b 2) ∨ !bitAt (l.b 2) 15 then bad s .range 2
          else
            let s := regWrite s .pmA (depReg d (0x500 + 4 * i)) (l.b 2)
            let s := regWrite s .pmA (depReg d (0x700 + 4 * i)) (BitVec.ofNat 32 (fld (l.b 3) 0 4))
            let s := setExpress s t (bitAt (l.b 3) 4)
            let s := regWrite s .pmA (depReg d (0x900 + 4 * i)) (l.b 4)
            let s := regWrite s .pmA (depReg d (0x80 + 4 * engOf t)) (((s.dep d).chx.get (engOf t) 0 ||| (l.b 5).setWidth 16).setWidth 32)
            let s := regWrite s .pmA (depReg d (0x100 + 4 * i)) (BitVec.ofNat 32 (2 ^ 28 + (p.base + e) % 65536))
            done0 (s.setRole t (some { service := 0, parcel := p.id, base := p.base, entry := p.base + e }))
def execDepotTstart (n : Nat) (s : State) : Out := .next (serve n 3 2 s tstart)

/-- DEPOT TCTL: stops, resumes or aborts a customer thread. -/
def tctl (s : State) (l : Letter) : State × LRes :=
  let t : Tid := (l.b 0).extractLsb' 0 12
  let op := fld (l.b 0) 16 2
  needLen s l 1 <|
    if s.nDep ≤ depOf t then bad s .absent 0
    else if op = 0 then bad s .range 0
    else if s.library t then bad s .conflict 0
    else
      let s := regWrite s .pmA (depReg (depOf t) (0x100 + 4 * idxOf t)) (BitVec.ofNat 32 ((op + 1) * 2 ^ 28))
      doneW (freeParcels s) [s.tstat t]
def execDepotTctl (n : Nat) (s : State) : Out := .next (serve n 3 3 s tctl)

/-- Depots of a mask that the build does not have. -/
def State.maskAbsent (s : State) (m : W32) : Bool := (List.range 32).any fun d => bitAt m d && decide (s.nDep ≤ d)
/-- Depot d holds a role or a thread that is not IDLE. -/
def State.depBusy (s : State) (d : Nat) : Bool :=
  !(s.dep d).allIdle || s.sheow.roles.any fun e => e.2.isSome && e.1 / 128 == d

/-- DEPOT PLACE: the depots of a service's threads (R282). -/
def place (s : State) (l : Letter) : State × LRes :=
  let sv := fld (l.b 0) 0 4
  needLen s l 2 <|
    if sv = 0 ∨ 9 < sv then bad s .range 0
    else if s.sheow.state ≠ .config then bad0 s .state
    else if s.maskAbsent (l.b 1) then bad s .absent 1
    else if (l.b 1) &&& s.sheow.spares ≠ 0 then bad s .conflict 1
    else
      let s' := { s with sheow := { s.sheow with place := s.sheow.place.set sv (l.b 1) 0 } }
      let n := s'.needs sv
      if s'.threadShort sv ≠ 0 then bad s .capacity 0xFFFF (s'.threadShort sv)
      else doneW s' [BitVec.ofNat 32 (n.1 + n.2), BitVec.ofNat 32 (s'.freeTids sv false).length]
def execDepotPlace (n : Nat) (s : State) : Out := .next (serve n 3 4 s place)

/-- DEPOT SPARE: at most two depots without threads; they run, ready to take over (R378). -/
def execDepotSpare (n : Nat) (s : State) : Out :=
  .next (serve n 3 5 s fun s l =>
    let m := l.b 0
    let ds := (List.range 32).filter fun d => bitAt m d
    needLen s l 1 <|
      if 2 < ds.length then bad s .range 0
      else if s.maskAbsent m then bad s .absent 0
      else if ds.any fun d => s.depBusy d || s.sheow.place.any fun e => bitAt e.2 d then bad s .conflict 0
      else
        let s := { s with sheow := { s.sheow with spares := m } }
        done0 (ds.foldl (fun s d => regWrite s .pmA (depReg d 0) 1) s))

/-- The role of depot d in DSTATUS: 0 free, 1 service, 2 customer, 3 spare, 4 failed. -/
def State.depRole (s : State) (d : Nat) : Nat :=
  if bitAt s.sheow.failed d then 4
  else if bitAt s.sheow.spares d then 3
  else if s.sheow.roles.any fun e => e.1 / 128 == d && (match e.2 with | some r => r.service != 0 | none => false) then 1
  else if s.sheow.roles.any fun e => e.1 / 128 == d && e.2.isSome then 2
  else 0

/-- DEPOT DSTATUS. -/
def execDepotDstatus (n : Nat) (s : State) : Out :=
  .next (serve n 3 7 s fun s l =>
    let d := fld (l.b 0) 0 5
    needLen s l 1 <|
      if s.nDep ≤ d then bad s .absent 0
      else
        let v (o : Nat) : W32 := if s.depUp d then depValue s d (s.dep d) true o else depValue s d {} false o
        doneW s [v 0x04, v 0x10, BitVec.ofNat 32 (s.depRole d)])

/-! ### PIN -/

/-- The pins a GRANT or RECLAIM names. -/
def Letter.pins (l : Letter) : List Nat := (List.range (fld (l.b 0) 16 10 + 1)).map fun i => fld (l.b 0) 0 10 + i

/-- PIN GRANT: Postmaster-owned pins that the library does not use, to another owner. -/
def execPinGrant (n : Nat) (s : State) : Out :=
  .next (serve n 8 1 s fun s l =>
    let k := fld (l.b 1) 5 2
    let d := fld (l.b 1) 0 5
    needLen s l 2 <|
      if k = 1 ∧ !s.secureBox n then bad s .domain 1
      else if l.pins.any fun p => decide (s.nPin ≤ p) then bad s .absent 0
      else if k = 3 ∧ s.nDep ≤ d then bad s .absent 1
      else if l.pins.any fun p => (s.pin p).ownKind != 0 || s.libPins.contains p then bad s .conflict 0
      else if (k = 2 ∨ (k = 3 ∧ s.depNormal d)) ∧ l.pins.any fun p => !s.pinNormal p then bad s .domain 1
      else done0 (l.pins.foldl (fun s p => writeOwn s .pmA p (l.b 1)) s))

/-- PIN RECLAIM: the pins return to the Postmaster by handover. -/
def execPinReclaim (n : Nat) (s : State) : Out :=
  .next (serve n 8 2 s fun s l =>
    needLen s l 1 <|
      if l.pins.any fun p => decide (s.nPin ≤ p) then bad s .absent 0
      else if l.pins.any fun p => s.libPins.contains p then bad s .conflict 0
      else done0 (l.pins.foldl (fun s p => writeOwn s .pmA p 0) s))

/-- PIN PSTAT. PIN_CNT clears when read (R7). -/
def execPinPstat (n : Nat) (s : State) : Out :=
  .next (serve n 8 3 s fun s l =>
    let p := fld (l.b 0) 0 10
    needLen s l 1 <|
      if s.nPin ≤ p then bad s .absent 0
      else
        let rd (s : State) (o : Nat) : State × W32 := let t := regRead s .pmA o; ({ t with rdata := s.rdata }, t.rdata)
        let a := rd s (0x1021000 + 4 * p)
        let b := rd a.1 (0x1022000 + 4 * p)
        let c := rd b.1 (0x1024000 + 4 * p)
        let e := rd c.1 (0x1025000 + 4 * p)
        doneW e.1 [a.2, b.2, c.2, e.2])

end Sys2Proof.Machine
end

