-- ==== Sys2Proof/Machine/OpsZone.lean ====
section
/-! DEFINITION. What the ZONE letters and the alarm profile share: route blocks and their seals, routes, alarms, aborted rounds (R261, R262, R265, R276, R304). -/
namespace Sys2Proof.Machine

/-! ### Round tests cut short (R304) -/

/-- The state of leg A's and leg B's relay outside a round: a SPUR leg in SHORT is cut off, the B relay of a changed-over loop is closed (R284, R297, R299). -/
def Chan.normalRelay (x : Chan) (legB : Bool) : Bool :=
  if x.loop then legB && x.loopOpen else (if legB then x.legB else x.legA).cls == some .short

/-- Both relays take their normal state; a relay already there is not driven. -/
def normalRelays (s : State) (c : Nat) : State :=
  [false, true].foldl (fun s b =>
    let x := s.chan c
    if (if b then x.legB else x.legA).relay = x.normalRelay b then s else setRelay s c b (x.normalRelay b)) s

/-- Length in BT of step i of a feed configuration (Table 10.5): settle 0, tones 1 to 9, DC 10 to 14; then the wait before the relays change and the one after (R302). -/
def stepBt (i : Nat) : Nat :=
  if i ≤ 9 then 200 * msBt else if i = 10 ∨ i = 14 then secBt else if i = 11 ∨ i = 13 then 500 * msBt else if i = 12 then 2 * secBt else 50 * msBt

/-- The step and its start of a test in progress, with the BT of the abort (R304). -/
def Chan.cut (x : Chan) (bt : Nat) : Option (Nat × Nat × Nat) :=
  match x.round with
  | some (.testing _ i nxt) => some (i, nxt - stepBt i, bt)
  | _ => x.fade

/-- The test of channel c stops: relays to normal, ABORTED reported, to be tried again (R304, R305). -/
def abortRound (s : State) (c : Nat) : State :=
  let x := s.chan c
  match x.round with
  | some (.testing _ _ _) =>
    let s := normalRelays (s.setChan c { x with round := some (.waiting s.clk.bt), fade := x.cut s.clk.bt }) c
    lineRec s 17 2 1 c 0 0 (match s.sheow.round with | some r => r.group | none => 0)
  | _ => s

/-- An active route slot of zone z aborts the tests of its channels. -/
def abortZone (s : State) (z : Nat) : State :=
  if (s.zone z).anyActive then s.sheow.chans.foldl (fun s e => if e.2.zone = z then abortRound s e.1 else s) s else s

/-! ### Route blocks (R265) -/

/-- Zone threads that serve one of zones zs. -/
def State.threadsOf (s : State) (zs : List Nat) : List Nat :=
  (s.sheow.zthreads.filter fun e => e.2.zones.any fun z => zs.contains z).map (·.1)
/-- The seal of every block concerned is free for Sheow. -/
def State.blocksFree (s : State) (zs : List Nat) : Bool :=
  (s.threadsOf zs).all fun i => (s.sealAt (s.zth i).sealAddr).isNone
/-- Sheow has written the blocks of zones zs: their generations change. -/
def bumpBlocks (s : State) (zs : List Nat) : State :=
  (s.threadsOf zs).foldl (fun s i => s.setZth i { s.zth i with gen := (s.zth i).gen + 1 }) s

/-- A letter that changes blocks of zones zs: it waits while another agent holds one of their seals; otherwise the blocks are written and released. -/
def withBlocks (s : State) (zs : List Nat) (k : State × LRes) : State × LRes :=
  match k with
  | (s', .ok b) => if s.blocksFree zs then (bumpBlocks s' zs, .ok b) else (s, .wait)
  | r => r

/-- Zone z counts as one of the service's zones from its first letter. -/
def declareZone (s : State) (z : Nat) : State :=
  if (s.zone z).declared then s else s.setZone z { s.zone z with declared := true, idleFrom := s.clk.bt }

/-- The zone thread that zone z has, and whether R279 holds for every zone thread that serves it; its shortfall. -/
def State.zoneShort (s : State) (z : Nat) : Nat :=
  ((s.threadsOf [z]).map fun i => let t := s.zth i
    if s.admits (depOf t.tid) (t.zones.map s.zone) then 0 else Nat.max 1 (s.admitShort (depOf t.tid) (t.zones.map s.zone))).sum

/-- In RUN, a new zone joins a thread that has room for it, or gets one (R279, R282). -/
def joinThread (s : State) (z : Nat) : State × Nat :=
  if s.sheow.state ≠ .run ∨ s.threadsOf [z] ≠ [] then (s, s.zoneShort z)
  else
    let s := sizeRing s z (s.zone z).delay
    if (s.zone z).ringLen = 0 then (s, s.ringShort z (s.zone z).delay) else
    let alarm := (s.zone z).onAlarmPath
    match s.sheow.zthreads.find? fun e => e.2.zones != [] && (s.placeDeps 1 alarm).contains (depOf e.2.tid) && s.admits (depOf e.2.tid) ((e.2.zones ++ [z]).map s.zone) with
    | some e => (s.setZth e.1 { e.2 with zones := e.2.zones ++ [z], gen := e.2.gen + 1 }, 0)
    | none =>
      match (s.freeTids 1 alarm).find? fun t => s.admits (depOf t) [s.zone z] with
      | none => (s, 1)
      | some t =>
        let used := s.sheow.zthreads.map fun e => (e.2.sealAddr, 1)
        let a := ((s.regionsOf 1).findSome? fun g => findPlace (Config.choice s.free) g.base (g.base + g.len) 1 used).getD 0
        let i := s.sheow.zthreads.foldl (fun m e => Nat.max m (e.1 + 1)) 0
        let s := startLib s.tick1 t 1
        ((s.setZth i { tid := t, zones := [z], cycle := (s.mediaCycle + 1) % 2 ^ 29, sealAddr := a, gen := 1 }), 0)

/-! ### Routes -/

/-- Slot i of zone z gets route r; a slot an alarm took is not restored after that (R262). -/
def setRoute (s : State) (z i : Nat) (r : Route) : State :=
  let x := s.zone z
  let y := x.setSlot i { x.slot i with route := if r.src = .none then {} else r, saved := none }
  s.setZone z { y with idleFrom := if x.anyActive && !y.anyActive then s.clk.bt else x.idleFrom }

/-- Slots of zone z at priority 15. -/
def Zone.slots15 (x : Zone) : Nat := (x.slots.filter fun e => e.2.used && e.2.route.prio == 15).length

/-- The playback instances that zone thread t would hold with the routes as written (R275). -/
def State.instances (s : State) (i : Nat) : List (Nat × Nat) :=
  ((s.zth i).zones.flatMap fun z => (s.zone z).slots.filterMap fun e => match e.2.route.src with
    | .msg id => some (id, e.2.route.start)
    | _ => none).eraseDups

/-! ### The alarm profile (R262, R276) -/

/-- The slot an alarm takes in zone x: its priority-15 slot, else the highest unused one, else the one of lowest priority, ties to the highest number. -/
def Zone.alarmSlot (x : Zone) : Nat :=
  let all := List.range x.nSlots
  match all.find? fun i => (x.slot i).used && (x.slot i).route.prio == 15 with
  | some i => i
  | none => match all.reverse.find? fun i => !(x.slot i).used with
    | some i => i
    | none => (all.foldl (fun (m : Nat × Nat) i => if (x.slot i).route.prio ≤ m.1 then ((x.slot i).route.prio, i) else m) (16, 0)).2

/-- The usable message id of the store. -/
def State.message (s : State) (id : Nat) : Option StoreMsg := s.sheow.store.find? fun m => m.id == id

/-- The alarm takes its slot in zone z with message id from cycle c; the route before the first alarm is the one kept. A replaced priority-15 source keeps its gain; the gain of another slot taken is not stated and is a free value. -/
def takeSlot (s : State) (z id c : Nat) : State :=
  let x := s.zone z
  let i := x.alarmSlot
  let v := x.slot i
  let had := v.used && v.route.prio == 15
  let g := if had then v.route.gain else (Config.word16 s.free).toInt
  let s := if had then s else s.tick1
  let keep := match v.saved with | some r => some r | none => some v.route
  s.setZone z (x.setSlot i { v with route := { src := .msg id, prio := 15, gain := g, start := c }, saved := keep })

/-- Zones the evacuation map names a message for. -/
def State.mapped (s : State) : List Nat := (s.sheow.zones.filter fun e => e.2.evac != 0).map (·.1)

/-- Start an alarm: message msg in every mapped zone, or each zone's own. Zones without a message get the route all the same, and NO_MESSAGE is logged (R27, R262). -/
def startAlarm (s : State) (msg : Nat) : State × List W32 :=
  let zs := s.mapped
  let c := (s.mediaCycle + 48) % 2 ^ 29
  let id (z : Nat) : Nat := if msg = 0 then (s.zone z).evac else msg
  let none' := zs.filter fun z => (s.message (id z)).isNone
  let t := zs.foldl (fun t z => abortZone (takeSlot t z (id z) c) z) s
  let t := none'.foldl (fun t z => logRec t (dlEntry t 8 2 0 [] z)) t
  (bumpBlocks { t with sheow := { t.sheow with alarm := true } } zs, [BitVec.ofNat 32 zs.length, BitVec.ofNat 32 none'.length])

/-- Zones with a slot taken by the alarm. -/
def State.taken (s : State) : List Nat := (s.sheow.zones.filter fun e => e.2.slots.any fun v => v.2.saved.isSome).map (·.1)

/-- Stop the alarm: every slot it holds gets its former route back (R262). -/
def stopAlarm (s : State) : State × List W32 :=
  let zs := s.taken
  let t := zs.foldl (fun t z =>
    let x := t.zone z
    (x.slots.filter fun e => e.2.saved.isSome).foldl (fun t e => setRoute t z e.1 (e.2.saved.getD {})) t) s
  (bumpBlocks { t with sheow := { t.sheow with alarm := false } } zs, [BitVec.ofNat 32 zs.length, 0])

end Sys2Proof.Machine
end

