-- ==== Sys2Proof/Machine/Takeover.lean ====
section
/-! DEFINITION. What Sheow does for a depot takeover: the start of the transfer, and the copies, restarts and reports after it (R378, R379, R390, R391). -/
namespace Sys2Proof.Machine

/-- The window of depot d. -/
def depWin (d o : Nat) : Nat := 0x1100000 + 0x10000 * d + o

/-- Sheow starts the transfer of depot f to sp: the boundary of the present sample period, period 200,000, guard 96, go (R379). -/
def startMove (s : State) (f sp : Nat) : State :=
  let b := BitVec.ofNat 64 (s.mediaBt s.mediaCycle)
  let s := [(0x68, lo32 b), (0x6C, hi32 b), (0x64, 200000), (0x60, BitVec.ofNat 32 (2 ^ 31 + sp * 2 ^ 21 + 96))].foldl
    (fun s (r : Nat × W32) => regWrite s .pmA (depWin f r.1) r.2) (gridStep s)
  if (s.dep f).xfer.phase.active then
    { s with sheow := { s.sheow with moves := s.sheow.moves ++ [{ f := f, sp := sp, pairs := (s.dep f).frozen }] } }
  else s

/-- In Sheow's tables sp has taken the place of f, which has failed. -/
def Sheow.replaced (x : Sheow) (f sp : Nat) : Sheow :=
  { x with
    parcels := x.parcels.map fun p => if p.depot = f then { p with depot := sp } else p
    spares := clrBit x.spares sp, failed := setBit x.failed f }

/-- The eight threads of engine pair k of depot d, those of its leader. -/
def pairTids (d k : Nat) : List Tid := (List.range 8).map fun i => tidOf d (16 * k + i)

/-- State of a restarted library thread: filters and shapers at zero, gains at their targets (R390). -/
def freshThread (s : State) (t : Tid) : State :=
  let s := s.sheow.zthreads.foldl (fun s e =>
    if e.2.tid = t then e.2.zones.foldl (fun s z =>
      let x := s.zone z
      let rest (g : Ramp) : Ramp := { g with cur := g.target, left := 0 }
      s.setZone z { x with
        liveEq := x.liveEq.map fun b => { b with x1 := 0, x2 := 0, y1 := 0, y2 := 0 }
        vol := rest x.vol, slots := x.slots.map fun v => (v.1, { v.2 with g := rest v.2.g }) }) s
    else s) s
  s.sheow.chans.foldl (fun s e =>
    if e.2.tid = some t then s.setChan e.1 { s.chan e.1 with e1 := 0, e2 := 0, e3 := 0, notch := [] } else s) s

/-- A library thread starts again at its parcel entry (R390, R395). -/
def restartLib (s : State) (t : Tid) : State :=
  match s.role t with
  | some r => if r.service ≠ 0 then freshThread (outState s (execStart .pmA t (BitVec.ofNat 16 r.entry) s)) t else s
  | none => s

/-- After the freeze of a takeover: wait limit, lease and ownership copied; threads of frozen pairs aborted, their pins given back, library threads restarted; DEVENT 4 (R379, R390). -/
def finishMove (s : State) (m : Move) : State :=
  let s := regWrite s .pmA (0x1000100 + 4 * m.sp) ((s.srt.wlim.get m.f 0x10).setWidth 32)
  let s := regWrite s .pmA (0x1030080 + 4 * m.sp) ((s.seals.leaseDep.get m.f 0x3E8).setWidth 32)
  let s := domainWrite s .pmA 0x30 (putBit s.sec.depDom m.sp (s.depNormal m.f))
  let s := { s with sheow := { s.sheow.replaced m.f m.sp with moves := s.sheow.moves.filter (· != m) } }
  let ts := ((List.range 8).filter fun k => bitAt m.pairs k).flatMap (pairTids m.sp)
  let s := ts.foldl (fun s t => outState s (execAbort .pmA t s)) s
  let s := s.pins.pins.foldl (fun s e =>
    match e.2.lastPair with
    | some k => if e.2.before ≠ 0 ∧ k / 8 = m.f ∧ bitAt m.pairs (k % 8) then
        let s := writeFunc s .pmA e.1 ((e.2.func &&& 0xFFFFFFF0) ||| BitVec.ofNat 32 e.2.before)
        s.setPin e.1 { s.pin e.1 with before := 0 }
      else s
    | none => s) s
  let s := ts.foldl restartLib s
  devent s m.f 4 (lo32 (s.dep m.f).xfer.t)

/-- The transfer of a move has ended without a takeover. -/
def Move.failed (s : State) (m : Move) : Bool := (s.dep m.f).xfer.phase != .done && !(s.dep m.f).xfer.phase.active
def dropMove (s : State) (m : Move) : State := { s with sheow := { s.sheow with moves := s.sheow.moves.filter (· != m) } }

end Sys2Proof.Machine
end

