-- ==== Sys2Proof/Machine/AdminLetters.lean ====
section
/-! DEFINITION. DEPOT TAKEOVER and the UPDATE, DIAG and SEC letters (R329, R333, R336, R358, R376, R377, R413, R423, Table 11.10). -/
namespace Sys2Proof.Machine

/-! ### DEPOT TAKEOVER -/

/-- DEPOT TAKEOVER: the reply follows the end of the transfer. -/
def takeoverLetter (n : Nat) (s : State) (l : Letter) : State × LRes :=
  let f := fld (l.b 0) 0 5
  let sp := fld (l.b 0) 8 5
  needLen s l 1 <|
    if l.begun then
      match s.sheow.moves.find? fun m => m.f == f && m.sp == sp with
      | none => bad0 s .state
      | some m =>
        if m.failed s then bad0 s .state
        else if (s.dep f).xfer.phase = .done then
          let x := (s.dep f).xfer
          let p := Nat.max 1 x.per.toNat
          let e := BitVec.ofNat 64 (x.bnd.toNat + ((x.t.toNat - x.bnd.toNat) / p + 1) * p)
          doneW (finishMove s m) [lo32 e, hi32 e]
        else (s, .wait)
    else if s.nDep ≤ f ∨ s.nDep ≤ sp then bad s .absent 0
    else if s.sheow.state ≠ .run ∨ !bitAt s.sheow.spares sp ∨ !s.xferOk f sp then bad0 s .state
    else (beginService (startMove s f sp) n, .wait)
def execDepotTakeover (n : Nat) (s : State) : Out := .next (serve n 3 6 s (takeoverLetter n))

/-! ### UPDATE (R376, R377) -/

/-- Sheow writes bytes of SRAM in whole words: their check bits are fresh. -/
def State.sramPut (s : State) (a : Nat) (bs : List Byte) : State :=
  { s with pm := { s.pm with
    sram := s.pm.sram.writeBytes a bs
    sramErr := s.pm.sramErr.filter fun e => decide (4 * e.1 + 4 ≤ a ∨ a + bs.length ≤ 4 * e.1) } }

/-- Header and franking checks of a record that UPDATE STAGE copies: those of R368 but for the commit word, which COMMIT writes later. -/
def State.stageBad (s : State) (kind : Nat) (bs : List Byte) : Bool :=
  let h := slice bs 0 256
  let n := hdrLen h
  decide (leNum h 0 4 ≠ 0x464C4252 ∨ leNum h 12 2 ≠ kind ∨ blockVersion < leNum h 20 2) || !hdrReserved h ||
    !hdrLenOk h (if kind = 0 then 393216 else 262144) bs.length || decide (leNum bs (320 + n) 4 = 0xC3A55A3C) ||
    !s.keyHashOk h || !sigOk h (slice bs 256 n)

/-- UPDATE STAGE: copied once, checked, decrypted, into the idle bank or the staging area of the plug-in pool. -/
def stage (s : State) (img : HostRead) (l : Letter) : State × LRes :=
  let k := fld (l.b 0) 0 4
  let n := (l.b 3).toNat
  let u := s.sheow.update
  let bs := slice img.bytes 0 n
  let h := slice bs 0 256
  needLen s l 4 <|
    if 1 < k then bad s .range 0
    else if u.stage = 1 ∨ u.stage = 2 then bad0 s .busy
    else if img.err ∨ img.bytes.length < n then bad s .fault 1
    else if n < 384 ∨ s.stageBad k bs then bad0 s .verify
    else if k = 0 ∧ hdrSeq h ≤ u.runSeq.toNat then bad0 s .state
    else match s.openBody h (slice bs 256 (hdrLen h)) with
      | .error _ => bad0 s .verify
      | .ok p =>
        let used := s.sheow.plugins.filterMap fun e => e.2.map fun x => (x.base, x.size)
        match if k = 0 then some (if u.bankB then 0 else 0x60000) else findPlace (Config.choice s.free) 0xC0000 0x100000 p.length used with
        | none => bad s .capacity 0xFFFF (placeShort 0xC0000 0x100000 p.length used / 4)
        | some a =>
          let s := s.sramPut a p
          let s := { s with sheow := { s.sheow with update := { u with
            stage := 1, kind := k, seq := BitVec.ofNat 32 (hdrSeq h), enc := hdrEnc h, host := BitVec.ofNat 40 (fld (l.b 2) 0 8 * 2 ^ 32 + (l.b 1).toNat)
            len := hdrLen h, entry := hdrEntry h, body := p, key := slice h 64 96 } } }
          doneW s.tick1 [BitVec.ofNat 32 (hdrSeq h), BitVec.ofNat 32 (b2n (hdrEnc h))]
def execUpdateStage (n : Nat) (img : HostRead) (s : State) : Out := .next (serve n 10 1 s fun s l => stage s img l)

/-- UPDATE COMMIT: COMMITTED is written to the record and read back. -/
def execUpdateCommit (n : Nat) (readBack : W32) (s : State) : Out :=
  .next (serve n 10 2 s fun s l =>
    needLen s l 0 <|
      if s.sheow.update.stage ≠ 1 then bad0 s .state
      else if readBack ≠ 0x5A3CC3A5 then bad0 s .fault
      else done0 { s with sheow := { s.sheow with update := { s.sheow.update with stage := 2 } } })

/-- Every seal of Sheow's agent identities is released (R376). -/
def releaseOwn (s : State) : State :=
  s.seals.held.foldl (fun s e => match e.2 with
    | some x => if x.owner = agentId .pmA ∨ x.owner = agentId .pmB then (release s e.1 x.owner).1 else s
    | none => s) s

/-- PMDET.en of both harts becomes v and is in force (R354). -/
def setDet (s : State) (v : W32) : State :=
  [0, 1].foldl (fun s h => putHart s h ((s.hart h).debugCsr 0x7C0 v)) s

/-- A letter other than letterbox n's own is in progress, or pauses. -/
def State.otherServing (s : State) (n : Nat) : Bool := (List.range 16).any fun m => m != n && (s.box m).svc.isSome

/-- A plug-in restarts from its entry with its image loaded afresh (R361, R376). -/
def loadPlugin (s : State) (p : Nat) (x : Plugin) : State :=
  let s := s.sramPut x.base (x.image ++ List.replicate (x.size - x.image.length) 0)
  { s with sheow := { s.sheow with plugins := s.sheow.plugins.set p (some { x with state := .ready, a0 := 0, a1 := 0 }) none } }

/-- The new image takes over: its record becomes the running one; for a bundle each plug-in is replaced (R376). -/
def swapIn (s : State) : State :=
  let u := s.sheow.update
  if u.kind = 0 then
    setDet { s with sheow := { s.sheow with update := { u with
      stage := 3, bankB := !u.bankB, oldHost := some (u.runHost, u.runLen), runSeq := u.seq, runHost := u.host, runLen := u.len, runKey := u.key } } } 0
  else
    let s := s.sheow.plugins.foldl (fun s e => match e.2 with
      | some x => loadPlugin s e.1 { x with image := Config.bundleImage u.body e.1 }
      | none => s) s
    { s with sheow := { s.sheow with update := { u with stage := 3, oldHost := some (u.runHost, u.runLen) } } }

/-- UPDATE SWAP is the letter in service on letterbox n. -/
def State.swapping (s : State) (n : Nat) : Bool := (s.box n).svc.any fun l => l.cls == 10 && l.op == 3
/-- Sheow halts for a swap: its seals released, PMDET.en = 1, SWAP shown in every letterbox (R314, R376). -/
def haltSheow (s : State) : State :=
  let t := setDet (releaseOwn s) 1
  writeStates { t with sheow := { t.sheow with halted := true, update := { t.sheow.update with haltAt := s.clk.bt, det := (s.hart 0).det } } }

/-- Sheow runs again after a swap (R314). -/
def resumeSheow (s : State) : State := writeStates { s with sheow := { s.sheow with halted := false } }

/-- UPDATE SWAP. Once no other letter is in progress, Sheow halts; while it is halted the command comes from the image that takes over, and accepts says whether the new one takes the handover block, else the old one runs on as before. The reply gives the interruption in µs (R376, R377). A bundle is swapped without halting. -/
def execUpdateSwap (n : Nat) (accepts : Bool) (s : State) : Out :=
  .next (
    if s.sheow.halted then
      let t := resumeSheow s
      let u := s.sheow.update
      if !t.shUp || !s.swapping n then s
      else serve n 10 3 (if accepts then t else setDet t (BitVec.ofNat 32 (b2n u.det))) fun s _ =>
        if accepts then doneW (swapIn s) [BitVec.ofNat 32 ((s.clk.bt - u.haltAt) / 9600)] else bad0 s .state
    else serve n 10 3 s fun s l =>
      needLen s l 0 <|
        if s.sheow.update.stage ≠ 2 then bad0 s .state
        else if s.otherServing n then (s, .wait)
        else if s.sheow.update.kind = 0 then (haltSheow s, .wait)
        else doneW (swapIn s) [0])

/-- UPDATE CONFIRM: RETIRED is written to the old record and read back. -/
def execUpdateConfirm (n : Nat) (readBack : W32) (s : State) : Out :=
  .next (serve n 10 4 s fun s l =>
    needLen s l 0 <|
      if s.sheow.update.stage ≠ 3 then bad0 s .state
      else if readBack ≠ 0xC3A55A3C then bad0 s .fault
      else done0 { s with sheow := { s.sheow with update := { s.sheow.update with stage := 0, oldHost := none } } })

/-- UPDATE USTATUS. -/
def execUpdateUstatus (n : Nat) (s : State) : Out :=
  .next (serve n 10 5 s fun s l => needLen s l 0 <| doneW s [BitVec.ofNat 32 s.sheow.update.stage, if s.sheow.update.stage = 0 then s.sheow.update.runSeq else s.sheow.update.seq])

/-! ### DIAG -/

def DlEntry.words (e : DlEntry) : List W32 := [e.e0, lo32 e.bt, hi32 e.bt, e.e3, e.e4, e.e5, e.e6, e.e7]

/-- DIAG DL_READ: the oldest unread entries; pend clears when the newest is among them (R336). -/
def execDiagDlRead (n : Nat) (s : State) : Out :=
  .next (serve n 11 1 s fun s l =>
    let k := fld (l.b 0) 0 5
    needLen s l 1 <|
      if k = 0 ∨ 30 < k then bad s .range 0
      else
        let es := s.sheow.dlLog.take k
        let rest := s.sheow.dlLog.drop k
        doneW { s with
            sheow := { s.sheow with dlLog := rest, dlOver := 0 }
            irq := { s.irq with dl := s.irq.dl && rest != [] } }
          ([BitVec.ofNat 32 es.length, BitVec.ofNat 32 s.sheow.dlOver] ++ es.flatMap DlEntry.words))

/-- Read registers one after the other as the Postmaster; those that clear on reading clear (R7). -/
def readRegs (s : State) : List Nat → State × List W32
  | [] => (s, [])
  | o :: r =>
    let t := regRead s .pmA o
    let p := readRegs { t with rdata := s.rdata } r
    (p.1, t.rdata :: p.2)

/-- The counter registers of unit u, index i; none where there is no such unit (Table 11.10). -/
def State.counterRegs (s : State) (u i : Nat) : Option (List Nat) :=
  match u with
  | 0 => if i < s.nDep then some (([0x30, 0x34, 0xB00, 0xB04]).map (depWin i)) else none
  | 1 => if i < s.nLane then some ((List.range 12).map fun c => 0x1044040 + 0x400 * i + 4 * c) else none
  | 2 => if i < s.nPin then some [0x1025000 + 4 * i] else none
  | 3 => if i = 0 then some (0x1000018 :: (List.range 44).map fun r => 0x1000200 + 4 * r) else none
  | 4 => if i = 0 then some [0x103000C, 0x1030010, 0x1030108, 0x103010C] else none
  | 5 => if i < 16 then some [] else none
  | _ => none

/-- DIAG COUNTERS: a letterbox has no counter register; a zone thread counts its overruns. -/
def execDiagCounters (n : Nat) (s : State) : Out :=
  .next (serve n 11 2 s fun s l =>
    let u := fld (l.b 0) 0 4
    let i := fld (l.b 0) 8 16
    needLen s l 1 <|
      if 6 < u then bad s .range 0
      else if u = 6 then
        match s.sheow.zthreads.find? fun e => e.1 == i with
        | some e => doneW s [e.2.overruns]
        | none => bad s .absent 0
      else match s.counterRegs u i with
        | none => bad s .absent 0
        | some os => let r := readRegs s os; doneW r.1 r.2)

/-! ### SEC -/

/-- SEC KEY: a slot is written once per power-up. -/
def execSecKey (n : Nat) (s : State) : Out :=
  .next (serve n 12 1 s fun s l =>
    let k := fld (l.b 0) 0 4
    needLen s l 25 <|
      if s.sheow.keys.any fun e => e.1 == k then bad s .state 0
      else done0 { s with sheow := { s.sheow with keys := s.sheow.keys.put k (l.body.drop 1) } })

/-- The bytes of key words, word by word, most significant byte first as SEC 1 encodes numbers. -/
def keyBytes (ws : List W32) : List Byte :=
  ws.flatMap fun w => [w.extractLsb' 24 8, w.extractLsb' 16 8, w.extractLsb' 8 8, w.extractLsb' 0 8]

/-- The windows of a plug-in header (Table 12.8): base, writable, length. -/
def pluginWindows (h : List Byte) : List (Nat × Bool × Nat) :=
  (List.range 4).map fun i =>
    let a := BitVec.ofNat 24 (leNum h (24 + 6 * i) 3)
    (fld a 0 22, bitAt a 22, leNum h (27 + 6 * i) 3)

/-- Words of a window that cannot be granted. -/
def State.windowShort (s : State) (w : Nat × Bool × Nat) : Nat :=
  if w.2.2 = 0 then 0 else if s.overlaps w.1 w.2.2 ∨ !s.banksOn w.1 w.2.2 ∨ 2 ^ 22 < w.1 + w.2.2 then w.2.2 else 0

/-- SEC PLUGIN: the image is copied, its signature with the slot 0 key checked, placed in the plug-in pool (R358). -/
def plugin (s : State) (img : HostRead) (l : Letter) : State × LRes :=
  let n := (l.b 2).toNat
  let bs := slice img.bytes 0 n
  let code := leNum bs 8 4
  let data := leNum bs 12 4
  let size := code + data + leNum bs 16 4 + leNum bs 20 4
  let wins := pluginWindows bs
  let used := s.sheow.plugins.filterMap fun e => e.2.map fun x => (x.base, x.size)
  let short := (wins.map s.windowShort).sum
  needLen s l 3 <|
    match s.sheow.keys.find? fun e => e.1 == 0 with
    | none => bad0 s .absent
    | some key =>
      if img.err ∨ img.bytes.length < n then bad s .fault 0
      else if n < 48 + 96 ∨ leNum bs 0 4 ≠ 0x57430050 ∨ code ≤ leNum bs 4 4 ∨ n < 48 + code + data + 96
          ∨ !Config.ecdsaOk (keyBytes key.2) (slice bs 0 (n - 96)) (slice bs (n - 96) 96) then bad0 s .verify
      else if short ≠ 0 then bad s .capacity 0xFFFF short
      else if 65536 < size then bad s .capacity 0xFFFF ((size - 65536 + 3) / 4)
      else match (List.range 8).find? fun i => (s.sheow.plugins.get i none).isNone with
        | none => bad s .capacity 0xFFFF ((size + 3) / 4)
        | some i =>
          match findPlace (Config.choice s.free) 0xC0000 0x100000 size used with
          | none => bad s .capacity 0xFFFF ((placeShort 0xC0000 0x100000 size used + 3) / 4)
          | some b =>
            doneW (loadPlugin s i { base := b, size := size, entry := leNum bs 4 4, codeLen := code, image := slice bs 48 (code + data), windows := wins }).tick1
              [BitVec.ofNat 32 i]
def execSecPlugin (n : Nat) (img : HostRead) (s : State) : Out := .next (serve n 12 2 s fun s l => plugin s img l)

/-- Bits i to i + n − 1 of a word set to v. -/
def putBits {w : Nat} (x : BitVec w) (i : Nat) (v : Bool) : Nat → BitVec w
  | 0 => x
  | k + 1 => putBits (putBit x (i + k) v) i v k

/-- The pin domain registers with pins p to p + n − 1 set to v: group and value. -/
def State.pinDoms (s : State) (p n : Nat) (v : Bool) : List (Nat × Word) :=
  ((List.range 48).filter fun g => decide (p < 16 * g + 16 ∧ 16 * g < p + n)).map fun g =>
    (g, (List.range 16).foldl (fun w b => if p ≤ 16 * g + b ∧ 16 * g + b < p + n then putBit w b v else w) (s.sec.pinDom.get g 0))

/-- The region register that SEC DOMAIN uses for base unit b and length n: one that names the same region, else a free one. -/
def State.xregFor (s : State) (b n : Nat) : Option Nat :=
  let same (r : Nat) : Bool := bitAt (s.sec.xregLo.get r 0) 31 && fld (s.sec.xregLo.get r 0) 11 11 == b && fld (s.sec.xregHi.get r 0) 0 12 == n
  match (List.range 16).find? same with
  | some r => some r
  | none => (List.range 16).find? fun r => !bitAt (s.sec.xregLo.get r 0) 31

/-- SEC DOMAIN, under the rules of R413. Exchange base and length are in words, in whole units of 2,048. -/
def secDomainLetter (s : State) (l : Letter) : State × LRes :=
  let i := (l.b 1).toNat
  let k := (l.b 2).toNat
  let v := bitAt (l.b 3) 0
  let wr (s : State) (o : Nat) (x : W32) : State := domainWrite s .pmA o x
  needLen s l 4 <|
    if s.sec.esc then bad0 s .busy
    else match fld (l.b 0) 0 2 with
      | 0 =>
        let x := putBits s.sec.depDom i v (Nat.min k 32)
        if s.nDep < i + k then bad s .absent 1
        else if s.depDomBad x then bad s .state 1
        else done0 (wr s 0x30 x)
      | 1 =>
        if i % 2048 ≠ 0 then bad s .range 1
        else if k % 2048 ≠ 0 ∨ k = 0 ∨ 2 ^ 22 < i + k then bad s .range 2
        else match s.xregFor (i / 2048) (k / 2048) with
          | none => bad s .capacity 0xFFFF k
          | some r =>
            let lo : W32 := (s.sec.xregLo.get r 0 &&& 0x20000000) ||| BitVec.ofNat 32 (2 ^ 31 + b2n v * 2 ^ 30 + i / 2048 * 2048)
            done0 (wr (wr s (0x44 + 8 * r) (BitVec.ofNat 32 (k / 2048))) (0x40 + 8 * r) lo)
      | 2 =>
        let bs := (List.range (Nat.min k 16)).map (i + ·)
        if i < 3 ∨ 16 < i + k then bad s .range 1
        else if bs.any fun b => bitAt s.sec.lbDom b != v && !s.ringsEmpty b then bad s .busy 1
        else done0 (wr s 0x34 ((putBits s.sec.lbDom i v (Nat.min k 16)).setWidth 32))
      | _ =>
        let gs := s.pinDoms i k v
        if s.nPin < i + k then bad s .absent 1
        else if gs.any fun g => s.pinDomBad g.1 g.2 then bad s .state 1
        else done0 (gs.foldl (fun s g => wr s (0xC0 + 4 * g.1) (g.2.setWidth 32)) s)
def execSecDomain (n : Nat) (s : State) : Out := .next (serve n 12 3 s secDomainLetter)

/-- The 32-bit words of a challenge, least significant first. -/
def chalWords (c : BitVec 256) : List W32 := (List.range 8).map fun i => c.extractLsb' (32 * i) 32

/-- SEC DBG_CHALLENGE (R423). -/
def execSecDbgChallenge (n : Nat) (s : State) : Out :=
  .next (serve n 12 4 s fun s l =>
    let v := fld (l.b 0) 0 2
    needLen s l 1 <|
      if v < 2 then bad s .range 0
      else if s.lc ≠ 1 ∨ s.sec.dbgLock then bad0 s .state
      else
        let s := challengeReq s .pm (BitVec.ofNat 32 (2 ^ 31 + v))
        doneW s (chalWords s.sec.chal))

/-- The 44 bytes of the token message (Table 15.7). -/
def tokenMsg (s : State) : List Byte :=
  numBytes 0x544B4E44 4 ++ numBytes s.sec.chal.toNat 32 ++ numBytes s.sec.chalLevel.toNat 4 ++ numBytes (versionOf s.straps.build).toNat 4

/-- The letter in service on letterbox n answers the pending challenge: some whether it verifies; none where a precondition fails. -/
def State.unlockTry (s : State) (n : Nat) : Option Bool :=
  match (s.box n).svc with
  | some l =>
    if s.shUp && l.cls == 12 && l.op == 5 && l.body.length == 25 && !l.begun && s.sec.chalPend && decide (s.clk.bt ≤ s.sec.chalT + 60 * secBt) then
      some (decide ((l.b 0).toNat = s.sec.chalLevel.toNat) && Config.ecdsaOk s.sheow.update.runKey (tokenMsg s) (keyBytes (l.body.drop 1)))
    else none
  | none => none

/-- SEC DBG_UNLOCK: the response is verified and the grant written; the reply follows when the level is reached. A response that does not verify is counted as a failure (R423). -/
def execSecDbgUnlock (n : Nat) (s : State) : Out :=
  let resp (s : State) : State := match (s.box n).svc with
    | some l => (List.range 24).foldl (fun s i => responseWrite s .pm i (l.b (i + 1))) s
    | none => s
  let try' := s.unlockTry n
  let s := match try' with
    | some false => grantFail (resp s)
    | _ => s
  .next (serve n 12 5 s fun s l =>
    needLen s l 25 <|
      if l.begun then (if s.sec.esc then (s, .wait) else doneW s [BitVec.ofNat 32 s.dbg.level.toNat])
      else match try' with
        | some false => bad s .verify 0xFFFF
        | none => bad0 s .state
        | some true =>
          let s := resp s
          let s := raiseLevel { s with sec := { s.sec with chalPend := false } } s.sec.chalLevel.toNat
          if s.sec.esc then (beginService s n, .wait) else doneW s [BitVec.ofNat 32 s.dbg.level.toNat])

end Sys2Proof.Machine
end

