-- ==== Sys2Proof/Machine/LineLetters.lean ====
section
/-! DEFINITION. The LINE, POWER and PMK letters (R284, R285, R296, R299 to R301, R306, R331, Tables 10.2 to 10.6, 11.9). -/
namespace Sys2Proof.Machine

/-! ### LINE -/

/-- Pin p may be named by a letter: the Postmaster owns it, or, where pins may be shared, the library uses it already. -/
def State.pinMine (s : State) (shared : Bool) (p : Nat) : Bool :=
  (s.pin p).ownKind == 0 || (shared && s.libPins.contains p)

/-- Words i of a letter whose pin the build does not have, or that is not the Postmaster's: (word, pin, shared). -/
def State.pinsBad (s : State) (ps : List (Nat × Nat × Bool)) : Option (LStat × Nat) :=
  match ps.find? fun p => decide (s.nPin ≤ p.2.1) with
  | some p => some (.absent, p.1)
  | none => match ps.find? fun p => !s.pinMine p.2.2 p.2.1 with
    | some p => some (.conflict, p.1)
    | none => none

/-- An enabled channel in RUN takes its pins, and its relays their normal state. -/
def startChan (s : State) (c : Nat) : State :=
  if s.sheow.state = .run ∧ (s.chan c).enabled then normalRelays (claimChan s c) c else s

/-- LINE CHANNEL: mode, zone, enable and parameters of a channel. -/
def lineChan (s : State) (l : Letter) : State × LRes :=
  let c := fld (l.b 0) 0 8
  let z := fld (l.b 0) 16 10
  let on := bitAt (l.b 0) 31
  let x := s.chan c
  let ws := l.body.drop 1
  if l.body = [] then bad0 s .len else
  match x.pins, badRec 0x20 0x38 ws with
  | none, _ => bad s .state 0
  | _, some i => bad s .range (i + 1)
  | some p, none =>
    let low := if on && bitAt (l.b 0) 9 && !x.bridge4 then s.pinsBad [(0, p.lowA, false), (0, p.lowB, false)] else none
    if s.sheow.chans.any fun e => e.1 != c && e.2.enabled && e.2.zone == z then bad s .conflict 0
    else match low with
      | some (st, i) => bad s st i
      | none =>
        let ps := setRecs x.params ws
        let y := { x with loop := bitAt (l.b 0) 8, bridge4 := bitAt (l.b 0) 9, zone := z, enabled := on, params := ps, live := if x.enabled then x.live else ps, setCyc := s.mediaCycle }
        let t := declareZone (s.setChan c y) z
        let j := joinThread t z
        if j.2 + j.1.runShort ≠ 0 then bad s .capacity 0xFFFF (j.2 + j.1.runShort)
        else
          let t := ensureThreads j.1
          done0 (if on then startChan t c else if x.enabled then stopChan t c else t)
def execLineChannel (n : Nat) (s : State) : Out := .next (serve n 6 1 s lineChan)

/-- LINE PINS. The low gates are checked when the channel is set to BRIDGE4. -/
def linePinsOf (s : State) (l : Letter) : State × LRes :=
  let c := fld (l.b 0) 0 8
  let pin (i : Nat) : Nat := fld (l.b i) 0 10
  needLen s l 7 <|
    match s.pinsBad ([(1, pin 1, false), (1, fld (l.b 1) 16 10, false)] ++ ((List.range 4).map fun j => (3, (linkAt (l.b 3) j).1, true)) ++ [4, 5, 6].map fun i => (i, pin i, true)) with
    | some (st, i) => bad s st i
    | none =>
      let p : LinePins := { gateA := pin 1, gateB := fld (l.b 1) 16 10, lowA := pin 2, lowB := fld (l.b 2) 16 10
                            sense := l.b 3, status := l.b 4, relayA := l.b 5, relayB := l.b 6 }
      done0 (startChan (s.setChan c { s.chan c with pins := some p }) c)
def execLinePins (n : Nat) (s : State) : Out := .next (serve n 6 2 s linePinsOf)


/-- |Z| in mΩ of a pair of signed words. -/
def absZ (re im : W32) : Nat := isqrt (re.toInt * re.toInt + im.toInt * im.toInt).toNat
/-- |Z| of consecutive pairs. -/
def absPairs : List W32 → List Nat
  | a :: b :: r => absZ a b :: absPairs r
  | _ => []

def Chan.leg (x : Chan) (b : Bool) : Leg := if b then x.legB else x.legA
def Chan.setLeg (x : Chan) (b : Bool) (g : Leg) : Chan := if b then { x with legB := g } else { x with legA := g }

/-- LINE BASELINE of a leg: it acts from the next window (R296). -/
def lineBase (s : State) (l : Letter) : State × LRes :=
  let leg := fld (l.b 0) 0 9
  let k := fld (l.b 0) 16 2
  let c := leg / 2
  let b := leg % 2 == 1
  let x := s.chan c
  let g := x.leg b
  let ws := l.body.drop 1
  let put (g : Leg) : State × LRes := done0 (s.setChan c (x.setLeg b { g with fresh := true }))
  if l.body = [] ∨ ws.length ≠ (if k = 1 then 1 else if k = 2 then 18 else 2) then bad0 s .len
  else if k = 0 then put { g with zb := some (absZ (l.b 1) (l.b 2)) }
  else if k = 1 then (if x.loop && b then put { g with rhob := some (fld (l.b 1) 0 16) } else bad s .state 0)
  else if k = 2 then put { g with sweep := absPairs ws }
  else put { g with dc := some ((l.b 1).toInt.natAbs, (l.b 2).toInt.natAbs) }
def execLineBaseline (n : Nat) (s : State) : Out := .next (serve n 6 3 s lineBase)

/-- A channel runs again, g_lim ramping from −20 dB (R292); RESTART is recorded. -/
def restartChan (s : State) (c : Nat) : State :=
  let s := s.setChan c { s.chan c with stopped := false, rampFrom := some s.clk.bt, limDeep := none }
  lineRec s 20 2 1 c 0 0

/-- Clear the latches of a channel, with a record for each. -/
def unlatch (s : State) (c : Nat) : State :=
  let x := s.chan c
  let s := if x.trip then lineRec s 8 1 1 c 0 0 0 (s.chanAlarm c) else s
  let s := if x.ovlTrip then lineRec s 9 1 1 c 0 0 else s
  let s := if x.gate then lineRec s 10 1 1 c 0 0 else s
  s.setChan c { s.chan c with trip := false, ovlTrip := false, gate := false, restarts := [] }

/-- LINE RESTART: only a latched channel (R292). -/
def execLineRestart (n : Nat) (s : State) : Out :=
  .next (serve n 6 4 s fun s l =>
    let c := fld (l.b 0) 0 8
    needLen s l 1 <| if !(s.chan c).latched then bad0 s .state else done0 (restartChan (unlatch s c) c))

/-- LINE RESTORE: the B relay of a changed-over loop opens at once (R300). -/
def execLineRestore (n : Nat) (s : State) : Out :=
  .next (serve n 6 5 s fun s l =>
    let c := fld (l.b 0) 0 8
    needLen s l 1 <|
      if !(s.chan c).loopOpen then bad0 s .state
      else
        let s := setRelay (s.setChan c { s.chan c with loopOpen := false, failLoop := 0 }) c true false
        done0 (lineRec s 3 1 1 c 0 0))

/-! ### Night rounds (R301) -/

/-- BT of the start of PTP second q, by the present PMK4 state, however far. -/
def State.secBt4 (s : State) (q : Nat) : Nat :=
  let d0 : Nat := (q % 2 ^ 29 * 65536 + 2 ^ 45 - s.posAt 4 s.clk.bt) % 2 ^ 45
  let d : Int := if 2 ^ 44 ≤ d0 then (d0 : Int) - 2 ^ 45 else d0
  (s.tripleB 4 + roundHalfUp (d * s.rhoOf 4) (2 ^ 40)).toNat

/-- Channels of a pending round. -/
def Round.chans (r : Round) : List Nat := r.groups.flatten.eraseDups
/-- Channels of a round not yet tested. -/
def State.untested (s : State) (r : Round) : List Nat := r.chans.filter fun c => (s.chan c).round != some .done

/-- The round is over: relays to normal, each untested channel SKIPPED where asked (R301). -/
def closeRound (s : State) (skip : Bool) : State :=
  match s.sheow.round with
  | none => s
  | some r =>
    let left := s.untested r
    let s := r.chans.foldl (fun s c =>
      let x := s.chan c
      let s := match x.round with | some (.testing _ _ _) => normalRelays (s.setChan c { x with round := none, fade := x.cut s.clk.bt }) c | _ => s
      s.setChan c { s.chan c with round := none }) s
    let s := if skip then left.foldl (fun s c => lineRec s 16 2 1 c 0 0 ((r.groups.findIdx? fun g => g.contains c).getD 0)) s else s
    { s with sheow := { s.sheow with round := none } }

/-- Groups of 16 channel numbers, four to a word; 0xFF is unused. -/
def roundGroups : Nat → List W32 → List (List Nat)
  | 0, _ => []
  | k + 1, ws => (((ws.take 4).flatMap fun w => [fld w 0 8, fld w 8 8, fld w 16 8, fld w 24 8]).filter (· != 255)) :: roundGroups k (ws.drop 4)

/-- LINE ROUND: start and end are converted to BT now; a round whose end is past is over at once. Length 0 and idle time 0 mean the defaults. -/
def lineRnd (s : State) (l : Letter) : State × LRes :=
  let k := fld (l.b 3) 0 4 + 1
  let len := if fld (l.b 1) 0 16 = 0 then 7200 else fld (l.b 1) 0 16
  let idle := if fld (l.b 2) 0 16 = 0 then 30 else fld (l.b 2) 0 16
  if l.body.length ≠ 4 + 4 * k then bad0 s .len
  else if s.sheow.round.isSome then bad0 s .busy
  else if !s.refValid 4 then bad0 s .state
  else
    let q := (l.b 0).toNat
    let r : Round := { start := s.secBt4 q, stop := s.secBt4 (q + len), idle := idle, groups := roundGroups k (l.body.drop 4)
                       baseline := bitAt (l.b 1) 31, active := false, group := 0 }
    let t := { s with sheow := { s.sheow with round := some r } }
    doneW (if r.stop ≤ s.clk.bt then closeRound t true else t) [BitVec.ofNat 32 r.chans.length]
def execLineRound (n : Nat) (s : State) : Out := .next (serve n 6 6 s lineRnd)

/-- LINE ROUND_STOP. -/
def execLineRoundStop (n : Nat) (s : State) : Out :=
  .next (serve n 6 7 s fun s l =>
    needLen s l 0 <|
      match s.sheow.round with
      | none => doneW s [0]
      | some r => doneW (closeRound s false) [BitVec.ofNat 32 (s.untested r).length])

/-! ### POWER -/

/-- A supply is switched off: gate low, converter off, mains relay open. -/
def supplyOff (s : State) (k : Nat) : State :=
  let x := s.supply k
  let s := match x.pins with
    | some p => edgeNow (driveOut (gateLow s x.tid p.gate) x.tid p.relay false) x.tid p.batt false
    | none => s
  s.setSupply k { x with state := .off, relay := false, batt := false, duty := 0 }

/-- POWER SUPPLY: enable and parameters. -/
def powSupply (s : State) (l : Letter) : State × LRes :=
  let k := fld (l.b 0) 0 4
  let on := bitAt (l.b 0) 31
  let x := s.supply k
  let ws := l.body.drop 1
  if l.body = [] then bad0 s .len else
  match x.pins, badRec 0x40 0x48 ws with
  | none, _ => bad s .state 0
  | _, some i => bad s .range (i + 1)
  | some _, none =>
    let ps := setRecs x.params ws
    let t := s.setSupply k { x with enabled := on, params := ps, live := if x.enabled then x.live else ps, setCyc := s.mediaCycle }
    if t.runShort ≠ 0 then bad s .capacity 0xFFFF t.runShort
    else
      let t := ensureThreads t
      done0 (if !on then (if x.enabled then supplyOff t k else t) else if t.sheow.state = .run then startSupply t k else t)
def execPowerSupply (n : Nat) (s : State) : Out := .next (serve n 7 1 s powSupply)

/-- POWER SUPPLY_PINS. -/
def powPins (s : State) (l : Letter) : State × LRes :=
  let k := fld (l.b 0) 0 4
  let pin (i : Nat) : Nat := fld (l.b i) 0 10
  needLen s l 6 <|
    match s.pinsBad [(1, pin 1, false), (2, (linkAt (l.b 2) 0).1, true), (3, (linkAt (l.b 3) 0).1, true), (4, pin 4, false), (5, pin 5, false)] with
    | some (st, i) => bad s st i
    | none =>
      let t := s.setSupply k { s.supply k with pins := some { gate := pin 1, cur := l.b 2, volt := l.b 3, relay := BitVec.ofNat 32 (pin 4), batt := pin 5 } }
      done0 (if (t.supply k).enabled ∧ t.sheow.state = .run then claimSupply t k else t)
def execPowerSupplyPins (n : Nat) (s : State) : Out := .next (serve n 7 2 s powPins)

def SupState.code : SupState → Nat | .off => 0 | .mains => 1 | .battery => 2 | .returning => 3

/-- POWER SPSTAT. -/
def execPowerSpstat (n : Nat) (s : State) : Out :=
  .next (serve n 7 3 s fun s l =>
    let x := s.supply (fld (l.b 0) 0 4)
    needLen s l 1 <| if x.pins.isNone then bad s .absent 0 else doneW s [BitVec.ofNat 32 x.state.code, BitVec.ofInt 32 x.vBus])

/-! ### PMK -/

/-- The source pin of a reference gets the function its mode needs: COMP, DES for SAMP, REF for EDGE (Table 7.1). -/
def sourceFn (mode : Nat) : Nat := if mode = 0 then 8 else if mode = 1 then 4 else 7

/-- Sheow writes the registers of reference k, en first cleared (R62). -/
def setTracker (s : State) (k : Nat) (en : Bool) (cfg : W32) (regs : List (Nat × W32)) (elec : Option W32) : State :=
  let p := fld cfg 16 10
  let a := 0x1010100 + 0x40 * k
  let s := regWrite s .pmA a ((s.ref k).cfg &&& 0x7FFFFFFF)
  let s := regWrite s .pmA a (putBit cfg 31 false)
  let s := regs.foldl (fun s r => regWrite s .pmA (a + r.1) r.2) s
  let s := if en && (s.pin p).fsel ≠ sourceFn (fld cfg 26 2) then writeFunc s .pmA p 0 else s
  let s := match elec with | some v => writeElec s .pmA p v | none => s
  let s := if en && (s.pin p).fsel ≠ sourceFn (fld cfg 26 2) then writeFunc s .pmA p (BitVec.ofNat 32 (sourceFn (fld cfg 26 2))) else s
  regWrite s .pmA a (putBit cfg 31 en)

/-- Every supply on phase k goes onto the battery, as on LOSS (R382). -/
def losePhase (s : State) (k : Nat) : State :=
  s.sheow.supplies.foldl (fun s e => if (s.supply e.1).phase = k then lossOf s e.1 else s) s

/-- PMK TRACKER; before en is cleared the supplies on that phase leave the mains (R382). -/
def tracker (s : State) (l : Letter) : State × LRes :=
  let k := fld (l.b 0) 0 2
  let p := fld (l.b 1) 16 10
  needLen s l 6 <|
    if k = 3 then bad s .range 0
    else if !modeOk k (fld (l.b 1) 26 2) then bad s .range 1
    else if s.nPin ≤ p then bad s .absent 1
    else if (s.pin p).ownKind ≠ 0 then bad s .conflict 1
    else done0 (setTracker (losePhase s k) k (bitAt (l.b 0) 31) (l.b 1) [(4, l.b 2), (8, l.b 3), (0x0C, l.b 4)] (some (l.b 5)))
def execPmkTracker (n : Nat) (s : State) : Out := .next (serve n 9 1 s tracker)

/-- PMK USERREF. -/
def userref (s : State) (l : Letter) : State × LRes :=
  let k := fld (l.b 0) 0 3
  let p := fld (l.b 1) 16 10
  needLen s l 3 <|
    if !isUser k then bad s .range 0
    else if !modeOk k (fld (l.b 1) 26 2) then bad s .range 1
    else if s.nPin ≤ p then bad s .absent 1
    else if (s.pin p).ownKind ≠ 0 then bad s .conflict 1
    else done0 (setTracker s k (bitAt (l.b 0) 31) (l.b 1) [(4, l.b 2)] none)
def execPmkUserref (n : Nat) (s : State) : Out := .next (serve n 9 2 s userref)

/-- PMK_PTP_WDOG for the Sync interval of logarithm l: 3 intervals and 100 ms, in whole ms (R254). -/
def wdogOf (l : Int) : Nat := ceilDiv (3000 : Nat) (2 ^ (-l).toNat) + 100

/-- PMK PTP: the servo starts or stops; PMK3 and PMK4 are enabled for it, and the watchdog is set for a Sync interval of 1 s. An option bit without a meaning asks for something outside R253. -/
def pmkServo (s : State) (l : Letter) : State × LRes :=
  let w := l.b 0
  let en := bitAt w 31
  needLen s l 4 <|
    if fld w 17 3 ≠ 0 ∨ fld w 23 8 ≠ 0 then bad s .unsupported 0
    else if bitAt (l.b 1) 3 ∨ fld (l.b 1) 7 25 ≠ 0 then bad s .unsupported 1
    else
      let v : Servo := { en := en, ring := fld w 0 8, dom := fld w 8 8, media := bitAt w 16, pair := fld w 20 2, pairUsed := bitAt w 22
                         lane := fld (l.b 1) 0 3, queue := fld (l.b 1) 4 3, tmpl := fld (l.b 2) 0 22, tmplLen := (l.b 3).toNat, lastSync := s.clk.bt }
      let t := { s with sheow := { s.sheow with servo := v } }
      let on (t : State) (k : Nat) : State := if (t.ref k).en then t else writeCfg t k (setBit (t.ref k).cfg 31)
      done0 (if en then { on (on t 3) 4 with pmk := { (on (on t 3) 4).pmk with wdog := BitVec.ofNat 16 (wdogOf v.logInt) } } else t)
def execPmkPtp (n : Nat) (s : State) : Out := .next (serve n 9 3 s pmkServo)

/-- PMK RSTAT. -/
def execPmkRstat (n : Nat) (s : State) : Out :=
  .next (serve n 9 4 s fun s l =>
    needLen s l 0 <| doneW s ([s.pmkStat] ++ ((List.range 8).map fun k => (regRead s .pmA (0x1010120 + 0x40 * k)).rdata) ++ [BitVec.ofInt 32 s.sheow.servo.offset]))

end Sys2Proof.Machine
end

