-- ==== Sys2Proof/Machine/OpsAudio.lean ====
section
/-! DEFINITION. Samples: stored messages, stream payloads, gains, filters (R263, R267, R269, R270, R274, R275). -/
namespace Sys2Proof.Machine

/-! ### Stored messages (R274, R275) -/

/-- Decoder state x and idx. -/
abbrev Adpcm := Int × Nat

/-- One code of the 12-bit ADPCM. -/
def adpcmStep (d : Adpcm) (c : Int) : Adpcm :=
  let step : Int := ((8 + d.2 % 8) * 2 ^ (d.2 / 8) : Nat)
  let x := max (-2048) (min 2047 (d.1 + (c * step).fdiv 64))
  let a := c.natAbs
  let i : Int := d.2 + (if a < 32 then -1 else if a < 64 then 0 else if a < 96 then 2 else 4)
  (x, (max 0 (min 63 i)).toNat)

/-- The code of sample k of the block at word w. -/
def State.adpcmCode (s : State) (w k : Nat) : Int := ((s.xword (w + 2 + k / 2)).extractLsb' (8 * (k % 2)) 8).toInt

/-- Sample j of message m at store word base: its block restarts from its header; past the end it is 0. -/
def State.msgSample (s : State) (base : Nat) (m : StoreMsg) (j : Nat) : Int :=
  if m.len ≤ j then 0 else
  let w := base + m.off / 2 + 130 * (j / 256)
  ((List.range (j % 256 + 1)).foldl (fun d k => adpcmStep d (s.adpcmCode w k)) ((s.xword w).toInt, fld (s.xword (w + 1)) 0 6)).1

/-- Output sample y(3j + r) by interpolation. -/
def State.msgOut (s : State) (base : Nat) (m : StoreMsg) (i : Nat) : Int :=
  let j := i / 3
  let w : Int := if i % 3 = 0 then 0 else if i % 3 = 1 then 10923 else 21845
  let x := s.msgSample base m j
  if m.len ≤ j then 0 else x * 16 + ((s.msgSample base m (j + 1) - x) * 16 * w).fdiv 32768

/-- The output of message id started at cycle st, in the period of cycle c (R275). -/
def State.play (s : State) (id st c : Nat) : Int :=
  match s.message id, (s.regionsOf 4).head? with
  | some m, some r =>
    let i := (c + 2 ^ 29 - st % 2 ^ 29) % 2 ^ 29
    let n := 3 * (m.len + 16 * m.gap)
    if m.loop then (if n = 0 then 0 else s.msgOut r.base m (i % n)) else s.msgOut r.base m i
  | _, _ => 0

/-! ### Streams (R263) -/

/-- Byte i of a frame that starts at exchange word w. -/
def State.frameByte (s : State) (w i : Nat) : Nat := fld (s.xword (w + i / 2)) (8 * (i % 2)) 8

/-- The frame data of slot k of flow ring q. -/
def State.slotData (s : State) (q k : Nat) : Nat :=
  let r := s.fring q
  r.base.toNat + 64 + 8 * frSlots r.cfg + k % frSlots r.cfg * (frSlotBytes r.cfg / 2)

/-- Offset of the samples in a frame: RTP over UDP and IPv4, or AAF, after an optional VLAN tag (PRESUMED from RFC 3550 and IEEE 1722). -/
def State.payloadAt (s : State) (w : Nat) (aaf : Bool) : Nat :=
  let v := if s.frameByte w 12 = 0x81 ∧ s.frameByte w 13 = 0 then 18 else 14
  if aaf then v + 24 else
  let u := v + 4 * (s.frameByte w v % 16) + 8
  u + 12 + 4 * (s.frameByte w u % 16)

/-- A sample of a frame as a Q15 value: L16 as it is, L24 by convergent rounding and saturation. -/
def State.pcm (s : State) (w o : Nat) (l24 : Bool) : Int :=
  let b (i : Nat) : Nat := s.frameByte w (o + i)
  if l24 then (saturate 16 true (roundBy 2 (BitVec.ofNat 24 (b 0 * 65536 + b 1 * 256 + b 2)).toInt 8)).1.toInt
  else (BitVec.ofNat 16 (b 0 * 256 + b 1)).toInt

/-- The flow-ring slot of the packet that holds media time m, and the sample's index in it; a sample dropped as late is in none (R257, R263). -/
def StreamIn.packet (x : StreamIn) (m : Nat) : Option (Nat × Nat) :=
  let i (e : Nat × Nat × Nat × Nat) : Nat := (m + 2 ^ 29 - e.2.1 % 2 ^ 29) % 2 ^ 29
  (x.block.find? fun e => decide (e.2.2.2 ≤ i e ∧ i e < e.2.2.1)).map fun e => (e.1, i e)

/-- The sample of channel ch of stream x mixed in cycle c; 0 where no packet of the state block holds it. -/
def State.streamSample (s : State) (x : StreamIn) (ch c : Nat) : Int :=
  let m := (c + 2 ^ 29 - x.link) % 2 ^ 29
  match x.packet m with
  | none => 0
  | some (k, i) =>
    let w := s.slotData x.ring k
    s.pcm w (s.payloadAt w x.aaf + (i * x.channels + ch) * (if x.l24 then 3 else 2)) x.l24

/-! ### Gains (R266 to R268) -/

/-- The greatest whole number at or below u · 10^(q / d), by bits from the top. -/
def tenRoot (u d : Nat) (q : Int) : Nat :=
  (List.range 24).reverse.foldl (fun r i => if (r + 2 ^ i) ^ d * 10 ^ (-q).toNat ≤ u ^ d * 10 ^ q.toNat then r + 2 ^ i else r) 0
/-- u · 10^(q / d) where it is whole, else one of the two whole numbers beside it: the rounding is free. -/
def tenScale (u d : Nat) (q : Int) (up : Bool) : Int :=
  let y := tenRoot u d q
  if y ^ d * 10 ^ (-q).toNat = u ^ d * 10 ^ q.toNat then y else y + b2n up

/-- The factor 10^(v / d) of a gain in units of 2^-15: a Q15 value up to 0 dB, a halved one above (R269). -/
def factor (d : Nat) (v : Int) (up : Bool) : Int := if v ≤ 0 then tenScale 32768 d v up else 2 * tenScale 16384 d v up
/-- The factor of a gain in half-decibels, and in eightieths of a decibel; 0 dB is exact. -/
def gainOf (v : Int) : Int := if v = muteVal then 0 else factor 40 v (Config.gainUp (40 * v))
def gain80 (g : Int) : Int := factor 1600 g (Config.gainUp g)
/-- A boost of g eightieths of a decibel as a linear Q15 factor of one half (R271). -/
def boostOf (g : Int) : Int := tenScale 16384 1600 g (Config.gainUp g)

/-! ### Sines (R288, R294, R303, R306) -/

/-- sin of x, both in units of 2^-64, for x from 0 to π/2: the series to x^27, each step to 2^-64. -/
def sinSeries (x : Int) : Int :=
  ((List.range 13).reverse.foldl (fun r k => 2 ^ 64 - x * x / 2 ^ 64 * r / 2 ^ 64 / ((2 * k + 2) * (2 * k + 3) : Nat)) (2 ^ 64)) * x / 2 ^ 64
/-- π in units of 2^-64. -/
def piQ64 : Int := 57952155664616982739
/-- 32,768 × sin(π a / q) for 0 ≤ a ≤ q / 2: whole at 0, 30 and 90 degrees, else one of the two whole numbers beside it. -/
def sinQuarter (a q : Nat) : Int :=
  if a = 0 then 0 else if 6 * a = q then 16384 else if 2 * a = q then 32768
  else sinSeries (piQ64 * a / q) / 2 ^ 49 + b2n (Config.sineUp a q)
/-- 32,768 times the sine and cosine of p / q of a turn. -/
def sinQ15 (p q : Nat) : Int :=
  let h := 2 * (p % q) % q
  let y := sinQuarter (min h (q - h)) q
  if q ≤ 2 * (p % q) then -y else y
def cosQ15 (p q : Nat) : Int := sinQ15 (4 * p + q) (4 * q)

/-- A ramp takes a new target: it moves there over n samples from where it is. -/
def Ramp.aim (g : Ramp) (t : Int) (n : Nat) : Ramp :=
  if g.target = t then g
  else if n = 0 then { cur := t, start := t, target := t }
  else { g with start := g.cur, target := t, left := n, total := n }

/-- One sample further on a ramp. -/
def Ramp.step (g : Ramp) : Ramp :=
  if g.left = 0 then g
  else if g.left = 1 then { g with cur := g.target, left := 0 }
  else { g with left := g.left - 1, cur := g.start + ((g.target - g.start) * (g.total - (g.left - 1) : Nat)).tdiv g.total }

/-- The target gain of an active slot of priority p and route gain v, with P, duck_from and duck (Table 9.1). -/
def slotTarget (p P : Nat) (v : Int) (duckFrom : Nat) (duck : Int) : Int :=
  if p = P then gainOf v
  else if P = 15 then 0
  else if duckFrom ≤ P then (if duck = muteVal then 0 else gainOf (v + duck))
  else gainOf v

/-! ### Filters (R269, R270) -/

/-- One sample through a band: the accumulator as the biquad example forms it, rounded convergently and saturated to Q15. -/
def EqBand.run (b : EqBand) (x : Int) : EqBand × Int :=
  let k (i : Nat) : Int := b.coef[i]?.getD 0
  let p (i : Nat) (v : Int) : Int := if b.wide then roundBy 2 (k i * v) 15 else 2 * (k i * v)
  let a := p 0 x + p 1 b.x1 + p 2 b.x2 - p 3 b.y1 - p 4 b.y2
  let y := (saturate 16 true (roundBy 2 (if b.halved then 2 * a else a) 16)).1.toInt
  ({ b with x2 := b.x1, x1 := x, y2 := b.y1, y1 := y }, y)

/-- The bands in order. -/
def runBands : List EqBand → Int → List EqBand × Int
  | [], x => ([], x)
  | b :: r, x =>
    let p := b.run x
    let q := runBands r p.2
    (p.1 :: q.1, q.2)

/-- The output word of a sample after gain (units of 2^-15) and boost (halved Q15), and whether it saturated. -/
def zoneOut (y g b : Int) : Word × Bool :=
  let r := saturate 16 true (roundBy 2 (y * g * b) 29)
  (r.1, r.2.1)

end Sys2Proof.Machine
end

