-- ==== Sys2Proof/Machine/ZoneEv.lean ====
section
/-! DEFINITION. The zone service at work: sample periods, ANG windows, packets in and out (R24 to R27, R256 to R258, R263 to R278, R308). -/
namespace Sys2Proof.Machine

/-! ### ZONE_PERIOD -/

/-- P as the thread holds the routes. -/
def Zone.liveP (x : Zone) : Nat := x.slots.foldl (fun m e => if e.2.live.src != .none then Nat.max m e.2.live.prio else m) 0
def Zone.lpar (x : Zone) (id : Nat) : Int := param x.live id

/-- The reduction of zone z while a supply that feeds one of its channels runs on battery (R308), in half-decibels. -/
def State.econ (s : State) (z P : Nat) : Int :=
  s.sheow.chans.foldl (fun m e =>
    let k := Config.supplyOf e.1
    let y := s.supply k
    if e.2.enabled && e.2.zone == z && y.enabled && (y.state == .battery || y.state == .returning) && decide (P < y.parN 0x48) then max m (y.par 0x47) else m) 0

/-- The thread takes over its block: routes, parameters, map and filters; the state of filters that stay is kept (R265, R270). A change of the priority-15 route ends a switch (R277). -/
def Zone.reload (x : Zone) : Zone :=
  let old := x.slots.find? fun e => e.2.live.prio == 15 && e.2.live.src != .none
  let new := x.slots.find? fun e => e.2.route.prio == 15 && e.2.route.src != .none
  let same := old.map (fun e => (e.1, e.2.live)) == new.map (fun e => (e.1, e.2.route))
  let eq := x.eq.zipIdx.map fun b => match x.liveEq[b.2]? with
    | some o => { b.1 with x1 := o.x1, x2 := o.x2, y1 := o.y1, y2 := o.y2 }
    | none => b.1
  { x with
    live := x.params, liveEq := eq, liveEvac := x.evac, slots := x.slots.map fun e => (e.1, { e.2 with live := e.2.route })
    switched := if same then x.switched else none, swReported := same && x.swReported }

/-- Targets of Table 9.1 and one step of every ramp: a slot that becomes active starts from 0, one in its first period at priority 15 at its target; a slot no longer active has gain 0 (R267). -/
def Slot.advance (v : Slot) (P n duckFrom : Nat) (duck : Int) : Slot :=
  if v.live.src = .none then { v with active := false, at15 := false, g := {} }
  else
    let t := slotTarget v.live.prio P v.live.gain duckFrom duck
    if v.live.prio = 15 ∧ !v.at15 then { v with active := true, at15 := true, g := { cur := t, start := t, target := t } }
    else { v with active := true, at15 := v.live.prio == 15, g := ((if v.active then v.g else {}).aim t n).step }

/-- Ramps of zone z one period on. -/
def zoneGains (s : State) (z : Nat) : Zone :=
  let x := s.zone z
  let P := x.liveP
  let n := (x.lpar 6).toNat
  let zg := x.lpar 2
  let e := s.econ z P
  { x with
    slots := x.slots.map fun v => (v.1, v.2.advance P n (x.lpar 4).toNat (x.lpar 5))
    vol := (x.vol.aim (if zg = muteVal then 0 else gainOf (zg - e)) n).step }

/-- Periods from cycle a to cycle c; none where a is the later one. -/
def cyclesSince (c a : Nat) : Nat := let d := (c + 2 ^ 29 - a % 2 ^ 29) % 2 ^ 29; if d < 2 ^ 28 then d else 0

/-- Source silence (R26, R27, R277): a zone at priority 15 on stream id switches to the message its map names, or to silence, at the first boundary at or after the limit. -/
def watchStream (s : State) (z c : Nat) : State :=
  let x := s.zone z
  match x.switched, x.stream15 with
  | none, some id =>
    match s.sin id with
    | some st =>
      if (x.lpar 0x0F).toNat * 48 ≤ cyclesSince c st.arrival then
        let msg := if x.liveEvac ≠ 0 ∧ (s.message x.liveEvac).isSome then x.liveEvac else 0
        (s.setZone z { x with switched := some (msg, c), swReported := false }).setSin id (some { st with silent := true })
      else s
    | none => s
  | _, _ => s

/-- What a slot of zone x plays: its source, with the start cycle of a message; a switch puts the stored message, or silence, in place of the stream at priority 15 (R26, R27). -/
def Zone.plays (x : Zone) (r : Route) : RSrc × Nat :=
  match r.src, x.switched with
  | .stream _ _, some (m, st) => if r.prio = 15 then (if m = 0 then .none else .msg m, st) else (r.src, 0)
  | v, _ => (v, r.start)

/-- The playback instances of zone thread zt: distinct messages with their start cycles in the order of its zones and slots, at most 2 (R275). -/
def State.playing (s : State) (zt : Nat) : List (Nat × Nat) :=
  (((s.zth zt).zones.flatMap fun z => (s.zone z).slots.filterMap fun e => match (s.zone z).plays e.2.live with
    | (.msg id, st) => some (id, st)
    | _ => none).eraseDups).take 2

/-- The sample of a slot of zone x in cycle c, with the thread's instances. -/
def State.slotSample (s : State) (x : Zone) (ins : List (Nat × Nat)) (r : Route) (c : Nat) : Int :=
  match x.plays r with
  | (.none, _) => 0
  | (.msg id, st) => if ins.contains (id, st) then s.play id st c else 0
  | (.stream id ch, _) => match s.sin id with | some y => s.streamSample y ch c | none => 0

/-- The words that slot reads: the frame up to its sample, or the block of a message up to its code. -/
def State.slotReads (s : State) (x : Zone) (r : Route) (c : Nat) : List (Nat × Nat) :=
  match x.plays r with
  | (.none, _) => []
  | (.msg id, st) =>
    match s.message id, (s.regionsOf 4).head? with
    | some m, some g =>
      let i := (c + 2 ^ 29 - st % 2 ^ 29) % 2 ^ 29
      let n := 3 * (m.len + 16 * m.gap)
      let j := (if m.loop ∧ n ≠ 0 then i % n else i) / 3
      if j < m.len then [(g.base + m.off / 2 + 130 * (j / 256), 3 + j % 256 / 2)] else []
    | _, _ => []
  | (.stream id ch, _) =>
    match s.sin id with
    | some y =>
      (match y.packet ((c + 2 ^ 29 - y.link) % 2 ^ 29) with
       | some (k, i) =>
         let w := s.slotData y.ring k
         [(w, (s.payloadAt w y.aaf + (i * y.channels + ch + 1) * (if y.l24 then 3 else 2) + 1) / 2)]
       | none => [])
    | none => []

/-- A library thread t reads those words: corrected errors are counted, an uncorrectable one faults the thread with ECC_XCH (R89, R152). -/
def readAll (s : State) (t : Tid) (rs : List (Nat × Nat)) : State × Bool :=
  rs.foldl (fun p r => let q := xscan p.1 (t.setWidth 13) r.1 r.2; (q.1, p.2 && q.2)) (s, true)

/-- Zone thread t writes sample v of cycle c to the output ring of zone x (R269). -/
def putSample (s : State) (t : Tid) (x : Zone) (c : Nat) (v : Word) : State :=
  if x.ringLen = 0 then s else xputs s (depOf t) (t.setWidth 13) (x.ringBase + c % x.ringLen) [v]

/-- The sums of the present ANG window take one more sample of the output o and, where the sensor is a stream channel, of the sensor (R271). -/
def Zone.angTake (x : Zone) (sensor o : Int) : Zone :=
  if x.lpar 7 % 2 = 1 then { x with angN := x.angN + 1, angSq := x.angSq + sensor.natAbs * sensor.natAbs, outSq := x.outSq + o.natAbs * o.natAbs } else x
/-- The sample of the zone's sensor in cycle c; a local input is not sampled here. -/
def State.sensor (s : State) (x : Zone) (c : Nat) : Int :=
  let v : W32 := BitVec.ofInt 32 (x.lpar 7)
  if bitAt v 1 then 0 else match s.sin (fld v 4 11) with | some y => s.streamSample y (fld v 16 3) c | none => 0

/-- One zone of zone thread t in the period of cycle c, with the thread's instances (R269). -/
def mixZone (t : Tid) (ins : List (Nat × Nat)) (c : Nat) (s : State) (z : Nat) : State :=
  let x := zoneGains s z
  let sum := (x.slots.map fun v => 2 * (s.slotSample x ins v.2.live c * v.2.g.cur)).sum
  let q := runBands x.liveEq (saturate 16 true (roundBy 2 sum 16)).1.toInt
  let P := x.liveP
  let g := if P = 15 then gainOf (x.lpar 3) else x.vol.cur
  let b := if x.lpar 7 % 2 = 1 then x.boost else 0x4000
  let o := zoneOut q.2 g b
  let x : Zone := { x with liveEq := q.1, lastOut := o.1, clips := if o.2 then satInc x.clips else x.clips }
  putSample (s.setZone z (x.angTake (s.sensor x c) o.1.toInt)) t x c o.1

/-- The route check of R265 in the period of cycle c: ACQ try on the block's seal, the generation, REL, and the block where it changed. -/
def routeCheck (s : State) (i c : Nat) : State :=
  let t := s.zth i
  let a := t.tid.setWidth 13
  match acquire (s.atPoint (depOf t.tid) t.sealAddr) t.sealAddr a with
  | (s', .granted _) =>
    let s' := (release s' t.sealAddr a).1
    if t.gen = t.liveGen then s'
    else t.zones.foldl (fun s z => moveRing (s.setZone z (s.zone z).reload) z c) (s'.setZth i { t with liveGen := t.gen })
  | (s', _) => s'

/-- The thread takes at most one ANG message, the oldest (R271). -/
def takeBoost (s : State) (i : Nat) : State :=
  match (s.zth i).msgs with
  | (z, v) :: r => (s.setZth i { s.zth i with msgs := r }).setZone z { s.zone z with boost := v }
  | [] => s

/-- What a zone thread does first in every period, missed or not: the route check, an ANG message, the watch on its streams. -/
def openPeriod (s : State) (zt c : Nat) : State :=
  let s := takeBoost (routeCheck s zt c) zt
  (s.zth zt).zones.foldl (fun s z => watchStream s z c) s

/-- A missed period of zone thread zt: its state advances, and each zone's last sample is written again (R278). -/
def missPeriod (s : State) (zt c : Nat) : State :=
  let s := openPeriod s zt c
  (s.zth zt).zones.foldl (fun s z => let x := zoneGains s z; putSample (s.setZone z x) (s.zth zt).tid x c x.lastOut) s
/-- n missed periods from cycle c. -/
def missPeriods (zt c : Nat) : Nat → State → State
  | 0, s => s
  | n + 1, s => missPeriods zt (c + 1) n (missPeriod s zt (c % 2 ^ 29))

/-- The exchange banks the thread's zones need answer: rings, flow rings, the store. -/
def State.zoneBanks (s : State) (zs : List Nat) : Bool :=
  zs.all fun z =>
    let x := s.zone z
    (x.ringLen == 0 || s.ringsOn x.ringBase x.ringLen) && x.slots.all fun v => match v.2.route.src with
      | .stream id _ => (match s.sin id with | some y => s.bankOn (s.fring y.ring).base.toNat | none => true)
      | .msg _ => (match (s.regionsOf 4).head? with | some r => s.ringsOn r.base r.len | none => true)
      | .none => true

/-- Zone thread zt in the period of cycle c (R265 to R277). -/
def onePeriod (s : State) (zt c : Nat) : State :=
  let s := openPeriod s zt c
  let t := s.zth zt
  let r := readAll s t.tid (t.zones.flatMap fun z => (s.zone z).slots.flatMap fun v => s.slotReads (s.zone z) v.2.live c)
  if r.2 then t.zones.foldl (mixZone t.tid (r.1.playing zt) c) r.1 else r.1.faultThr t.tid .eccXch

/-- ZONE_PERIOD: zone thread zt wakes for cycle w, the one it waits for; where boundaries have passed since the one it waits for, it has missed the periods of all of them and goes on at the next; more of them than a ring or a ramp is long change nothing further (R25, R265 to R278). -/
def zonePeriod (s : State) (zt w : Nat) : State :=
  let s := gridStep s
  let t := s.zth zt
  let c := s.mediaCycle
  if !s.libRuns t.tid || t.zones == [] || w != t.cycle || !s.cycleDue t.cycle then s
  else if !s.zoneBanks t.zones then s.faultThr t.tid .xbus
  else if c = t.cycle then
    let s := onePeriod s zt c
    s.setZth zt { s.zth zt with cycle := (c + 1) % 2 ^ 29 }
  else
    let s := missPeriods zt t.cycle (Nat.min (cyclesSince c t.cycle + 1) 131072) s
    s.setZth zt { s.zth zt with cycle := (c + 1) % 2 ^ 29, overruns := satInc t.overruns }
def execZonePeriod (zt c : Nat) (s : State) : Out := .next (zoneReports (zonePeriod s zt c))

/-! ### ANG_WINDOW (R271) -/

/-- A thread of service sv works. -/
def State.serviceRuns (s : State) (sv : Nat) : Bool :=
  s.sheow.roles.any fun e => match e.2 with | some r => r.service == sv && s.libRuns (BitVec.ofNat 12 e.1) | none => false

def clampI (lo hi v : Int) : Int := max lo (min hi v)

/-- A window of an ANG thread. -/
def angBtLen : Nat := 250 * msBt

/-- A sum of squares over n samples is above a level of v half-decibels below full scale (v at most 0). -/
def aboveLevel (sq n : Nat) (v : Int) : Bool := decide ((n * 2 ^ 30) ^ 20 < sq ^ 20 * 10 ^ (-v).toNat)
/-- The RMS level of n samples in 0.1 dB re full scale, rounded down; −200 dB where they are all 0. -/
def rmsLevel (sq n : Nat) : Int :=
  let k := (List.range 11).reverse.foldl (fun r i => if sq ^ 100 * 10 ^ (r + 2 ^ i) < (n * 2 ^ 30) ^ 100 then r + 2 ^ i else r) 0
  if sq = 0 then -2000 else if (n * 2 ^ 30) ^ 100 ≤ sq ^ 100 then 0 else max (-2000) (-(k + 1 : Nat))

/-- Thread t is an ANG thread that works (Table 9.5). -/
def State.serves4 (s : State) (t : Tid) : Bool := (match s.role t with | some r => r.service == 4 | none => false) && s.libRuns t

/-- ANG_WINDOW: the 250 ms window of zone z ends in ANG thread t; level is what the sensor of a local input measured, in 0.1 dB. The boost, in 1/80 dB, goes to the zone's thread as a message. -/
def angWindow (s : State) (z : Nat) (t : Tid) (level : Int) : State :=
  let x := s.zone z
  let on := x.angOn && x.declared && s.serves4 t
  if !on || decide (s.clk.bt < x.angBt + angBtLen) then s
  else
    let y : Zone := { x with angBt := s.clk.bt - s.clk.bt % angBtLen, angN := 0, angSq := 0, outSq := 0 }
    if aboveLevel x.outSq x.angN (x.par 0x0D) then s.setZone z y
    else
      let v := if bitAt (BitVec.ofInt 32 (x.par 7)) 1 then level else rmsLevel x.angSq x.angN
      let target := clampI 0 (40 * x.par 0x0A) ((v - 5 * x.par 8) * x.par 9)
      let step := if x.boostDb < target then 2 * x.par 0x0B else 2 * x.par 0x0C
      let b := x.boostDb + clampI (-step) step (target - x.boostDb)
      let s := s.setZone z { y with boostDb := b }
      (s.threadsOf [z]).foldl (fun s i => s.setZth i { s.zth i with msgs := (s.zth i).msgs ++ [(z, boostOf b)] }) s
def execAngWindow (z : Nat) (t : Tid) (level : Int) (s : State) : Out := .next (angWindow s z t level)

/-! ### RECEIVE_PACKET (R256, R257, R263) -/

/-- Packets missed before sequence number q; one from before the expected one misses none. -/
def StreamIn.missed (x : StreamIn) (q : Word) : Nat :=
  match x.lastSeq with
  | none => 0
  | some l =>
    let n := if x.aaf then (q.toNat + 512 - l.toNat - 1) % 256 else (q.toNat + 131072 - l.toNat - 1) % 65536
    if n < (if x.aaf then 128 else 32768) then n else 0

/-- Samples of a packet whose mix period has begun. -/
def lateSamples (now first n : Nat) : Nat :=
  let d := (now + 1 + 2 ^ 29 - first % 2 ^ 29) % 2 ^ 29
  if d < 2 ^ 28 then Nat.min d n else 0

/-- The PMK3 cycle of the sample boundary nearest the presentation time whose low 32 bits, in nanoseconds of PTP time, an AAF frame carries; PMK4 gives the seconds: the time nearest the present one (R256). -/
def State.aafCycle (s : State) (ts : W32) : Nat :=
  let now := s.ptpNow / ptpNs
  let t := ((now : Int) + (ts - BitVec.ofNat 32 now).toInt).toNat
  (2 * t * 48000 + 1000000000) / 2000000000 % 2 ^ 29

/-- The latest of the sequence numbers l and q, in the order of the stream's counter (R257). -/
def StreamIn.latest (x : StreamIn) (q : Word) : Word :=
  match x.lastSeq with
  | none => q
  | some l => if (if x.aaf then decide ((q.toNat + 256 - l.toNat % 256) % 256 < 128) else decide ((q - l).toNat < 32768)) then q else l

/-- RECEIVE_PACKET: the check of a packet and the state block of its stream, by the receive thread that serves it (R256, R257, R281). -/
def receivePacket (s : State) (id : Nat) (p : AudioPacket) : State :=
  let s := gridStep s
  match s.sin id with
  | none => s
  | some x =>
    if !(match x.tid with | some t => s.libRuns t | none => false) then s
    else if x.aaf && !p.tv then s.setSin id (some { x with tvLost := satInc x.tvLost })
    else if x.seqs.contains p.seq then s
    else
      let c := s.mediaCycle
      let first := if x.aaf then s.aafCycle p.ts else (p.ts - x.offset).toNat % 2 ^ 29
      let late := lateSamples c (first + x.link) p.n
      s.setSin id (some { x with
        block := ((p.slot, first, p.n, late) :: x.block).take 32, arrival := c, lastSeq := some (x.latest p.seq), seqs := (p.seq :: x.seqs).take 32
        packets := satInc x.packets, lost := satAdd x.lost (x.missed p.seq * x.spp), late := satAdd x.late late, silent := false })
def execReceivePacket (sid : Nat) (p : AudioPacket) (s : State) : Out := .next (zoneReports (receivePacket s sid p))

/-! ### OUTBOUND_PACKET (R258) -/


/-- The sample of zone z for cycle c, with its delay (R272). -/
def State.zoneSample (s : State) (z c : Nat) : Word :=
  let x := s.zone z
  if x.ringLen = 0 then 0 else s.xword (x.ringBase + (c + 2 ^ 29 - (x.lpar 0x0E).toNat % 2 ^ 29) % 2 ^ 29 % x.ringLen)

/-- The payload: samples of each channel in turn, network byte order. -/
def State.payload (s : State) (x : StreamOut) : List Byte :=
  (List.range x.spp).flatMap fun i => x.zones.flatMap fun z =>
    let w := s.zoneSample z ((x.cycle + i) % 2 ^ 29)
    netBytes w.toNat 2 ++ (if x.l24 then [0] else [])

/-- Sample count of PTP time at PMK3 cycle c, modulo 2^32. -/
def State.rtpTime (s : State) (c : Nat) : Nat :=
  (s.ptpNow * 48000 / ptpSec + 2 ^ 32 - (s.mediaCycle + 2 ^ 29 - c) % 2 ^ 29) % 2 ^ 32

/-- The frame: the template with sequence number, timestamp and lengths filled, UDP checksum 0, then the payload. An AAF presentation time is not stated. -/
def State.frameOut (s : State) (x : StreamOut) : List Byte :=
  let t := s.xch.mem.bytes (2 * x.tmpl) x.tmplLen
  let b (i : Nat) : Nat := (t[i]?.getD 0).toNat
  let v := if b 12 = 0x81 ∧ b 13 = 0 then 18 else 14
  let pl := s.payload x
  let h := if x.aaf then
      putBytes (putBytes (putBytes (putBytes t (v + 2) (netBytes (x.seq.toNat % 256) 1)) (v + 4) (netBytes x.sid.toNat 8))
        (v + 12) (netBytes (Config.word32 s.free).toNat 4)) (v + 20) (netBytes pl.length 2)
    else
      let u := v + 4 * (b v % 16)
      let n := x.tmplLen - u + pl.length
      putBytes (putBytes (putBytes (putBytes (putBytes t (v + 2) (netBytes (n + u - v) 2)) (u + 4) (netBytes n 2)) (u + 6) [0, 0])
        (u + 10) (netBytes x.seq.toNat 2)) (u + 12) (netBytes (s.rtpTime x.cycle + x.rtpOff.toNat) 4)
  h ++ pl


/-- A place for a frame of n words in the library work area, at a multiple of 8 words. -/
def State.framePlace (s : State) (n : Nat) : Option Nat :=
  match (s.regionsOf 5).head? with
  | some r => if r.len < n + 8 then none else some ((r.base + 7) / 8 * 8 + Config.choice s.free % ((r.len - n) / 8) * 8)
  | none => none

/-- Post a frame of len bytes at exchange word a on queue q of lane l by requester code c: descriptor, then producer count (R243, R246). -/
def postFrame (s : State) (c : Nat) (id : BitVec 13) (l q a len : Nat) (launch : Option Nat) (flags : Nat) : State :=
  let t := (s.lane l).txq q
  let n := xtake32 s c id t.base.toNat
  let w0 : W32 := BitVec.ofNat 32 (len + flags + (if launch.isSome then 2 ^ 21 else 0))
  let s := xputs n.1 c id (t.desc n.2.toNat) (words32 w0 ++ words32 (BitVec.ofNat 32 a) ++ words64 (BitVec.ofNat 64 (launch.getD 0)))
  xputs s c id t.base.toNat (words32 (n.2 + 1))

/-- Queue q of lane l is enabled, its bank answers and it has room for one more descriptor. -/
def State.queueRoom (s : State) (l q : Nat) : Bool :=
  let t := (s.lane l).txq q
  bitAt t.cfg 31 && s.bankOn t.base.toNat && decide (((s.xword (t.base.toNat + 1) ++ s.xword t.base.toNat) - t.cons).toNat < 2 ^ fld t.cfg 0 4)

/-- PTP is valid and a lane of the stream has its link (R28). -/
def State.canSend (s : State) (x : StreamOut) : Bool := s.refValid 3 && x.lanes.any fun l => (s.lane l).link

/-- OUTBOUND_PACKET: the packet of the samples whose mix periods have ended is posted with its launch time; a stream that could not send resumes at the next sample boundary (R28, R258). -/
def outbound (s : State) (id : Nat) : State :=
  let s := gridStep s
  match s.sout id with
  | none => s
  | some x =>
    let l := if x.prp then x.lane / 2 * 2 else x.lane
    let bs := s.frameOut x
    if !s.serviceRuns 3 then s
    else if !s.canSend x then s.setSout id (some { x with down := true })
    else if x.down then s.setSout id (some { x with down := false, cycle := (s.mediaCycle + 1) % 2 ^ 29 })
    else if !s.cycleDue ((x.cycle + x.spp) % 2 ^ 29) || !s.queueRoom l x.queue then s
    else match s.framePlace ((bs.length + 1) / 2) with
      | none => s
      | some a =>
        let launch := s.mediaBt ((x.cycle + 1) % 2 ^ 29) + x.txOff * 960
        let s := (xputs s pmCode (agentId .pmA) a (bytesWords bs)).tick1
        let s := postFrame s pmCode (agentId .pmA) l x.queue a bs.length (some launch) (b2n x.prp * 2 ^ 19)
        s.setSout id (some { x with seq := x.seq + 1, cycle := (x.cycle + x.spp) % 2 ^ 29, packets := satInc x.packets })
def execOutboundPacket (sid : Nat) (s : State) : Out := .next (outbound s sid)

end Sys2Proof.Machine
end

