-- ==== Sys2Proof/Machine/LineEv.lean ====
section
/-! DEFINITION. The modulator threads, their protection, and the supervision threads (R287 to R300, Tables 10.2 to 10.4). -/
namespace Sys2Proof.Machine

/-! ### SWITCHING_PERIOD (R287 to R290, R294) -/

/-- The thread of a channel that modulates. -/
def State.modulates (s : State) (c : Nat) : Option Tid :=
  let x := s.chan c
  match x.tid with
  | some t => if x.enabled && !x.stopped && !x.latched && x.pins.isSome && s.libRuns t then some t else none
  | none => none

/-- Start of switching period k in phase units, and its length. -/
def perStart (n k : Nat) : Nat := k * 65536 / n
def perLen (n k : Nat) : Nat := perStart n (k + 1) - perStart n k

/-- BT of the point off phase units into switching period k of cycle c (R287, R48). -/
def State.perBt (s : State) (c n k off : Nat) : Option W64 :=
  match s.sheow.grid with
  | some _ => some (BitVec.ofInt 64 ((s.mediaBt c + k * 200000 / n : Nat) + roundHalfUp (off * 200000) 65536))
  | none =>
    let p := perStart n k + off
    match s.convert (BitVec.ofNat 48 (3 * 2 ^ 45 + (c + p / 65536) % 2 ^ 29 * 65536 + p % 65536)) with
    | .ok t => some t
    | _ => none

/-- The modulation period whose switching period k comes next. -/
def State.perCycle (s : State) (n k : Nat) : Nat :=
  match s.perBt s.mediaCycle n k 0 with
  | some t => if s.clk.bt < t.toNat then s.mediaCycle else (s.mediaCycle + 1) % 2 ^ 29
  | none => (s.mediaCycle + 1) % 2 ^ 29


/-- A raised cosine from 0 to 32,768 over T, t after its start. -/
def raisedCos (t T : Nat) : Int := if T ≤ t then 32768 else (32768 - cosQ15 t (2 * T)) / 2

/-- The test signal t BT into step i, in Q15 (Table 10.5): tones at −30 dBFS with ramps of 20 ms, then the DC probe. -/
def Chan.testSignal (x : Chan) (i t : Nat) : Int :=
  let dc : Int := 32768 * x.par 0x38 / max 1 (x.par 0x24)
  if i = 0 ∨ 14 < i then 0
  else if i ≤ 9 then
    let f := 20000 + 500 * (i - 1)
    let r := min (raisedCos t (20 * msBt)) (raisedCos (200 * msBt - t) (20 * msBt))
    (sinQ15 (f * t % secBt) secBt * gain80 (-2400) * r).fdiv (32768 * 32768)
  else if i = 10 then (dc * raisedCos t secBt).fdiv 32768
  else if i = 11 then dc
  else if i = 12 then (dc * (32768 - 2 * raisedCos t (2 * secBt))).fdiv 32768
  else if i = 13 then -dc
  else (-dc * (32768 - raisedCos t secBt)).fdiv 32768

/-- What the channel adds to programme at BT t: the test signal of a round, its fade over 1 ms after an abort, the pilot otherwise (R288, R294, R304). -/
def Chan.added (x : Chan) (t : Nat) : Int :=
  match x.round with
  | some (.testing _ i nxt) => x.testSignal i (t - (nxt - stepBt i))
  | _ =>
    let p := (sinQ15 x.pilot (384 * 720720) * gainOf (x.par 0x26)).fdiv 32768
    match x.fade with
    | some (i, b, a) => if t < a + msBt then p + (x.testSignal i (t - b) * ((a + msBt : Nat) - (t : Int))).fdiv msBt else p
    | none => p

/-- g_lim with the ramp after a restart, in units of 0.05 dB (R292). -/
def Chan.limNow (x : Chan) (t : Nat) : Int :=
  match x.rampFrom with
  | some b => if t < b + 10 * msBt then min x.gLim (-400 + (x.gLim + 400) * ((t : Int) - b) / (10 * msBt)) else x.gLim
  | none => x.gLim

/-- A zone sample through the notch biquad at pilot_f: zeros on the unit circle, poles of radius at most 0.3 at the same angle, gain 1 at zero frequency, so that it attenuates by at least 40 dB over pilot_f ± 100 Hz (R288, R294). -/
def Chan.sample (x : Chan) (v : Int) : Chan :=
  let h (i : Nat) : Int := x.notch[i]?.getD 0
  let k := cosQ15 (x.parN 0x25) 48000
  let r : Int := Config.notchPole.val
  let num := 32768 * v - 2 * k * h 0 + 32768 * h 1
  let y := roundBy 2 (num * (2 ^ 30 - 2 * k * r + r * r) / (2 * (32768 - k)) + 2 * k * r * h 2 - r * r * h 3) 30
  { x with xPrev := x.xCur, xCur := y, notch := [v, h 0, y, h 2] }

/-- The width of the pulse of half-bridge A in phase units, and the channel with its shaper and its pilot one period on (R288, R289). Drives are in 2^-16 of a phase unit about half the period. -/
def Chan.drive (x : Chan) (n k t : Nat) : Nat × Chan :=
  let w := perLen n k
  let g := x.limNow t
  let v := (w * (x.xPrev * n + (x.xCur - x.xPrev) * (k + 1)) * gain80 (4 * g)).fdiv (n * 32768)
  let i := w * 32768 + v + w * x.added t - 3 * x.e1 + 3 * x.e2 - x.e3
  let q := (i + 32768).fdiv 65536
  let e := clampI (-98304) 98304 (q * 65536 - i)
  let lo := (w * (1000 - x.parN 0x23) + 1999) / 2000
  let mp := (x.parN 0x22 * 65536 + 199999) / 200000
  let a := clampI mp (w - mp : Nat) (clampI lo (w - lo : Nat) q)
  (a.toNat, { x with e1 := e, e2 := x.e1, e3 := x.e2, pilot := (x.pilot + x.parN 0x25 / 125 * (720720 / n)) % (384 * 720720) })

/-- Post an edge of thread t at a BT. -/
def postAt (s : State) (t : Tid) (n : Nat) (bt : Option W64) (shift : Int) (v : Bool) : State :=
  match bt with
  | some b => postEdge s t n (b + BitVec.ofInt 64 shift) v
  | none => s

/-- The edges of one half-bridge: its pulse of w units, centred in period k of cycle c; with BRIDGE4 the low gate is off for dead around it (R289). -/
def postPulse (s : State) (t : Tid) (x : Chan) (c n k w hi lo : Nat) : State :=
  let r := (perLen n k - w) / 2
  let up := s.perBt c n k r
  let dn := s.perBt c n k (r + w)
  if x.bridge4 then
    let d : Int := x.parN 0x21 / 2
    postAt (postAt (postAt (postAt s t hi up d true) t hi dn (-d) false) t lo up (-d) false) t lo dn d true
  else postAt (postAt s t hi up 0 true) t hi dn 0 false

/-- Late edges ever counted on the gate pins of a channel. -/
def State.lateEdges (s : State) (x : Chan) : Nat :=
  match x.pins with
  | some p => ((p.gates x.bridge4).map fun n => (s.pin n).lateN).sum
  | none => 0

/-- MOD_LATE when the gate pins count a late edge (R290). -/
def lateReport (s : State) (c : Nat) : State :=
  let x := s.chan c
  let l := s.lateEdges x
  if l = x.modLate then s
  else
    let t := s.setChan c { x with modLate := l }
    if x.modLate < l then lineRec t 12 2 1 c (l - x.modLate : Nat) 0 else t

/-- The records of a letter act on a channel that does not modulate (R328). -/
def settle (s : State) (c : Nat) : State := settleChan s c (s.modulates c).isNone

/-- The modulator of channel c posts switching period k of the next modulation period that holds it; it waits while a gate queue lacks room for the pulse (R289). -/
def switchPeriod (s : State) (c k : Nat) : State :=
  let s := lateReport (gridStep s) c
  let s := settleChan s c (k == 0 || (s.modulates c).isNone)
  let x := s.chan c
  let n := x.parN 0x20
  match s.modulates c, x.pins with
  | some t, some p =>
    let cc := s.perCycle n k
    if n ≤ k ∨ n < 4 ∨ x.lastPer = some (cc, k) ∨ !(p.gates x.bridge4).all (fun g => decide ((s.pin g).eq.length + (s.pin g).eqX.length ≤ 2)) then s
    else
      let x := if x.lastPer.map (·.1) = some cc then x else x.sample (s.zoneSample x.zone ((cc + 2 ^ 29 - 2) % 2 ^ 29)).toInt
      let d := x.drive n k ((s.perBt cc n k 0).getD s.bt64).toNat
      let w := perLen n k
      let s := s.setChan c { d.2 with lastPer := some (cc, k) }
      postPulse (postPulse s t x cc n k d.1 p.gateA p.lowA) t x cc n k (w - d.1) p.gateB p.lowB
  | _, _ => s
def execSwitchingPeriod (ch k : Nat) (s : State) : Out := .next (switchPeriod s ch k)

/-! ### Protection (R290 to R293) -/

/-- The modulator thread of channel c works. -/
def State.modThread (s : State) (c : Nat) : Bool :=
  match (s.chan c).tid with | some t => (s.chan c).enabled && s.libRuns t | none => false

/-- OVL_TRIP is due: g_lim at −lim_max with the current above i_rated for 10 s, below priority 15 (R293). -/
def State.overloaded (s : State) (c : Nat) : Bool :=
  match (s.chan c).limDeep with
  | some b => decide (b + 10 * secBt ≤ s.clk.bt ∧ s.chanPrio c ≠ 15)
  | none => false

/-- The channel stops and OVL_TRIP latches. -/
def overloadTrip (s : State) (c : Nat) : State :=
  if !s.modThread c || !s.overloaded c || (s.chan c).ovlTrip || (s.chan c).stopped then s
  else
    let s := stopChan s c
    lineRec (s.setChan c { s.chan c with ovlTrip := true, limDeep := none }) 9 0 1 c ((s.chan c).gLim.tdiv 10) 0

/-- A status stop: after retry_n restarts within 10 s it latches, but never while P is 15 (R292). -/
def statusStop (s : State) (c : Nat) : State :=
  if !s.modThread c || (s.chan c).stopped then s
  else
    let s := stopChan s c
    let x := s.chan c
    let recent := x.restarts.filter fun b => decide (s.clk.bt < b + 10 * secBt)
    let s := s.setChan c { x with restarts := recent }
    if s.chanPrio c ≠ 15 ∧ x.parN 0x2A ≤ recent.length then
      lineRec (s.setChan c { s.chan c with trip := true }) 8 0 1 c recent.length 0 0 (s.chanAlarm c)
    else s

/-- GATE: a mismatch on a gate pin stops the channel and latches at once (R290, R292). -/
def gateFault (s : State) (c : Nat) : State :=
  let x := s.chan c
  let hit := match x.pins with
    | some p => (p.gates x.bridge4).any fun n => bitAt (s.mmOf (n / 16)) (n % 16)
    | none => false
  if !s.modThread c || !hit || x.gate then s
  else
    let s := if x.stopped then s else stopChan s c
    lineRec (s.setChan c { s.chan c with gate := true }) 10 0 1 c 0 0

/-- CHANNEL_STOP (R291). -/
def execChannelStop (ch : Nat) (why : StopCause) (s : State) : Out :=
  let s := settle s ch
  .next (match why with | .status => statusStop s ch | .gate => gateFault s ch | .overload => overloadTrip s ch)

/-- CHANNEL_RESTART (R292): after retry_wait, unless latched. -/
def execChannelRestart (ch : Nat) (s : State) : Out :=
  let s := settle s ch
  let x := s.chan ch
  .next (if s.modThread ch && x.stopped && !x.latched && decide (x.stopAt + x.parN 0x2B * msBt ≤ s.clk.bt) then
    restartChan (s.setChan ch { x with restarts := s.clk.bt :: x.restarts }) ch
  else s)

/-- g_lim after an update at a current of mA (R293). -/
def Chan.limStep (x : Chan) (mA : Nat) : Int :=
  let lo := -10 * x.par 0x29
  if x.par 0x28 < mA then max lo (x.gLim - 10)
  else if 10 * (mA : Int) < 9 * x.par 0x28 then min 0 (x.gLim + 1) else x.gLim

/-- Stream i of a channel is not in SENSE (R297). -/
def Chan.has (x : Chan) (i : Nat) : Bool := !x.sense.any fun e => e.1 == i
/-- The connected legs' current streams are there: both of a SPUR but a leg cut off for SHORT, leg A of a loop, and leg B once it is closed. -/
def Chan.hasCurrents (x : Chan) : Bool :=
  if x.loop then x.has 1 && (!x.loopOpen || x.has 2)
  else (x.legA.cls == some .short || x.has 1) && (x.legB.cls == some .short || x.has 2)

/-- LIMITER_UPDATE (R293): every 100 ms, on the RMS sum of the leg currents over the last second. -/
def limiter (s : State) (c mA : Nat) : State :=
  let s := settle s c
  let x := s.chan c
  if !s.modThread c || x.stopped || !x.hasCurrents || (match x.limAt with | some b => decide (s.clk.bt < b + 100 * msBt) | none => false) then s
  else
    let g := x.limStep mA
    let deep := decide (g = -10 * x.par 0x29 ∧ x.par 0x28 < mA)
    let y := { x with gLim := g, limDeep := if deep then some (x.limDeep.getD s.clk.bt) else none, overload := decide (g < 0), limAt := some s.clk.bt }
    let s := s.setChan c y
    if y.overload && !x.overload then lineRec s 7 0 1 c (g.tdiv 10) 0
    else if x.overload && !y.overload then lineRec s 7 1 1 c 0 0 else s
def execLimiterUpdate (ch mA : Nat) (s : State) : Out := .next (limiter s ch mA)

/-- OVL_TRIP (R293). -/
def execOvlTrip (ch : Nat) (s : State) : Out := .next (overloadTrip (settle s ch) ch)

/-! ### Faults of a leg (R297, R298) -/

def LegClass.code : LegClass → Nat | .short => 1 | .opened => 2 | .reversed => 5 | .drift => 6

/-- The number of leg A or B of channel c. -/
def legNo (c : Nat) (b : Bool) : Nat := 2 * c + b2n b

/-- The tone of the sweep step in progress; none when no round tests the channel. -/
def Chan.tone (x : Chan) : Option (Bool × Nat) :=
  match x.round with | some (.testing b i _) => some (b, i) | _ => none

/-- The relays follow the faults of the legs; during a test they wait for its end (R302). -/
def faultRelays (s : State) (c : Nat) : State := if (s.chan c).tone.isSome then s else normalRelays s c

/-- Clear the class that a leg holds; the relay of a SPUR leg that was in SHORT connects again. -/
def clearLeg (s : State) (c : Nat) (b : Bool) (v base : Int) : State :=
  let x := s.chan c
  match (x.leg b).cls with
  | none => s
  | some k =>
    let s := s.setChan c (x.setLeg b { x.leg b with cls := none, okFrom := none, okDrift := 0 })
    faultRelays (lineRec s k.code 1 0 (legNo c b) v base 0 (k == .short && s.chanAlarm c)) c

/-- Raise class k on a leg where it holds none or a lower one, which is cleared first (R298). SHORT on a SPUR leg opens its relay. -/
def raiseLeg (s : State) (c : Nat) (b : Bool) (k : LegClass) (v base : Int) : State :=
  let go (s : State) : State :=
    let x := s.chan c
    let s := s.setChan c (x.setLeg b { x.leg b with cls := some k, okFrom := none, okDrift := 0 })
    faultRelays (lineRec s k.code 0 0 (legNo c b) v base 0 (k == .short && s.chanAlarm c)) c
  match ((s.chan c).leg b).cls with
  | none => go s
  | some k' => if k.code < k'.code then go (clearLeg s c b v base) else s

/-- SHORT and OPEN thresholds of a leg for impedance z against its baseline; absolute limits without one (R296, R297). -/
def Chan.isShort (x : Chan) (zb : Option Nat) (z : Nat) : Bool :=
  match zb with | some b => decide (100 * z < x.parN 0x30 * b) | none => decide (z < 4000)
def Chan.shortOver (x : Chan) (zb : Option Nat) (z : Nat) : Bool :=
  match zb with | some b => decide (3 * x.parN 0x30 * b < 200 * z) | none => decide (6000 < z)
def Chan.isOpen (x : Chan) (zb : Option Nat) (z : Nat) : Bool :=
  match zb with | some b => decide (x.parN 0x31 * b < 100 * z) | none => decide (20000000 < z)
def Chan.openOver (x : Chan) (zb : Option Nat) (z : Nat) : Bool :=
  match zb with | some b => decide (1000 * z < 8 * x.parN 0x31 * b) | none => decide (z < 16000000)
/-- z is more than p percent away from its baseline. -/
def beyond (p z b : Nat) : Bool := decide (p * b < 100 * (z - b) ∨ p * b < 100 * (b - z))

/-- A leg after a fast window: consecutive failing windows, and the BT from which its clearing rule has held. -/
def Leg.fast (g : Leg) (x : Chan) (bt : Nat) (zb : Option Nat) (z : Nat) (openToo : Bool) : Leg :=
  let past := match g.cls with | some .short => x.shortOver zb z | some .opened => x.openOver zb z | _ => false
  { g with
    failShort := if x.isShort zb z then g.failShort + 1 else 0
    failOpen := if openToo && x.isOpen zb z then g.failOpen + 1 else 0
    okFrom := if past then some (g.okFrom.getD bt) else none }

/-- NO_BASELINE, once for each leg judged without one (R296). -/
def noBaseline (s : State) (c : Nat) (b have' : Bool) : State :=
  let g := (s.chan c).leg b
  if have' || g.noBase then s
  else lineRec (s.setChan c ((s.chan c).setLeg b { g with noBase := true })) 13 2 0 (legNo c b) 0 0

/-- A fast window of a current-mode leg against baseline zb: SHORT on 3 windows, OPEN on 2, cleared after 5 s; at once where a baseline is new and the fault no longer holds. -/
def judgeLeg (s : State) (c : Nat) (b : Bool) (zb : Option Nat) (z : Nat) (openToo : Bool) : State :=
  let x := s.chan c
  let g := (x.leg b).fast x s.clk.bt zb z openToo
  let gone := match g.cls with | some .short => !x.isShort zb z | some .opened => !x.isOpen zb z | some .drift => !beyond (x.parN 0x35) z (zb.getD z) | _ => false
  let s := s.setChan c (x.setLeg b { g with fresh := false })
  let s := noBaseline s c b zb.isSome
  let base : Int := zb.getD 0
  let long := match g.okFrom with | some t => decide (t + 5 * secBt ≤ s.clk.bt) | none => false
  let s := if (g.fresh && gone) || long then clearLeg s c b z base else s
  if 3 ≤ g.failShort then raiseLeg s c b .short z base
  else if 2 ≤ g.failOpen then raiseLeg s c b .opened z base else s

/-- A slow window of a leg: DRIFT on 6 windows, cleared within 0.8 × drift for 6 (R297). -/
def judgeDrift (s : State) (c : Nat) (b : Bool) (z : Nat) : State :=
  let x := s.chan c
  match (x.leg b).zb with
  | none => s
  | some zb =>
    let g := { x.leg b with
      failDrift := if beyond (x.parN 0x35) z zb then (x.leg b).failDrift + 1 else 0
      okDrift := if decide (1000 * (z - zb) ≤ 8 * x.parN 0x35 * zb ∧ 1000 * (zb - z) ≤ 8 * x.parN 0x35 * zb) then (x.leg b).okDrift + 1 else 0 }
    let s := s.setChan c (x.setLeg b g)
    if g.cls = some .drift ∧ 6 ≤ g.okDrift then clearLeg s c b z zb
    else if 6 ≤ g.failDrift then raiseLeg s c b .drift z zb else s

/-! ### Faults of a channel -/

/-- LOOP_OPEN is raised: the B relay is energised, the A relay stays, and the changeover is reported, also on LB2 (R299). -/
def changeover (s : State) (c : Nat) (rho base : Int) : State :=
  let s := s.setChan c { s.chan c with loopOpen := true, failLoop := 0 }
  let s := lineRec s 3 0 1 c rho base
  lineRec (setRelay s c true true) 14 2 1 c rho base 0 true

/-- The return ratio of a window: LOOP_OPEN on 2 windows. -/
def judgeLoop (s : State) (c rho : Nat) : State :=
  let x := s.chan c
  let low := match x.legB.rhob with | some r => decide (100 * rho < x.parN 0x32 * r) | none => decide (10 * rho < 3 * 32768)
  let s := noBaseline (s.setChan c { x with failLoop := if low then x.failLoop + 1 else 0, legB := { x.legB with fresh := false } }) c true x.legB.rhob.isSome
  if 2 ≤ (s.chan c).failLoop then changeover s c rho (x.legB.rhob.getD 0) else s

/-- EARTH, on the windows of 1 s: raised on 5 below r_earth, cleared above twice that for 10 s (R297). A window that a discarded fast window or SENSE of stream E falls in counts for nothing (R295). -/
def judgeEarth (s : State) (c kOhm : Nat) (lost : Bool) : State :=
  let x := s.chan c
  let sec := s.mediaCycle / 48000
  let bad := x.earthBad || lost || !x.has 3
  if sec = x.earthWin then s.setChan c { x with earthBad := bad }
  else if bad then s.setChan c { x with earthWin := sec, earthBad := false }
  else
    let f := if kOhm < x.parN 0x33 then x.failEarth + 1 else 0
    let ok := if 2 * x.parN 0x33 < kOhm then some (x.earthOk.getD s.clk.bt) else none
    let s := s.setChan c { x with earthWin := sec, failEarth := f, earthOk := ok }
    if x.earth then
      (match ok with
       | some t => if t + 10 * secBt ≤ s.clk.bt then lineRec (s.setChan c { s.chan c with earth := false }) 4 1 1 c kOhm (x.par 0x33) else s
       | none => s)
    else if 5 ≤ f then lineRec (s.setChan c { s.chan c with earth := true }) 4 0 1 c kOhm (x.par 0x33) else s

/-- Stream j of channel c has been all 0 or all 1 for 100 µs, 614.4 bits at 6.144 Mb/s, as its decimator sees it (R297). -/
def State.streamStuck (s : State) (c j : Nat) : Bool :=
  match (s.chan c).pins with
  | some p =>
    let a := linkAt p.sense j
    decide (615 ≤ (((s.sheow.runs.get a.1 [])[a.2]?).getD (false, 0)).2)
  | none => false

/-- Streams in SENSE after a look at bt: the stuck ones, and those not active again for 1 s. -/
def Chan.senseNow (x : Chan) (stuck : Nat → Bool) (bt : Nat) : List (Nat × Option Nat) :=
  (List.range 4).filterMap fun i =>
    if stuck i then some (i, none)
    else match x.sense.find? fun e => e.1 == i with
      | some e => if e.2.getD bt + secBt ≤ bt then none else some (i, some (e.2.getD bt))
      | none => none

/-- SENSE: a stuck stream raises it at once and suspends the measurements that need it; it clears when every stream has been active for 1 s (R297). -/
def judgeSense (s : State) (c : Nat) (stuck : Nat → Bool) : State :=
  let x := s.chan c
  let now := x.senseNow stuck s.clk.bt
  let t := s.setChan c { x with sense := now }
  if x.sense = [] ∧ now ≠ [] then lineRec t 11 0 1 c 0 0
  else if x.sense ≠ [] ∧ now = [] then lineRec t 11 1 1 c 0 0 else t

/-! ### SUPERVISION_WINDOW (R295 to R300, R305) -/

/-- The window just ended is discarded: the channel is stopped, or restarted in it, or a relay change reaches into it (R291, R295). -/
def State.windowLost (s : State) (c : Nat) : Bool :=
  let x := s.chan c
  x.stopped || decide (s.clk.bt < x.blankBt + 2 * msBt) || (match x.rampFrom with | some b => decide (s.clk.bt < b + 2 * msBt) | none => false)

/-- The magnitude of an in-phase and a quadrature sum. -/
def mag (p : Int × Int) : Nat := isqrt (p.1 * p.1 + p.2 * p.2).toNat
/-- |V̂ ÷ Î| in mΩ of a voltage in mV and a current in µA, at most 2^31 − 1; so also without current (R295). -/
def zOf (v i : Int × Int) : Nat := if mag i = 0 then 2 ^ 31 - 1 else Nat.min (mag v * 1000000 / mag i) (2 ^ 31 - 1)
/-- The impedances of legs A and B, that of a loop fed from both ends, from the sum of both leg currents (R300), and the return ratio in Q15. -/
def measZ (m : LineMeas) (b : Bool) : Nat := zOf m.v (if b then m.b else m.a)
def measSum (m : LineMeas) : Nat := zOf m.v (m.a.1 + m.b.1, m.a.2 + m.b.2)
def measRho (m : LineMeas) : Nat := if mag m.v = 0 then (Config.control 9 [mag m.b]).toNat else mag m.b * 32768 / mag m.v

/-- The round in progress is a baseline round, which judges nothing (R296). -/
def State.baseRound (s : State) : Bool := match s.sheow.round with | some r => r.baseline | none => false

/-- The impedance of a leg, its voltage and current streams being there, is judged. -/
def judgeCur (s : State) (c : Nat) (b : Bool) (zb : Option Nat) (m : LineMeas) : State :=
  let x := s.chan c
  if x.has 0 && x.has (if b then 2 else 1) then judgeLeg s c b zb (measZ m b) true else s
/-- The return ratio of a loop likewise. -/
def judgeRet (s : State) (c : Nat) (m : LineMeas) : State :=
  if (s.chan c).has 0 && (s.chan c).has 2 then judgeLoop s c (measRho m) else s

/-- The legs of a channel in current mode, and the baselines they are judged against in a window of tone i of a round, or at pilot_f. A loop fed from both ends is judged for SHORT alone, on both currents (R300). -/
def judgeLegs (s : State) (c : Nat) (m : LineMeas) : State :=
  let x := s.chan c
  match x.tone with
  | none =>
    if x.loop && x.loopOpen then (if x.has 0 && x.has 1 && x.has 2 then judgeLeg s c false x.legA.zb (measSum m) false else s)
    else if x.loop then judgeRet (judgeCur s c false x.legA.zb m) c m
    else judgeCur (judgeCur s c false x.legA.zb m) c true x.legB.zb m
  | some (bfed, i) =>
    if i = 0 ∨ 9 < i ∨ s.baseRound then s
    else
      let zb (g : Leg) : Option Nat := g.sweep[i - 1]?
      if !x.loop then judgeCur (judgeCur s c false (zb x.legA) m) c true (zb x.legB) m
      else if bfed then judgeCur s c true (zb x.legB) m
      else judgeRet (judgeCur s c false (zb x.legA) m) c m

/-- A fault found in the A-fed configuration of a loop aborts its test (R305). -/
def roundFault (s s' : State) (c : Nat) : State :=
  let x := s.chan c
  let y := s'.chan c
  match x.tone with
  | some (false, _) =>
    if x.loop && (y.legA.cls != x.legA.cls && y.legA.cls.isSome || y.loopOpen && !x.loopOpen) then abortRound s' c else s'
  | _ => s'

/-- The slow window in progress takes a fast window; after 5,000 it ends and its legs are judged for DRIFT. A discarded fast window, a test, a loop fed from both ends or a suspended stream discards it (R295, R297). -/
def slowWindow (s : State) (c : Nat) (m : LineMeas) (lost : Bool) : State :=
  let x := s.chan c
  let add (p q : Int × Int) : Int × Int := (p.1 + q.1, p.2 + q.2)
  let bad := x.slowBad ||| (if lost || x.tone.isSome || (x.loop && x.loopOpen) || !x.has 0 then 3 else 0) ||| (if x.has 1 then 0 else 1) ||| (if x.has 2 then 0 else 2)
  let v := add x.slowV m.v
  let a := add x.slowA m.a
  let b := add x.slowB m.b
  if x.slowN < 4999 then s.setChan c { x with slowN := x.slowN + 1, slowBad := bad, slowV := v, slowA := a, slowB := b }
  else
    let s := s.setChan c { x with slowN := 0, slowBad := 0, slowV := (0, 0), slowA := (0, 0), slowB := (0, 0) }
    let s := if bad % 2 = 1 then s else judgeDrift s c false (zOf v a)
    if x.loop || decide (2 ≤ bad) then s else judgeDrift s c true (zOf v b)

/-- A fast window of channel c ends: one for each 96 cycles of the media clock (R295). -/
def supervise (s : State) (c : Nat) (m : LineMeas) : State :=
  let s := settle (gridStep s) c
  let w := s.mediaCycle / 96
  if !(s.chan c).enabled || !s.serviceRuns 7 || (s.chan c).fastWin == some w then s
  else
    let s := judgeSense s c fun i => m.stuck.testBit i || s.streamStuck c i
    let lost := s.windowLost c
    let s := s.setChan c { s.chan c with fastWin := some w }
    let s := slowWindow s c m lost
    let s := if lost then s else roundFault s (judgeLegs s c m) c
    judgeEarth s c m.insul lost
def execSupervisionWindow (ch : Nat) (m : LineMeas) (s : State) : Out := .next (supervise s ch m)

end Sys2Proof.Machine
end

