-- ==== Sys2Proof/Machine/PluginEv.lean ====
section
/-! DEFINITION. Plug-in system calls, slices, stops and restarts (R359 to R361, Table 12.9). -/
namespace Sys2Proof.Machine

def State.plugin (s : State) (p : Nat) : Option Plugin := s.sheow.plugins.get p none
def State.setPlugin (s : State) (p : Nat) (x : Plugin) : State :=
  { s with sheow := { s.sheow with plugins := s.sheow.plugins.set p (some x) none } }

/-- Results of Table 12.9: not permitted, out of range, busy. -/
def piDenied : W32 := BitVec.ofInt 32 (-1)
def piRange : W32 := BitVec.ofInt 32 (-2)
def piBusy : W32 := BitVec.ofInt 32 (-3)

/-- The agent identity of the hart plug-ins run on (R338). -/
def State.piAgent (s : State) : BitVec 13 := if s.straps.pmTwin then agentId .pmA else agentId .pmB

/-- A system call of plug-in p, which runs. -/
def piCall (s : State) (p : Nat) (f : Plugin → State) : State :=
  match s.plugin p with
  | some x => if s.shUp && x.state == .ready then f x else s
  | none => s

/-- The next plug-in in round-robin order after p (R359). -/
def nextTurn (s : State) (p : Nat) : State :=
  let ids := s.sheow.plugins.map (·.1)
  let n := match ids.find? fun i => decide (p < i) with | some i => i | none => ids.headD 0
  { s with sheow := { s.sheow with plTurn := n } }

/-- PI_SLEEP: 1 to 1,000,000 µs; the rest of the slice is given up. -/
def execPiSleep (p : Nat) (us : W32) (s : State) : Out :=
  .next (piCall s p fun x =>
    if 1 ≤ us.toNat ∧ us.toNat ≤ 1000000 then nextTurn (s.setPlugin p { x with state := .sleeping (s.clk.bt + us.toNat * 9600) }) p
    else s.setPlugin p { x with a0 := piRange })

/-- PI_SLEEP_END: the result is 0, no earlier than the time asked for. -/
def execPiSleepEnd (p : Nat) (s : State) : Out :=
  .next (match s.plugin p with
    | some x => match x.state with
      | .sleeping t => if s.shUp ∧ t ≤ s.clk.bt then s.setPlugin p { x with state := .ready, a0 := 0 } else s
      | _ => s
    | none => s)

/-- PI_YIELD. -/
def execPiYield (p : Nat) (s : State) : Out := .next (piCall s p fun x => nextTurn (s.setPlugin p { x with a0 := 0 }) p)

/-- PI_WINDOW. -/
def execPiWindow (p : Nat) (i : W32) (s : State) : Out :=
  .next (piCall s p fun x =>
    match x.windows[i.toNat]? with
    | some w => if w.2.2 = 0 then s.setPlugin p { x with a0 := piRange }
      else s.setPlugin p { x with a0 := BitVec.ofNat 32 w.1, a1 := BitVec.ofNat 32 w.2.2 }
    | none => s.setPlugin p { x with a0 := piRange })

/-- The word address lies inside a window of the plug-in. -/
def Plugin.inWindow (x : Plugin) (a : Nat) : Bool := x.windows.any fun w => decide (w.1 ≤ a ∧ a < w.1 + w.2.2)

/-- One attempt at the seal at a for plug-in p; without try a held seal is waited for. -/
def piAcquire (s : State) (p : Nat) (x : Plugin) (a : Nat) (try' : Bool) : State :=
  match acquire s a s.piAgent with
  | (s', .granted w) => s'.setPlugin p { x with state := .ready, a0 := w.setWidth 32 }
  | (s', _) => if try' then s'.setPlugin p { x with state := .ready, a0 := piBusy } else nextTurn (s'.setPlugin p { x with state := .sealWait a }) p

/-- PI_SEAL_ACQ; for a plug-in that waits for the same seal, a new attempt in its turn. -/
def execPiSealAcq (p : Nat) (addr : W32) (try' : Bool) (s : State) : Out :=
  .next (match s.plugin p with
    | some x =>
      if !s.shUp then s
      else if x.state = .ready then
        if x.inWindow addr.toNat then piAcquire s p x addr.toNat try' else s.setPlugin p { x with a0 := piRange }
      else if x.state = .sealWait addr.toNat then piAcquire s p x addr.toNat false
      else s
    | none => s)

/-- PI_SEAL_REL. -/
def execPiSealRel (p : Nat) (addr : W32) (s : State) : Out :=
  .next (piCall s p fun x =>
    let r := release s addr.toNat s.piAgent
    r.1.setPlugin p { x with a0 := if r.2 then 0 else piDenied })

/-- PI_ALARM: as ZONE ALARM; outside RUN it is not permitted, and a held block seal makes it busy. -/
def execPiAlarm (p : Nat) (start : W32) (msg : W32) (s : State) : Out :=
  .next (piCall s p fun x =>
    if 1 < start.toNat ∨ 65535 < msg.toNat then s.setPlugin p { x with a0 := piRange }
    else if s.sheow.state ≠ .run then s.setPlugin p { x with a0 := piDenied }
    else if !s.blocksFree (if start = 1 then s.mapped else s.taken) then s.setPlugin p { x with a0 := piBusy }
    else
      let r := if start = 1 then startAlarm s msg.toNat else stopAlarm s
      zoneReports (r.1.setPlugin p { x with a0 := r.2.headD 0 }))

/-- PI_SLICE_END: preempted; it keeps its state and waits for its next turn. -/
def execPiSliceEnd (p : Nat) (s : State) : Out := .next (piCall s p fun _ => nextTurn s p)

/-- PLUGIN_STOP: an exception; the third within 60 s is final (R361). Its seals stay held. -/
def execPluginStop (p : Nat) (s : State) : Out :=
  .next (piCall s p fun x =>
    let ts := s.clk.bt :: x.stops.filter fun t => decide (s.clk.bt < t + 60 * secBt)
    nextTurn (s.setPlugin p { x with state := if 3 ≤ ts.length then .dead else .stopped s.clk.bt, stops := ts }) p)

/-- PLUGIN_RESTART: after 1 s, from its entry, data and stack reloaded (R361). -/
def execPluginRestart (p : Nat) (s : State) : Out :=
  .next (match s.plugin p with
    | some x => match x.state with
      | .stopped t => if s.shUp ∧ t + secBt ≤ s.clk.bt then loadPlugin s p x else s
      | _ => s
    | none => s)

end Sys2Proof.Machine
end

