-- ==== Sys2Proof/Machine/RoundEv.lean ====
section
/-! DEFINITION. The night round: its start, the steps of Table 10.5, retries and its end (R301 to R305). -/
namespace Sys2Proof.Machine

/-- Channel c can be tested now: it is not stopped, its zone has had no active slot for idle_min, and the loop is not fed from both ends (R291, R300, R301). -/
def State.testable (s : State) (r : Round) (c : Nat) : Bool :=
  let x := s.chan c
  let z := s.zone x.zone
  x.enabled && !x.stopped && !x.loopOpen && !z.anyActive && decide (z.idleFrom + r.idle * secBt ≤ s.clk.bt)

/-- Sheow tries channel c: its test starts with the settle step, or it waits 60 s (R301). -/
def tryTest (s : State) (c : Nat) : State :=
  match s.sheow.round with
  | some r => s.setChan c { s.chan c with round := some (if s.testable r c then .testing false 0 (s.clk.bt + stepBt 0) else .waiting s.clk.bt) }
  | none => s

def Chan.testing (x : Chan) : Bool := match x.round with | some (.testing _ _ _) => true | _ => false

/-- While no channel of the group under test is testing, the next group begins; after the last, the round is over once every channel is done. -/
def nextGroup : Nat → State → State
  | 0, s => s
  | n + 1, s =>
    match s.sheow.round with
    | none => s
    | some r =>
      if !r.active || ((r.groups[r.group]?.getD []).any fun c => (s.chan c).testing) then s
      else if r.group + 1 < r.groups.length then
        let s := { s with sheow := { s.sheow with round := some { r with group := r.group + 1 } } }
        nextGroup n ((r.groups[r.group + 1]?.getD []).foldl tryTest s)
      else if s.untested r = [] then closeRound s false else s

/-- NIGHT_ROUND_START (R301): the first group begins. -/
def roundStart (s : State) : State :=
  match s.sheow.round with
  | some r =>
    if r.active || !decide (r.start ≤ s.clk.bt ∧ s.clk.bt < r.stop) || !s.serviceRuns 7 then s
    else
      let s := { s with sheow := { s.sheow with round := some { r with active := true, group := 0 } } }
      nextGroup 16 ((r.groups[0]?.getD []).foldl tryTest s)
  | none => s
def execNightRoundStart (s : State) : Out := .next (roundStart s)

/-- The legs that a configuration tests: both of a SPUR, the fed end of a LOOP (R302). -/
def Chan.testLegs (x : Chan) (bfed : Bool) : List Bool := if x.loop then [bfed] else [false, true]

/-- The streams that leg b of a channel is measured on are there. -/
def Chan.hasLeg (x : Chan) (b : Bool) : Bool := x.has 0 && x.has (if b then 2 else 1)

/-- A tone has ended: SHORT, OPEN and LOOP_OPEN on its measurement, which spans more windows than any of them needs (R305). -/
def judgeTone (s : State) (c : Nat) (bfed : Bool) (i : Nat) (m : LineMeas) : State :=
  let s' := (s.chan c).testLegs bfed |>.foldl (fun s b =>
    let x := s.chan c
    let z := measZ m b
    let zb := (x.leg b).sweep[i - 1]?
    if !x.hasLeg b then s
    else if x.isShort zb z then raiseLeg s c b .short z (zb.getD 0)
    else if x.isOpen zb z then raiseLeg s c b .opened z (zb.getD 0) else s) s
  let x := s'.chan c
  let low := match x.legB.rhob with | some r => decide (100 * measRho m < x.parN 0x32 * r) | none => decide (10 * measRho m < 3 * 32768)
  let s' := if x.loop && !bfed && x.hasLeg true && low then changeover s' c (measRho m) (x.legB.rhob.getD 0) else s'
  roundFault s s' c

/-- DRIFT and REVERSED of one leg on its sweep and DC results (Table 10.3). -/
def judgeSweep (s : State) (c : Nat) (b : Bool) (zs : List Nat) (ip in' : Nat) : State :=
  let x := s.chan c
  let g := x.leg b
  let worst := zs.zip g.sweep |>.find? fun p => beyond (x.parN 0x36) p.1 p.2
  let s := match g.sweep, worst with
    | [], _ => s
    | _, some p => raiseLeg s c b .drift p.1 p.2
    | _, none => if g.cls = some .drift then clearLeg s c b (zs.headD 0) (g.sweep.headD 0) else s
  match g.dc with
  | none => s
  | some d =>
    if x.parN 0x34 * ip < 10 * in' ∧ 3 * d.1 ≤ 10 * in' then raiseLeg s c b .reversed in' d.2
    else if ((s.chan c).leg b).cls = some .reversed then clearLeg s c b in' d.2 else s

/-- The results of one leg: the sweep points with their numbers, then I+ and I− with the round group (R305, R310, R332). -/
def reportSweep (s : State) (c : Nat) (b : Bool) (zs : List Nat) (ip in' group : Nat) : State :=
  let g := (s.chan c).leg b
  let s := zs.zipIdx.foldl (fun s p => lineRec s 15 2 0 (legNo c b) p.1 ((g.sweep[p.2]?.getD 0 : Nat) : Int) p.2) s
  let d := g.dc.getD (0, 0)
  lineRec (lineRec s 15 2 0 (legNo c b) ip d.1 group) 15 2 0 (legNo c b) in' d.2 group

/-- The end of a feed configuration: every leg under test whose streams are there is judged, but not in a baseline round, and reported. -/
def endConfig (s : State) (c : Nat) (bfed : Bool) (m : LineMeas) (r : Round) : State :=
  (s.chan c).testLegs bfed |>.foldl (fun s b =>
    let zs := if b then m.sweep.drop 9 else m.sweep.take 9
    let ip := if b then m.iPosB else m.iPos
    let in' := if b then m.iNegB else m.iNeg
    if !(s.chan c).hasLeg b then s
    else reportSweep (if r.baseline then s else judgeSweep s c b zs ip in') c b zs ip in' r.group) s

/-- Both relays are in their normal state. -/
def Chan.relaysNormal (x : Chan) : Bool := x.legA.relay == x.normalRelay false && x.legB.relay == x.normalRelay true

def setTest (s : State) (c : Nat) (x : RoundCh) : State := s.setChan c { s.chan c with round := some x }

/-- ROUND_STEP: the step in progress has ended with the measurements m, and the next begins; the test of a channel that has stopped ends (R291, R302). A SPUR channel whose relays must follow a fault found waits for it like a loop. -/
def stepRound (s : State) (c : Nat) (m : LineMeas) : State :=
  let s := settle s c
  match (s.chan c).round, s.sheow.round with
  | some (.testing bfed i nxt), some r =>
    if s.clk.bt < nxt ∨ !s.serviceRuns 7 then s
    else if (s.chan c).stopped then nextGroup 16 (abortRound s c)
    else
      let go (s : State) : State := setTest s c (.testing bfed (i + 1) (nxt + stepBt (i + 1)))
      if 1 ≤ i ∧ i ≤ 9 then
        let t := if r.baseline then s else judgeTone s c bfed i m
        nextGroup 16 (if (t.chan c).testing then go t else t)
      else if i = 14 then
        let t := endConfig s c bfed m r
        if (t.chan c).loop || !(t.chan c).relaysNormal then go t else nextGroup 16 (setTest t c .done)
      else if i = 15 then
        if !(s.chan c).loop then nextGroup 16 (normalRelays (setTest s c .done) c)
        else if bfed then normalRelays (go s) c else setRelay (setRelay (go s) c false true) c true true
      else if i = 16 then
        if bfed then nextGroup 16 (setTest s c .done) else setTest s c (.testing true 0 (nxt + stepBt 0))
      else go s
  | _, _ => s
def execRoundStep (ch : Nat) (m : LineMeas) (s : State) : Out := .next (stepRound s ch m)

/-- ROUND_RETRY (R301): 60 s after the last try. -/
def execRoundRetry (ch : Nat) (s : State) : Out :=
  .next (match (s.chan ch).round, s.sheow.round with
    | some (.waiting b), some r => if b + 60 * secBt ≤ s.clk.bt ∧ s.clk.bt < r.stop ∧ s.serviceRuns 7 then tryTest s ch else s
    | _, _ => s)

/-- ROUND_END (R301): the end time has come. -/
def execRoundEnd (s : State) : Out :=
  .next (match s.sheow.round with
    | some r => if r.stop ≤ s.clk.bt then closeRound s true else s
    | none => s)

end Sys2Proof.Machine
end

