-- ==== Sys2Proof/Machine/SheowEv.lean ====
section
/-! DEFINITION. What Sheow does by itself: the PTP servo, takeovers, restarts after ECC faults; and the host's changes of clock (R253, R254, R390, R391, R395, R429, R431). -/
namespace Sys2Proof.Machine

/-! ### The PTP servo (R253, R254) -/

def State.setServo (s : State) (v : Servo) : State := { s with sheow := { s.sheow with servo := v } }

/-- BT of the Sync interval of logarithm l; 1 s before the first Sync. -/
def syncBt (l : Int) : Nat := secBt / 2 ^ (-l).toNat


/-- Load the grandmaster time gm in ns. -/
def loadGm (s : State) (gm : Nat) : State :=
  loadTime { s with pmk := { s.pmk with setSec := BitVec.ofNat 48 (gm / 1000000000), setNs := BitVec.ofNat 30 (gm % 1000000000) } }

/-- Disable PMK3 and PMK4, load the time, enable them again. -/
def reloadPtp (s : State) (gm : Nat) : State :=
  let off (s : State) (k : Nat) : State := writeCfg s k (clrBit (s.ref k).cfg 31)
  let on (s : State) (k : Nat) : State := writeCfg s k (setBit (s.ref k).cfg 31)
  on (on (loadGm (off (off s 3) 4) gm) 3) 4

/-- The time correction that a Sync of offset o calls for: a load, a reload beyond 1 s while a reference is valid, else a step, as large as the register holds. -/
def correct (s : State) (o : Int) (gm : Nat) : State :=
  let valid := s.refValid 3 || s.refValid 4
  if !valid && !s.sheow.servo.loaded then (loadGm s gm).setServo { s.sheow.servo with loaded := true }
  else if valid && decide (1000000000 < o.natAbs) then reloadPtp s gm
  else if 50000 < o.natAbs then applyStep { s with pmk := { s.pmk with step := BitVec.ofInt 32 (clampI (-2 ^ 31) (2 ^ 31 - 1) (-o)) } }
  else s

/-- The lane of the servo's active path (R253). -/
def Servo.path (v : Servo) : Nat := if v.pairUsed then 2 * v.pair + b2n v.activeB else v.lane

/-- The Delay_Req of sequence number q: the template with it at byte 30 of the PTP header, and no UDP checksum over IPv4. -/
def reqFrame (t : List Byte) (q : Word) : List Byte :=
  match ptpHeader t with
  | some (h, tr) => putBytes (if tr = 1 then putBytes t (h - 2) [0, 0] else t) (h + 30) (netBytes q.toNat 2)
  | none => t

/-- Delay_Req, the template with its sequence number, is posted on the servo's transmit queue, timestamped, on the active path (R253). -/
def delayReq (s : State) : State :=
  let v := s.sheow.servo
  let t := s.xch.mem.bytes (2 * v.tmpl) v.tmplLen
  if v.tmplLen = 0 || !s.queueRoom v.path v.queue then s
  else match s.framePlace ((v.tmplLen + 1) / 2) with
    | none => s
    | some a =>
      let s := (xputs s pmCode (agentId .pmA) a (bytesWords (reqFrame t v.reqSeq))).tick1
      (postFrame s pmCode (agentId .pmA) v.path v.queue a v.tmplLen none (2 ^ 23)).setServo { v with reqSeq := v.reqSeq + 1 }

/-- PTP_SYNC: a Sync with header h on the active path with the offset it measures in ns, and the grandmaster's time. Another domain and intervals outside 2^-7 to 1 s are not accepted. The law of the rate is not stated; each accepted Sync is followed by a Delay_Req. -/
def ptpSync (s : State) (o : Int) (gm : Nat) (h : PtpHead) : State :=
  let v := s.sheow.servo
  let l := h.logInterval
  if !v.en || !s.shUp || h.dom != v.dom || decide (l < -7 ∨ 0 < l) then s
  else
    let s := if l = v.logInt then s else { s with pmk := { s.pmk with wdog := BitVec.ofNat 16 (wdogOf l) } }
    let hold := (s.ref 3).state == .holdover || (s.ref 4).state == .holdover
    let n := if o.natAbs ≤ 1000 then v.inRange + 1 else 0
    let s := s.setServo { v with logInt := l, lastSync := s.clk.bt, offset := o, silent := false, inRange := n, loaded := v.loaded && !(s.refValid 3 || s.refValid 4) }
    let s := rateWrite (correct s o gm) (BitVec.ofInt 32 (Config.control 7 [o, s.pmk.rate.toInt]))
    let locked := (s.ref 3).state == .locked && (s.ref 4).state == .locked
    delayReq (if !locked && (decide (16 ≤ n) || (hold && decide (1 ≤ n))) then markLocked s else s)
def execPtpSync (offset : Int) (gm : Nat) (h : PtpHead) (s : State) : Out := .next (ptpSync s offset gm h)

/-- PTP_ANNOUNCE_TIMEOUT: the servo stops writing until a Sync comes; the next master's time is loaded anew (R254). -/
def execPtpAnnounceTimeout (s : State) : Out :=
  let v := s.sheow.servo
  .next (if v.en && s.shUp then s.setServo { v with silent := true, loaded := false, inRange := 0 } else s)

/-- PTP_PATH_SWITCH: no Sync for 2 intervals on one lane of a PRP pair (R253). -/
def execPtpPathSwitch (s : State) : Out :=
  let v := s.sheow.servo
  .next (if v.en && v.pairUsed && s.shUp && decide (v.lastSync + 2 * syncBt v.logInt ≤ s.clk.bt) then
    s.setServo { v with activeB := !v.activeB, lastSync := s.clk.bt } else s)

/-! ### TAKEOVER_RESPONSE (R96, R390, R391) -/

/-- A free spare that can take over depot d, in ascending order. -/
def State.spareFor (s : State) (d : Nat) : Option Nat :=
  (List.range s.nDep).find? fun k => bitAt s.sheow.spares k && !bitAt s.sheow.failed k && s.xferOk d k

/-- Sheow answers a stall, a block stall or a twin mismatch of depot d: the event letters, then a takeover to a spare; without a spare for a mismatch, IRQ_SAFE.sw. -/
def respond (s : State) (d : Nat) : State :=
  let f := (s.dep d).fstat
  let stall := bitAt f 1
  let bstall := bitAt f 2
  let mm := bitAt f 6
  if !(stall || bstall || mm) then { s with sheow := { s.sheow with told := clrBit s.sheow.told d } }
  else if bitAt s.sheow.told d then s
  else
    let s := { s with sheow := { s.sheow with told := setBit s.sheow.told d } }
    let s := if mm then devent s d 3 ((s.dep d).twinPair.setWidth 32) else s
    let s := if stall then devent s d 1 0 else s
    let s := if bstall then devent s d 2 0 else s
    if !(stall || mm) || s.sheow.moves.any (fun m => m.f == d) then s
    else match s.spareFor d with
      | some k => startMove s d k
      | none => if mm && !bitAt s.sheow.failed d then s.safeEvt 8 else s

/-- TAKEOVER_RESPONSE: a move of depot d that is done is finished, one that ended otherwise is dropped; then new events are answered. -/
def takeover (s : State) (d : Nat) : State :=
  if !s.shUp || decide (s.nDep ≤ d) then s
  else
    let s := match s.sheow.moves.find? fun m => m.f == d with
      | some m => if (s.dep d).xfer.phase = .done then finishMove s m else if m.failed s then dropMove s m else s
      | none => s
    respond s d
def execTakeoverResponse (d : Nat) (s : State) : Out := .next (takeover s d)

/-- THREAD_ECC_RESTART (R395): a library thread faulted by an ECC error starts again. -/
def execThreadEccRestart (t : Tid) (s : State) : Out :=
  let h := s.thr t
  .next (if s.shUp ∧ s.library t ∧ h.state = .faulted ∧ (h.tfault = .eccData ∨ h.tfault = .eccCode ∨ h.tfault = .eccXch) then restartLib s t else s)

/-! ### CLOCK_CHANGE (R10, R64, R429, R431) -/

/-- clk_stop_ok_o: in Hold with no wake under way (R431). -/
def State.clkStopOk (s : State) : Bool := s.pwr.state == .hold && s.pwr.retention

/-- Table 16.3 allows clock c to take frequency hz now. -/
def State.clockOk (s : State) (c : ClockName) (hz : Nat) : Bool :=
  let r (lo hi : Nat) : Bool := decide (lo ≤ hz ∧ hz ≤ hi)
  let stop := decide (hz = 0) && s.clkStopOk
  match c with
  | .eclk => r 100000000 1200000000 || stop
  | .fclk => r 100000000 600000000 || stop
  | .pclk => r 50000000 1000000000 || stop
  | .hclk => r 100000000 800000000

/-- CLOCK_CHANGE: a change the contract forbids is a fault of the host; otherwise the clock runs on at its new frequency and the admission checks are made again (R279). -/
def execClockChange (c : ClockName) (hz : Nat) (s : State) : Out :=
  if !s.clockOk c hz then .fault .clockContract
  else
    let k := s.clk
    .next (readmit { s with clk := match c with
      | .eclk => { k with eHz := hz }
      | .fclk => { k with fHz := hz }
      | .pclk => { k with pHz := hz }
      | .hclk => { k with hHz := hz } })

end Sys2Proof.Machine
end

