-- ==== Sys2Proof/Machine/SupplyEv.lean ====
section
/-! DEFINITION. The power threads of the supplies, and the records that wait (R306 to R311). The gains of the two loops are not stated: their outputs are values of Config.control. -/
namespace Sys2Proof.Machine

/-- The PFC stage runs: on mains, or returning once the PFC has started (R309). -/
def Supply.pfcOn (x : Supply) : Bool := x.state == .mains || (x.state == .returning && x.retStep == 2)

/-- i_lim in mA with the boost of a sag and the ramp of 200 ms after a return (R307, R309). -/
def Supply.limit (x : Supply) (bt : Nat) : Int :=
  let l := if x.sag then x.par 0x44 * x.par 0x43 / 100 else x.par 0x43
  if x.retStep = 2 ∧ bt < x.retBt + 200 * msBt then l * ((bt : Int) - x.retBt) / (200 * msBt) else l

/-! ### PFC (R306) -/

/-- |sin θ| of the tracker in Q15; 0 in the flywheel half-cycle of a MISS and during a backward hold (R306, R307, R40). -/
def State.sinAbs (s : State) (x : Supply) : Int :=
  let r := s.ref x.phase
  if x.missed || decide (s.clk.bt < r.b) then 0 else (sinQ15 (s.posAt x.phase s.clk.bt % 65536) 65536).natAbs

/-- Gate edges of the fixed switching periods, of T BT and counted from BT 0, that begin before BT `upto`: high for the duty from the start of each (R306). -/
def postPfc (t : Tid) (g T duty upto : Nat) : Nat → Nat × State → Nat × State
  | 0, r => r
  | n + 1, (p, s) =>
    if upto ≤ p * T ∨ 2 < (s.pin g).eq.length + (s.pin g).eqX.length then (p, s)
    else
      let a := BitVec.ofNat 64 (p * T)
      postPfc t g T duty upto n (p + 1, if duty = 0 then s else postEdge (postEdge s t g a true) t g (a + BitVec.ofNat 64 (duty * T / 65536)) false)

/-- PFC_CURRENT_STEP: the current loop on inductor current and bus voltage; its duty acts from the next switching period. -/
def pfcStep (s : State) (k : Nat) (iL vBus : Int) : State :=
  let s := settleSupply s k
  let x := s.supply k
  match s.powThread k, x.pins with
  | some t, some p =>
    if !x.pfcOn then s.setSupply k { x with vBus := vBus }
    else
      let e := x.iv * s.sinAbs x / 32768 - iL
      let duty := (clampI 0 65535 (Config.control 3 [x.curLoop, e])).toNat
      let T := (roundHalfUp secBt (max 1 (x.parN 0x41))).toNat
      let r := postPfc t p.gate T duty (s.clk.bt + 9600 + 200000) 4 (max x.lastPer ((s.clk.bt + 9600) / T + 1), s)
      r.2.setSupply k { x with vBus := vBus, curLoop := Config.control 2 [x.curLoop, e], duty := duty, lastPer := r.1 }
  | _, _ => s
def execPfcCurrentStep (k : Nat) (iL vBus : Int) (s : State) : Out := .next (pfcStep s k iL vBus)

/-- The input peak in 0.1 V of a supply on the tracker of its phase: how a board scales the tracker's level is not stated. -/
def State.inputPeak (s : State) (x : Supply) : Int := Config.control 8 [x.phase, (s.ref x.phase).rms.toNat]
/-- The bus setpoint in 0.1 V; during a swell it is up to 10 % higher, by an amount that is not stated, while the input peak is within 5 % of v_bus (R307). -/
def State.setpoint (s : State) (x : Supply) : Int :=
  x.par 0x42 + (if x.swell && decide (20 * (s.inputPeak x - x.par 0x42).natAbs ≤ x.parN 0x42) then clampI 0 (x.par 0x42 / 10) (Config.control 4 [x.par 0x42, s.free]) else 0)

/-- PFC_VOLTAGE_UPDATE: at a half-cycle crossing of the tracker the voltage loop gives I_v, within i_lim; a flywheel half-cycle ends, and a sag or swell that is over. -/
def pfcVolt (s : State) (k : Nat) (vBus : Int) : State :=
  let s := settleSupply s k
  let x := s.supply k
  let r := s.ref x.phase
  match s.powThread k with
  | some _ =>
    if !r.state.valid then s
    else
      let x := { x with sag := x.sag && r.sagged, swell := x.swell && r.swelled, missed := false, vBus := vBus }
      let e := s.setpoint x - vBus
      s.setSupply k { x with iv := clampI 0 (x.limit s.clk.bt) (Config.control 5 [x.voltLoop, e]), voltLoop := Config.control 6 [x.voltLoop, e] }
  | none => s
def execPfcVoltageUpdate (k : Nat) (vBus : Int) (s : State) : Out := .next (pfcVolt s k vBus)

/-! ### Mains events (R307, R309) -/

/-- MAINS_EVENT_RESPONSE: ev is the event bit of the tracker (Tables 2.11, 10.7). LOCK starts the return timer as RESTORED does: a supply that PMK TRACKER sent to the battery returns once the tracker is LOCKED again (R382; DEDUCED). -/
def mainsEvent (s : State) (k : Nat) (ev : Fin 10) : State :=
  let x := s.supply k
  match s.powThread k with
  | none => s
  | some _ =>
    match ev.val with
    | 1 => disturb (s.setSupply k { x with sag := true }) k false
    | 2 => s.setSupply k { x with swell := true }
    | 4 => disturb s k false
    | 5 => disturb (s.setSupply k { x with missed := true }) k false
    | 6 | 7 => lossOf s k
    | 0 | 8 => if x.state = .battery then s.setSupply k { x with stableFrom := some s.clk.bt } else s
    | _ => s
def execMainsEventResponse (k : Nat) (ev : Fin 10) (s : State) : Out := .next (mainsEvent s k ev)

/-- BATTERY_CHANGEOVER (R308): two consecutive samples of the bus, in 0.1 V, below v_batt_on. -/
def batteryOn (s : State) (k v0 v1 : Nat) : State :=
  let s := settleSupply s k
  let x := s.supply k
  let low (v : Nat) : Bool := decide (100 * (v : Int) < x.par 0x45 * x.par 0x42)
  match s.powThread k with
  | some _ => if low v0 && low v1 && x.state == .mains then toBattery (s.setSupply k { x with vBus := v1 }) k else s
  | none => s
def execBatteryChangeover (k v0 v1 : Nat) (s : State) : Out := .next (batteryOn s k v0 v1)

/-- BT of the positive-going zero crossing of tracker q that n more come before. -/
def State.zeroAfter (s : State) (q n : Nat) : Nat :=
  match s.convert (BitVec.ofNat 48 (q * 2 ^ 45 + (s.posAt q s.clk.bt / 65536 + 1 + n) % 2 ^ 29 * 65536)) with
  | .ok t => t.toNat
  | _ => s.clk.bt
/-- The first such crossing whose edge, posted a coil lead earlier, can still be posted (R309). -/
def State.nextZero (s : State) (q lead : Nat) : Nat :=
  ((List.range 100).map (s.zeroAfter q)).find? (fun z => decide (s.clk.bt + 9600 + lead ≤ z)) |>.getD (max (s.clk.bt + 9600 + lead) (s.zeroAfter q 100))

/-- BT of four cycles of tracker q. -/
def State.fourCycles (s : State) (q : Nat) : Nat := 4 * secBt * 2 ^ 32 / max 1 (s.ref q).freq

/-- Bus voltage within 2 % of the setpoint. -/
def Supply.nearBus (x : Supply) (v : Nat) : Bool := decide (50 * ((v : Int) - x.par 0x42).natAbs ≤ x.parN 0x42)

/-- MAINS_RETURN: the next step of R309. The coil lead of the relay is not stated. -/
def mainsBack (s : State) (k vBus : Nat) : State :=
  let s := settleSupply s k
  let x := { s.supply k with vBus := (vBus : Int) }
  match s.powThread k, x.pins with
  | some t, some p =>
    if x.state = .battery then
      match x.stableFrom with
      | some b =>
        if b + x.parN 0x46 * secBt ≤ s.clk.bt ∧ (s.ref x.phase).state = .locked then
          let lead := Config.choice k % secBt
          let z := s.nextZero x.phase lead
          let at' := max (s.clk.bt + 9600) (z - lead)
          let s := if (s.pin (fld p.relay 0 10)).eqFull then s else postEdge s t (fld p.relay 0 10) (BitVec.ofNat 64 at') true
          s.setSupply k { x with state := .returning, relay := true, retStep := 1, retBt := z, busOk := none }
        else s.setSupply k x
      | none => s.setSupply k x
    else if x.state = .returning ∧ x.retStep = 1 then
      (if x.retBt + s.fourCycles x.phase ≤ s.clk.bt then s.setSupply k { x with retStep := 2, retBt := s.clk.bt, iv := 0, curLoop := 0, voltLoop := 0 } else s.setSupply k x)
    else if x.state = .returning then
      let ok := if x.nearBus vBus then some (x.busOk.getD s.clk.bt) else none
      let y := { x with busOk := ok }
      (match ok with
       | some b =>
         if b + secBt ≤ s.clk.bt then
           let s := edgeNow s (some t) p.batt false
           powerRec (s.setSupply k { y with state := .mains, batt := false, retStep := 0, busOk := none, stableFrom := none }) 19 2 k vBus (x.par 0x42)
         else s.setSupply k y
       | none => s.setSupply k y)
    else s.setSupply k x
  | _, _ => s
def execMainsReturn (k vBus : Nat) (s : State) : Out := .next (mainsBack s k vBus)

/-! ### RECORD_FLUSH (R311) -/

/-- Send the held records in order, each where no earlier one of its unit and letterbox still waits and there is room; the rest stay. -/
def sendHeld : List Rec → State → State
  | [], s => s
  | r :: rs, s =>
    let waits := s.sheow.records.any fun q => q.unitKind == r.unitKind && q.unit == r.unit && q.box == r.box
    if !waits && s.recRoom r then
      sendHeld rs (postRec { s with sheow := { s.sheow with sentNow := if r.kind < 2 then r.key :: s.sheow.sentNow else s.sheow.sentNow } } r)
    else sendHeld rs { s with sheow := { s.sheow with records := s.sheow.records ++ [r] } }

/-- RECORD_FLUSH: at the end of a second the held records go out and those discarded are logged. -/
def recordFlush (s : State) : State :=
  let sec := s.clk.bt / secBt
  if !s.shUp || decide (sec ≤ s.sheow.flushSec) then s
  else
    let held := s.sheow.records
    let n := s.sheow.recDropped
    let s := if n = 0 then s else logRec s (dlEntry s 9 2 0 [] n)
    sendHeld held { s with sheow := { s.sheow with records := [], recDropped := 0, sentNow := [], flushSec := sec } }
def execRecordFlush (s : State) : Out := .next (recordFlush s)

end Sys2Proof.Machine
end

