-- ==== Sys2Proof/Machine/ZoneLetters.lean ====
section
/-! DEFINITION. The ZONE and STREAM letters (R261 to R264, R270, R272, R273, R276, R279, R281, R325, R330, Tables 8.5, 9.3, 11.8). -/
namespace Sys2Proof.Machine

/-! ### ZPARAM, EQ, EVAC_MAP -/

/-- Zone z gets the delay of its parameters: a ring that fits it, at once where no thread serves the zone. -/
def newDelay (s : State) (z : Nat) : State :=
  let s := sizeRing s z (s.zone z).delay
  if s.threadsOf [z] = [] then moveRing s z s.mediaCycle else s

/-- After a change of zone z: its thread still admits it, else E_CAPACITY (R279). -/
def checkZone (s0 s : State) (z : Nat) (k : State → State × LRes) : State × LRes :=
  let r := joinThread s z
  if r.2 = 0 then k r.1 else bad s0 .capacity 0xFFFF r.2

/-- ZONE ZPARAM: zone parameters. -/
def zparam (s : State) (l : Letter) : State × LRes :=
  let z := fld (l.b 0) 0 10
  let ws := l.body.drop 1
  let x := s.zone z
  if l.body = [] then bad0 s .len else
  match badRec 1 0x0F ws with
  | some i => bad s .range (i + 1)
  | none =>
    let y := { x with params := setRecs x.params ws }
    if (List.range 8).any fun i => decide (y.nSlots ≤ i) && (x.slot i).used then bad0 s .state
    else if y.delay ≠ x.delay ∧ x.at15 then bad0 s .state
    else
      let t := declareZone (s.setZone z y) z
      let sized := decide (y.delay = x.delay)
      if !sized && decide (x.ringLen ≠ 2 ^ ringBits y.delay) && (t.ringPlace z y.delay).isNone then bad s .capacity 0xFFFF (t.ringShort z y.delay)
      else checkZone s (if sized then t else newDelay t z) z fun t => withBlocks s [z] (done0 t)
def execZoneZparam (n : Nat) (s : State) : Out := .next (zoneReports (serve n 4 1 s zparam))

/-- Two Q15 values of a word, low half first. -/
def halves (w : W32) : List Int := [(w.extractLsb' 0 16).toInt, (w.extractLsb' 16 16).toInt]

/-- k bands from letter words; none where the words do not fit. -/
def eqBands : Nat → List W32 → Option (List EqBand)
  | 0, [] => some []
  | 0, _ => none
  | _ + 1, [] => none
  | k + 1, t :: r =>
    let wide := bitAt t 31
    let m := if wide then 5 else 3
    let ws := r.take m
    if ws.length < m then none else
    let c := if wide then ws.map BitVec.toInt else (ws.flatMap halves).take 5
    (eqBands k (r.drop m)).map fun bs => { wide := wide, halved := bitAt t 30, coef := c } :: bs

/-- ZONE EQ: the coefficient set of a zone, for all its bands at once (R270). -/
def zoneEq (s : State) (l : Letter) : State × LRes :=
  let z := fld (l.b 0) 0 10
  let k := fld (l.b 0) 16 4
  if l.body = [] then bad0 s .len
  else if 12 < k then bad s .range 0
  else match eqBands k (l.body.drop 1) with
    | none => bad0 s .len
    | some bs =>
      let t := declareZone (s.setZone z { s.zone z with eq := bs }) z
      checkZone s t z fun t => withBlocks s [z] (done0 t)
def execZoneEq (n : Nat) (s : State) : Out := .next (zoneReports (serve n 4 3 s zoneEq))

/-- In RUN, a zone that has come onto the alarm path gets a zone thread, and its channels their modulator threads, on depots set to twin when any depot is; with the shortfall in threads (R282). -/
def toAlarmPath (s : State) (z : Nat) : State × Nat :=
  let off (t : Tid) : Bool := !s.twin (depOf t)
  if s.sheow.state ≠ .run ∨ !s.anyTwin ∨ !(s.zone z).onAlarmPath then (s, 0)
  else
    let is := (s.threadsOf [z]).filter fun i => off (s.zth i).tid
    let s := is.foldl (fun s i => s.setZth i { s.zth i with zones := (s.zth i).zones.filter (· != z), gen := (s.zth i).gen + 1 }) s
    let p := if is = [] then (s, 0) else joinThread s z
    let cs := (p.1.sheow.chans.filter fun e => e.2.enabled && e.2.zone == z && (match e.2.tid with | some t => off t | none => false)).map (·.1)
    cs.foldl (fun p c =>
      match (p.1.freeTids 6 true).head?, (p.1.chan c).tid with
      | some t, some o =>
        let s := (outState p.1 (execAbort .pmA o p.1)).setRole o none
        (claimChan ((startLib s t 6).setChan c { s.chan c with tid := some t }) c, p.2)
      | _, _ => (p.1, p.2 + 1)) p

/-- ZONE EVAC_MAP: message ids of zones; a zone number above 1,023 is out of range. -/
def evacMap (s : State) (l : Letter) : State × LRes :=
  if l.body = [] then bad0 s .len else
  match l.body.findIdx? fun w => fld w 10 6 != 0 with
  | some i => bad s .range i
  | none =>
    let zs := l.body.map fun w => fld w 0 10
    let t := l.body.foldl (fun t w =>
      let z := fld w 0 10
      let t := t.setZone z { t.zone z with evac := fld w 16 16 }
      if fld w 16 16 = 0 then t else declareZone t z) s
    let r := zs.foldl (fun p z => let q := toAlarmPath p.1 z; (q.1, p.2 + q.2)) (t, 0)
    if r.2 ≠ 0 then bad s .capacity 0xFFFF r.2 else withBlocks s zs (done0 r.1)
def execZoneEvacMap (n : Nat) (s : State) : Out := .next (zoneReports (serve n 4 4 s evacMap))

/-! ### ROUTE -/

/-- One ROUTE record: zones from first, slot, route; given = a start cycle stands in it. -/
structure RouteRec where
  first : Nat
  count : Nat
  slot : Nat
  prio : Nat
  kind : Nat
  ch : Nat
  id : Nat
  gain : Int
  given : Bool
  start : Nat
deriving DecidableEq, Repr

def RouteRec.zones (r : RouteRec) : List Nat := (List.range r.count).map fun i => r.first + i
def RouteRec.src (r : RouteRec) : RSrc := if r.kind = 1 then .stream r.id r.ch else if r.kind = 2 then .msg r.id else .none

/-- The records of a letter body. -/
def routeRecs : List W32 → List RouteRec
  | r0 :: r1 :: r2 :: r3 :: r4 :: r =>
    { first := fld r0 0 10, count := fld r0 16 10 + 1, slot := fld r0 28 3, prio := fld r1 0 4, kind := fld r1 8 2, ch := fld r1 16 3
      id := fld r2 0 16, gain := (r3.extractLsb' 0 16).toInt, given := bitAt r4 31, start := fld r4 0 29 } :: routeRecs r
  | _ => []

/-- The word of record r at fault, with the status; none where r may be written from letterbox n. -/
def State.routeBad (s : State) (n : Nat) (r : RouteRec) : Option (LStat × Nat) :=
  let at15 := decide (r.prio = 15)
  if 1024 < r.first + r.count then some (.range, 0)
  else if r.kind = 3 then some (.range, 1)
  else if r.zones.any fun z => decide ((s.zone z).nSlots ≤ r.slot) then some (.range, 0)
  else if at15 && n != 2 then some (.box, 1)
  else if r.kind = 1 then
    match s.sin r.id with
    | none => some (.absent, 2)
    | some x => if x.channels ≤ r.ch then some (.range, 1) else if r.prio = 15 ∧ !x.alarm then some (.state, 2) else none
  else if r.kind = 2 then (if (s.message r.id).isNone then some (.absent, 2) else none)
  else none

/-- The first record at fault: its status and body word. -/
def State.routesBad (s : State) (n : Nat) : Nat → List RouteRec → Option (LStat × Nat)
  | _, [] => none
  | i, r :: rs => match s.routeBad n r with
    | some (c, w) => some (c, 5 * i + w)
    | none => s.routesBad n (i + 1) rs

/-- Write one record; the start cycle of a stored message that is not given is not stated (R276) and is a free value. -/
def putRoute (s : State) (r : RouteRec) : State :=
  let free := decide (r.kind = 2) && !r.given
  let st := if r.given then r.start else if free then Config.choice s.free % 2 ^ 29 else 0
  let s := if free then s.tick1 else s
  r.zones.foldl (fun s z => setRoute (declareZone s z) z r.slot { src := r.src, prio := r.prio, gain := r.gain, start := st }) s

/-- ZONE ROUTE: route slots of zones, all records together (R261, R265, R281, R304, R325). -/
def route (n : Nat) (s : State) (l : Letter) : State × LRes :=
  let rs := routeRecs l.body
  let zs := (rs.flatMap RouteRec.zones).eraseDups
  if l.body.length % 5 ≠ 0 ∨ l.body = [] then bad0 s .len
  else if s.sheow.state ≠ .run then bad0 s .state
  else match s.routesBad n 0 rs with
    | some (c, i) => bad s c i
    | none =>
      let t := rs.foldl putRoute s
      let two := zs.filter fun z => decide (1 < (t.zone z).slots15)
      let j := zs.foldl (fun (p : State × Nat) z => let q := joinThread p.1 z; (q.1, p.2 + q.2)) (t, 0)
      let past := (j.1.threadsOf zs).any fun i => decide (2 < (j.1.instances i).length)
      if two ≠ [] then bad s .conflict (5 * ((rs.findIdx? fun r => r.prio == 15 && two.any r.zones.contains).getD 0))
      else if j.2 ≠ 0 then bad s .capacity 0xFFFF j.2
      else if past then bad s .capacity 0xFFFF 1
      else withBlocks s zs (done0 (zs.foldl abortZone j.1))
def execZoneRoute (n : Nat) (s : State) : Out := .next (zoneReports (serve n 4 2 s (route n)))

/-! ### The message store (R273) -/

/-- The store region. -/
def State.storeRegion (s : State) : Option Region := (s.regionsOf 4).head?

/-- ZONE STORE_WRITE: data into the store region. -/
def storeWrite (s : State) (l : Letter) : State × LRes :=
  let o := (l.b 0).toNat
  let d := l.body.drop 1
  if l.body = [] then bad0 s .len else
  match s.storeRegion with
  | none => bad0 s .absent
  | some r =>
    if s.sheow.storeSealed then bad0 s .state
    else if o % 4 ≠ 0 ∨ 2 * r.len < o + 4 * d.length then bad s .range 0
    else done0 (xputs s pmCode (agentId .pmA) (r.base + o / 2) (d.flatMap words32))
def execZoneStoreWrite (n : Nat) (s : State) : Out := .next (zoneReports (serve n 4 5 s storeWrite))

/-- One byte of the reflected CRC-16: polynomial 0xA001 (R273). -/
def crc16Byte (c : Word) (b : Byte) : Word :=
  (List.range 8).foldl (fun c _ => if c.getLsbD 0 then (c >>> 1) ^^^ 0xA001 else c >>> 1) (c ^^^ b.setWidth 16)
/-- The CRC of words of memory, low byte first, from 0xFFFF. -/
def crc16Words (ws : List Word) : Word :=
  ws.foldl (fun c w => crc16Byte (crc16Byte c (w.extractLsb' 0 8)) (w.extractLsb' 8 8)) 0xFFFF

/-- Blocks of a message of n samples: 256 samples in 130 words each. -/
def blocksOf (n : Nat) : Nat := (n + 255) / 256

/-- Words from a hold an uncorrectable pair-word. -/
def State.xbad (s : State) (a n : Nat) : Bool := s.xch.err.any fun e => e.2 == some .double && decide (a / 2 ≤ e.1 ∧ e.1 ≤ (a + n - 1) / 2)

/-- The message that directory entry e at words ws describes, where it passes the check of R273. -/
def State.entryOk (s : State) (r : Region) (ws : List Word) : Option StoreMsg :=
  let w (i : Nat) : Nat := (ws[i]?.getD 0).toNat
  let off := w 2 + w 3 * 65536
  let len := w 4 + w 5 * 65536
  let n := 130 * blocksOf len
  if w 1 % 32768 ≠ 0 ∨ off % 4 ≠ 0 ∨ off < 1024 ∨ 2 * r.len < off + 2 * n ∨ 30000 < w 6 ∨ s.xbad (r.base + off / 2) n
      ∨ crc16Words (s.xwords (r.base + off / 2) n) ≠ ws[7]?.getD 0 then none
  else some { id := w 0, loop := decide (32768 ≤ w 1), off := off, len := len, gap := w 6 }

/-- ZONE STORE_SEAL: every directory entry is checked; usable entries become messages. -/
def storeSeal (s : State) (l : Letter) : State × LRes :=
  needLen s l 0 <|
    match s.storeRegion with
    | none => bad0 s .absent
    | some r =>
      let ents := (List.range 64).map fun i => s.xwords (r.base + 8 * i) 8
      let judged := ents.map fun ws => if ws.headD 0 = 0 then none else some (s.entryOk r ws)
      let ok := judged.filterMap fun j => j.join
      let mask := judged.map fun j => j == some none
      let half (m : List Bool) : W32 := (List.range 32).foldl (fun v i => putBit v i (m[i]?.getD false)) 0
      doneW { s with sheow := { s.sheow with store := ok, storeSealed := true } }
        [BitVec.ofNat 32 ok.length, half (mask.take 32), half (mask.drop 32)]
def execZoneStoreSeal (n : Nat) (s : State) : Out := .next (zoneReports (serve n 4 6 s storeSeal))

/-- A slot is on a stored message: as routed, as its thread plays it, or kept for the end of an alarm. -/
def Slot.onStore (v : Slot) : Bool :=
  let m (r : Route) : Bool := match r.src with | .msg _ => true | _ => false
  m v.route || m v.live || (match v.saved with | some r => m r | none => false)

/-- ZONE STORE_OPEN: the store is open for writing again; until it is sealed it holds no message. -/
def storeOpen (s : State) (l : Letter) : State × LRes :=
  needLen s l 0 <|
    if s.sheow.zones.any fun e => e.2.switched.isSome || e.2.slots.any fun v => v.2.onStore then bad0 s .state
    else done0 { s with sheow := { s.sheow with store := [], storeSealed := false } }
def execZoneStoreOpen (n : Nat) (s : State) : Out := .next (zoneReports (serve n 4 7 s storeOpen))

/-! ### ALARM, ZSTATUS -/

/-- ZONE ALARM: only on LB2 and in RUN (R262, R325). -/
def alarm (n : Nat) (s : State) (l : Letter) : State × LRes :=
  let on := bitAt (l.b 0) 0
  needLen s l 2 <|
    if n ≠ 2 then bad0 s .box
    else if s.sheow.state ≠ .run then bad0 s .state
    else if !s.blocksFree (if on then s.mapped else s.taken) then (s, .wait)
    else
      let r := if on then startAlarm s (fld (l.b 1) 0 16) else stopAlarm s
      doneW r.1 r.2
def execZoneAlarm (n : Nat) (s : State) : Out := .next (zoneReports (serve n 4 8 s (alarm n)))

/-- ZONE ZSTATUS: P, active slots as a mask, the switch to the store, clips and the overruns of its thread. -/
def execZoneZstatus (n : Nat) (s : State) : Out :=
  .next (zoneReports (serve n 4 9 s fun s l =>
    let z := fld (l.b 0) 0 10
    let x := s.zone z
    needLen s l 1 <|
      if !x.declared then bad s .absent 0
      else
        let mask := ((List.range 8).map fun i => b2n (x.slot i).used * 2 ^ i).sum
        doneW s [BitVec.ofNat 32 (x.prio + mask * 256 + b2n x.switched.isSome * 65536), x.clips,
          (((s.threadsOf [z]).map fun i => (s.zth i).overruns).headD 0)]))

/-! ### STREAM -/

/-- The options of Table 8.5: 1 to 8 channels, 6 to 192 samples a packet, 1,440 bytes of payload. -/
def streamOpts (w : W32) : Bool :=
  let c := fld w 16 4
  let n := fld w 24 8
  decide (1 ≤ c ∧ c ≤ 8 ∧ 6 ≤ n ∧ n ≤ 192 ∧ c * n * (if bitAt w 8 then 3 else 2) ≤ 1440)

/-- Slots a flow ring must have for streams of (samples per packet, link offset): each frame stays for the link offset, 2 packet times and 1 ms (R264). -/
def ringNeed (xs : List (Nat × Nat)) : Nat :=
  let p := xs.foldl (fun m x => m * x.1) 1
  let hold := xs.foldl (fun m x => Nat.max m (x.2 + 2 * x.1 + 48)) 0
  ceilDiv (hold * (xs.map fun x => p / x.1).sum) p

/-- The streams declared on a flow ring. -/
def State.onRing (s : State) (k : Nat) : List (Nat × Nat) :=
  s.sheow.streamsIn.filterMap fun e => match e.2 with
    | some x => if x.ring = k then some (x.spp, x.link) else none
    | none => none

/-- STREAM IN: an inbound stream. The link offset of an AAF stream is 0 (R256). -/
def streamInDecl (s : State) (l : Letter) : State × LRes :=
  let id := fld (l.b 0) 0 11
  let aaf := bitAt (l.b 0) 12
  let k := fld (l.b 1) 0 8
  let spp := fld (l.b 1) 24 8
  let link := if aaf then 0 else fld (l.b 4) 0 13
  needLen s l 5 <|
    if !streamOpts (l.b 1) then bad s .unsupported 1
    else if (s.sin id).isSome then bad s .conflict 0
    else if !aaf && !decide (12 ≤ link ∧ link ≤ 4800 ∧ link ≤ 30 * spp) then bad s .range 4
    else
      let need := ringNeed ((spp, link) :: s.onRing k)
      let have' := frSlots (s.fring k).cfg
      if have' < need then bad s .capacity 1 (need - have')
      else
        let t := s.setSin id (some { aaf := aaf, alarm := bitAt (l.b 0) 13, ring := k, l24 := bitAt (l.b 1) 8, channels := fld (l.b 1) 16 4
                                     spp := spp, offset := l.b 2, sid := l.b 3 ++ l.b 2, link := link, arrival := s.pmk3Cycle })
        if t.runShort ≠ 0 then bad s .capacity 0xFFFF t.runShort else done0 (ensureThreads t)
def execStreamIn (n : Nat) (s : State) : Out := .next (zoneReports (serve n 5 1 s streamInDecl))

/-- STREAM OUT: an outbound stream with a zone for each channel. -/
def streamOutDecl (s : State) (l : Letter) : State × LRes :=
  let id := fld (l.b 0) 0 10
  let ch := fld (l.b 2) 16 4
  needLen s l 12 <|
    if !streamOpts (l.b 2) then bad s .unsupported 2
    else if s.nLane ≤ fld (l.b 1) 0 3 then bad s .absent 1
    else if (s.sout id).isSome then bad s .conflict 0
    else
      let zs := ((l.body.drop 8).flatMap fun w => [fld w 0 10, fld w 16 10]).take ch
      let t := s.setSout id (some { aaf := bitAt (l.b 0) 12, lane := fld (l.b 1) 0 3, queue := fld (l.b 1) 4 3, prp := bitAt (l.b 1) 7
                                    l24 := bitAt (l.b 2) 8, channels := ch, spp := fld (l.b 2) 24 8, tmpl := fld (l.b 3) 0 22, tmplLen := (l.b 4).toNat
                                    txOff := fld (l.b 5) 0 16, rtpOff := l.b 6, sid := l.b 7 ++ l.b 6, zones := zs, cycle := s.mediaCycle })
      let t := zs.foldl declareZone t
      let j := zs.foldl (fun (p : State × Nat) z => let q := joinThread p.1 z; (q.1, p.2 + q.2)) (t, 0)
      if j.2 + j.1.runShort ≠ 0 then bad s .capacity 0xFFFF (j.2 + j.1.runShort) else done0 (ensureThreads j.1)
def execStreamOut (n : Nat) (s : State) : Out := .next (zoneReports (serve n 5 2 s streamOutDecl))

/-- A route uses inbound stream id. -/
def State.streamUsed (s : State) (id : Nat) : Bool :=
  let on (r : Route) : Bool := match r.src with | .stream i _ => i == id | _ => false
  s.sheow.zones.any fun e => e.2.slots.any fun v => on v.2.route || (match v.2.saved with | some r => on r | none => false)

/-- STREAM REMOVE. -/
def streamDrop (s : State) (l : Letter) : State × LRes :=
  let id := fld (l.b 0) 0 11
  needLen s l 1 <|
    if bitAt (l.b 0) 16 then (if (s.sout id).isNone then bad s .absent 0 else done0 (s.setSout id none))
    else if (s.sin id).isNone then bad s .absent 0
    else if s.streamUsed id then bad s .state 0
    else done0 (s.setSin id none)
def execStreamRemove (n : Nat) (s : State) : Out := .next (zoneReports (serve n 5 3 s streamDrop))

/-- STREAM SSTATUS; what an outbound stream reports beside its packets is not stated. -/
def execStreamSstatus (n : Nat) (s : State) : Out :=
  .next (zoneReports (serve n 5 4 s fun s l =>
    let id := fld (l.b 0) 0 11
    needLen s l 1 <|
      if bitAt (l.b 0) 16 then
        match s.sout id with
        | none => bad s .absent 0
        | some x => doneW s.tick1.tick1.tick1 [x.packets, Config.word32 s.free, Config.word32 (s.free + 1), Config.word32 (s.free + 2)]
      else match s.sin id with
        | none => bad s .absent 0
        | some x => doneW s [x.packets, x.lost, x.late, BitVec.ofNat 32 x.arrival]))

end Sys2Proof.Machine
end

