-- ==== Sys2Proof/Machine/Dispatch.lean ====
section
/-! DEFINITION. The dispatch: one arm per command of the table, each one call of its meaning. -/
namespace Sys2Proof.Machine

def exec (i : Instr) (s : State) : Host.Outcome State Fault Refusal :=
  match i with
  | .add t d a b => Sys2Proof.Machine.execAdd t d a b s
  | .adc t d a b => Sys2Proof.Machine.execAdc t d a b s
  | .sub t d a b => Sys2Proof.Machine.execSub t d a b s
  | .sbb t d a b => Sys2Proof.Machine.execSbb t d a b s
  | .cmp t a b => Sys2Proof.Machine.execCmp t a b s
  | .neg t d a => Sys2Proof.Machine.execNeg t d a s
  | .abs t d a => Sys2Proof.Machine.execAbs t d a s
  | .min t d a b => Sys2Proof.Machine.execMin t d a b s
  | .max t d a b => Sys2Proof.Machine.execMax t d a b s
  | .and t d a b => Sys2Proof.Machine.execAnd t d a b s
  | .or t d a b => Sys2Proof.Machine.execOr t d a b s
  | .xor t d a b => Sys2Proof.Machine.execXor t d a b s
  | .andn t d a b => Sys2Proof.Machine.execAndn t d a b s
  | .not t d a => Sys2Proof.Machine.execNot t d a s
  | .tst t a b => Sys2Proof.Machine.execTst t a b s
  | .mov t d a => Sys2Proof.Machine.execMov t d a s
  | .shl t d a b => Sys2Proof.Machine.execShl t d a b s
  | .shr t d a b => Sys2Proof.Machine.execShr t d a b s
  | .sar t d a b => Sys2Proof.Machine.execSar t d a b s
  | .rol t d a b => Sys2Proof.Machine.execRol t d a b s
  | .par t d a => Sys2Proof.Machine.execPar t d a s
  | .brev t d a n => Sys2Proof.Machine.execBrev t d a n s
  | .clz t d a => Sys2Proof.Machine.execClz t d a s
  | .swapb t d a => Sys2Proof.Machine.execSwapb t d a s
  | .addi t d a imm => Sys2Proof.Machine.execAddi t d a imm s
  | .cmpi t a imm => Sys2Proof.Machine.execCmpi t a imm s
  | .andi t d a imm => Sys2Proof.Machine.execAndi t d a imm s
  | .ori t d a imm => Sys2Proof.Machine.execOri t d a imm s
  | .xori t d a imm => Sys2Proof.Machine.execXori t d a imm s
  | .movi t d imm => Sys2Proof.Machine.execMovi t d imm s
  | .tsti t a imm => Sys2Proof.Machine.execTsti t a imm s
  | .shli t d a n => Sys2Proof.Machine.execShli t d a n s
  | .shri t d a n => Sys2Proof.Machine.execShri t d a n s
  | .sari t d a n => Sys2Proof.Machine.execSari t d a n s
  | .bset t d a n => Sys2Proof.Machine.execBset t d a n s
  | .bclr t d a n => Sys2Proof.Machine.execBclr t d a n s
  | .btst t a n => Sys2Proof.Machine.execBtst t a n s
  | .sel t cc d a b => Sys2Proof.Machine.execSel t cc d a b s
  | .ld t r b sp off => Sys2Proof.Machine.execLd t r b sp off s
  | .st t r b sp off => Sys2Proof.Machine.execSt t r b sp off s
  | .ldd t r b sp off => Sys2Proof.Machine.execLdd t r b sp off s
  | .std t r b sp off => Sys2Proof.Machine.execStd t r b sp off s
  | .ldp t r n sp stp => Sys2Proof.Machine.execLdp t r n sp stp s
  | .stp t r n sp stp => Sys2Proof.Machine.execStp t r n sp stp s
  | .push t r => Sys2Proof.Machine.execPush t r s
  | .pop t r => Sys2Proof.Machine.execPop t r s
  | .mul t acc a b => Sys2Proof.Machine.execMul t acc a b s
  | .mac t acc a b => Sys2Proof.Machine.execMac t acc a b s
  | .msu t acc a b => Sys2Proof.Machine.execMsu t acc a b s
  | .mulu t acc a b => Sys2Proof.Machine.execMulu t acc a b s
  | .macd t acc a b => Sys2Proof.Machine.execMacd t acc a b s
  | .msud t acc a b => Sys2Proof.Machine.execMsud t acc a b s
  | .clra t acc => Sys2Proof.Machine.execClra t acc s
  | .lda t acc a => Sys2Proof.Machine.execLda t acc a s
  | .sta t acc a pair => Sys2Proof.Machine.execSta t acc a pair s
  | .sha t acc n => Sys2Proof.Machine.execSha t acc n s
  | .adda t acc => Sys2Proof.Machine.execAdda t acc s
  | .suba t acc => Sys2Proof.Machine.execSuba t acc s
  | .nega t acc => Sys2Proof.Machine.execNega t acc s
  | .absa t acc => Sys2Proof.Machine.execAbsa t acc s
  | .div t d a b => Sys2Proof.Machine.execDiv t d a b s
  | .divl t d a b => Sys2Proof.Machine.execDivl t d a b s
  | .mvs t n a => Sys2Proof.Machine.execMvs t n a s
  | .mvf t d n => Sys2Proof.Machine.execMvf t d n s
  | .b t cc lx target => Sys2Proof.Machine.execB t cc lx target s
  | .call t target => Sys2Proof.Machine.execCall t target s
  | .jmpr t a lx => Sys2Proof.Machine.execJmpr t a lx s
  | .callr t a => Sys2Proof.Machine.execCallr t a s
  | .ret t lx => Sys2Proof.Machine.execRet t lx s
  | .loop t n e => Sys2Proof.Machine.execLoop t n e s
  | .loopr t c e => Sys2Proof.Machine.execLoopr t c e s
  | .nop t => Sys2Proof.Machine.execNop t s
  | .brk t => Sys2Proof.Machine.execBrk t s
  | .xld t p x => Sys2Proof.Machine.execXld t p x s
  | .xst t p x => Sys2Proof.Machine.execXst t p x s
  | .xldd t p x => Sys2Proof.Machine.execXldd t p x s
  | .xstd t p x => Sys2Proof.Machine.execXstd t p x s
  | .acq t p x => Sys2Proof.Machine.execAcq t p x s
  | .rel t x => Sys2Proof.Machine.execRel t x s
  | .send t p => Sys2Proof.Machine.execSend t p s
  | .sende t tgt p => Sys2Proof.Machine.execSende t tgt p s
  | .recv t p long ch timed => Sys2Proof.Machine.execRecv t p long ch timed s
  | .take t p ix => Sys2Proof.Machine.execTake t p ix s
  | .setpm t n p => Sys2Proof.Machine.execSetpm t n p s
  | .getpm t n p => Sys2Proof.Machine.execGetpm t n p s
  | .pmrd t p ref sel => Sys2Proof.Machine.execPmrd t p ref sel s
  | .addpm t n cyc imm => Sys2Proof.Machine.execAddpm t n cyc imm s
  | .waitp t n => Sys2Proof.Machine.execWaitp t n s
  | .pedge t p at' level => Sys2Proof.Machine.execPedge t p at' level s
  | .pflush t p => Sys2Proof.Machine.execPflush t p s
  | .pser t p q => Sys2Proof.Machine.execPser t p q s
  | .pdes t p q => Sys2Proof.Machine.execPdes t p q s
  | .prd t p q => Sys2Proof.Machine.execPrd t p q s
  | .pwr t p q => Sys2Proof.Machine.execPwr t p q s
  | .crcs t p q byte => Sys2Proof.Machine.execCrcs t p q byte s
  | .crcw t p q => Sys2Proof.Machine.execCrcw t p q s
  | .exactOpComplete t => Sys2Proof.Machine.execExactOpComplete t s
  | .exchangeResponse t => Sys2Proof.Machine.execExchangeResponse t s
  | .sealGrant t => Sys2Proof.Machine.execSealGrant t s
  | .relAck t => Sys2Proof.Machine.execRelAck t s
  | .sendeQueuedCommit d e c => Sys2Proof.Machine.execSendeQueuedCommit d e c s
  | .recvDelivery d ch => Sys2Proof.Machine.execRecvDelivery d ch s
  | .recvTimeout t => Sys2Proof.Machine.execRecvTimeout t s
  | .sendeTimeout t => Sys2Proof.Machine.execSendeTimeout t s
  | .waitpResume t => Sys2Proof.Machine.execWaitpResume t s
  | .queueRoom t => Sys2Proof.Machine.execQueueRoom t s
  | .pdesWord t => Sys2Proof.Machine.execPdesWord t s
  | .start ag t pc => Sys2Proof.Machine.execStart ag t pc s
  | .stop ag t => Sys2Proof.Machine.execStop ag t s
  | .stopComplete t => Sys2Proof.Machine.execStopComplete t s
  | .resume ag t => Sys2Proof.Machine.execResume ag t s
  | .abort ag t => Sys2Proof.Machine.execAbort ag t s
  | .depotEnable ag d => Sys2Proof.Machine.execDepotEnable ag d s
  | .depotDrain ag d => Sys2Proof.Machine.execDepotDrain ag d s
  | .drainComplete d => Sys2Proof.Machine.execDrainComplete d s
  | .drainTimeout d => Sys2Proof.Machine.execDrainTimeout d s
  | .depSliceWrite ag t v => Sys2Proof.Machine.execDepSliceWrite ag t v s
  | .depXselWrite ag d hi v => Sys2Proof.Machine.execDepXselWrite ag d hi v s
  | .depLdDataWrite ag d v => Sys2Proof.Machine.execDepLdDataWrite ag d v s
  | .depLdDataRead ag d => Sys2Proof.Machine.execDepLdDataRead ag d s
  | .depotStall d => Sys2Proof.Machine.execDepotStall d s
  | .blockStall => Sys2Proof.Machine.execBlockStall s
  | .boostStart t => Sys2Proof.Machine.execBoostStart t s
  | .boostEnd t => Sys2Proof.Machine.execBoostEnd t s
  | .twinMismatch d pair group dataUe => Sys2Proof.Machine.execTwinMismatch d pair group dataUe s
  | .pmTwinMismatch group => Sys2Proof.Machine.execPmTwinMismatch group s
  | .unitMessageCommit => Sys2Proof.Machine.execUnitMessageCommit s
  | .longChuteReservation d => Sys2Proof.Machine.execLongChuteReservation d s
  | .longChuteGrant t => Sys2Proof.Machine.execLongChuteGrant t s
  | .longChuteDelivery d => Sys2Proof.Machine.execLongChuteDelivery d s
  | .chuteDlPop ag d => Sys2Proof.Machine.execChuteDlPop ag d s
  | .deadLetterMove d => Sys2Proof.Machine.execDeadLetterMove d s
  | .hostRead id sec addr size len => Sys2Proof.Machine.execHostRead id sec addr size len s
  | .hostWrite id sec addr size beats => Sys2Proof.Machine.execHostWrite id sec addr size beats s
  | .sorterGrant tg => Sys2Proof.Machine.execSorterGrant tg s
  | .overdueEntry tg => Sys2Proof.Machine.execOverdueEntry tg s
  | .starveWindowRestart => Sys2Proof.Machine.execStarveWindowRestart s
  | .houseInsert tg => Sys2Proof.Machine.execHouseInsert tg s
  | .eccWriteBack pw => Sys2Proof.Machine.execEccWriteBack pw s
  | .scrubRead => Sys2Proof.Machine.execScrubRead s
  | .srtCommit ag => Sys2Proof.Machine.execSrtCommit ag s
  | .sealAliasAcq ag => Sys2Proof.Machine.execSealAliasAcq ag s
  | .sealAliasRel ag => Sys2Proof.Machine.execSealAliasRel ag s
  | .sealAliasAddrWrite ag v => Sys2Proof.Machine.execSealAliasAddrWrite ag v s
  | .sealForce ag v => Sys2Proof.Machine.execSealForce ag v s
  | .sealLeaseExpiry addr => Sys2Proof.Machine.execSealLeaseExpiry addr s
  | .pmkBtLoRead ag => Sys2Proof.Machine.execPmkBtLoRead ag s
  | .pmkPtpNsRead ag => Sys2Proof.Machine.execPmkPtpNsRead ag s
  | .pmkPosLoRead ag k => Sys2Proof.Machine.execPmkPosLoRead ag k s
  | .pmkConvStart ag hi => Sys2Proof.Machine.execPmkConvStart ag hi s
  | .refEnable ag k v => Sys2Proof.Machine.execRefEnable ag k v s
  | .refDisable ag k v => Sys2Proof.Machine.execRefDisable ag k v s
  | .mainsCrossing k rising t1 t2 => Sys2Proof.Machine.execMainsCrossing k rising t1 t2 s
  | .crossingWindowEnd k c => Sys2Proof.Machine.execCrossingWindowEnd k c s
  | .holdoverExpiry k => Sys2Proof.Machine.execHoldoverExpiry k s
  | .refEdge k tx => Sys2Proof.Machine.execRefEdge k tx s
  | .ptpRateWrite ag v => Sys2Proof.Machine.execPtpRateWrite ag v s
  | .loadTime ag => Sys2Proof.Machine.execLoadTime ag s
  | .applyStep ag => Sys2Proof.Machine.execApplyStep ag s
  | .markLocked ag => Sys2Proof.Machine.execMarkLocked ag s
  | .ptpWatchdogExpiry => Sys2Proof.Machine.execPtpWatchdogExpiry s
  | .postmarkAlarm => Sys2Proof.Machine.execPostmarkAlarm s
  | .pinOwnWrite ag n v => Sys2Proof.Machine.execPinOwnWrite ag n v s
  | .pinFuncWrite ag n v => Sys2Proof.Machine.execPinFuncWrite ag n v s
  | .handoverTakeover n => Sys2Proof.Machine.execHandoverTakeover n s
  | .pinElecWrite ag n v => Sys2Proof.Machine.execPinElecWrite ag n v s
  | .pinGwWrite ag mask size v => Sys2Proof.Machine.execPinGwWrite ag mask size v s
  | .edgeEntry n => Sys2Proof.Machine.execEdgeEntry n s
  | .edgeApply n => Sys2Proof.Machine.execEdgeApply n s
  | .serWordBoundary n => Sys2Proof.Machine.execSerWordBoundary n s
  | .desWord n w => Sys2Proof.Machine.execDesWord n w s
  | .captureEdge n level => Sys2Proof.Machine.execCaptureEdge n level s
  | .patternEvent u leave levels => Sys2Proof.Machine.execPatternEvent u leave levels s
  | .pinMismatch n => Sys2Proof.Machine.execPinMismatch n s
  | .bckEnable ag k => Sys2Proof.Machine.execBckEnable ag k s
  | .bckDisable ag k => Sys2Proof.Machine.execBckDisable ag k s
  | .pinRingEnable ag k v => Sys2Proof.Machine.execPinRingEnable ag k v s
  | .rxFrame l f => Sys2Proof.Machine.execRxFrame l f s
  | .txPoll l => Sys2Proof.Machine.execTxPoll l s
  | .txLaunch l q => Sys2Proof.Machine.execTxLaunch l q s
  | .txFrameEnd l underrun => Sys2Proof.Machine.execTxFrameEnd l underrun s
  | .linkDown l => Sys2Proof.Machine.execLinkDown l s
  | .linkUp l => Sys2Proof.Machine.execLinkUp l s
  | .laneStart ag l => Sys2Proof.Machine.execLaneStart ag l s
  | .laneStop ag l => Sys2Proof.Machine.execLaneStop ag l s
  | .laneOff l => Sys2Proof.Machine.execLaneOff l s
  | .clsWrite ag => Sys2Proof.Machine.execClsWrite ag s
  | .clsRead ag => Sys2Proof.Machine.execClsRead ag s
  | .lanRingEnable ag k v => Sys2Proof.Machine.execLanRingEnable ag k v s
  | .txqEnable ag l q v => Sys2Proof.Machine.execTxqEnable ag l q v s
  | .prpForget p mac => Sys2Proof.Machine.execPrpForget p mac s
  | .irqMaskSet ag hi v => Sys2Proof.Machine.execIrqMaskSet ag hi v s
  | .irqMaskClr ag hi v => Sys2Proof.Machine.execIrqMaskClr ag hi v s
  | .irqTestSet ag hi v => Sys2Proof.Machine.execIrqTestSet ag hi v s
  | .irqTestClr ag hi v => Sys2Proof.Machine.execIrqTestClr ag hi v s
  | .dbH2pSet ag v => Sys2Proof.Machine.execDbH2pSet ag v s
  | .dbH2pClr ag v => Sys2Proof.Machine.execDbH2pClr ag v s
  | .dbP2hSet ag v => Sys2Proof.Machine.execDbP2hSet ag v s
  | .dbP2hClr ag v => Sys2Proof.Machine.execDbP2hClr ag v s
  | .dlSet ag v => Sys2Proof.Machine.execDlSet ag v s
  | .dlClr ag v => Sys2Proof.Machine.execDlClr ag v s
  | .irqSafeSw ag v => Sys2Proof.Machine.execIrqSafeSw ag v s
  | .irqWdogWrite ag v => Sys2Proof.Machine.execIrqWdogWrite ag v s
  | .wdogKick ag v => Sys2Proof.Machine.execWdogKick ag v s
  | .watchdogExpiry => Sys2Proof.Machine.execWatchdogExpiry s
  | .pmRestart ag v => Sys2Proof.Machine.execPmRestart ag v s
  | .pwrCmdRun ag => Sys2Proof.Machine.execPwrCmdRun ag s
  | .pwrCmdTrim ag => Sys2Proof.Machine.execPwrCmdTrim ag s
  | .pwrCmdVigil ag => Sys2Proof.Machine.execPwrCmdVigil ag s
  | .pwrCmdHold ag => Sys2Proof.Machine.execPwrCmdHold ag s
  | .trimMaskWrite ag m v => Sys2Proof.Machine.execTrimMaskWrite ag m v s
  | .unitPowerOff u => Sys2Proof.Machine.execUnitPowerOff u s
  | .unitClearDone u => Sys2Proof.Machine.execUnitClearDone u s
  | .holdEntered => Sys2Proof.Machine.execHoldEntered s
  | .wake src => Sys2Proof.Machine.execWake src s
  | .pmRetentionExit => Sys2Proof.Machine.execPmRetentionExit s
  | .powerOff => Sys2Proof.Machine.execPowerOff s
  | .romLock ag v => Sys2Proof.Machine.execRomLock ag v s
  | .secDomainWrite ag off v => Sys2Proof.Machine.execSecDomainWrite ag off v s
  | .ikeyWrite ag ix v => Sys2Proof.Machine.execIkeyWrite ag ix v s
  | .dbgChallengeReq src v => Sys2Proof.Machine.execDbgChallengeReq src v s
  | .dbgResponseWrite src ix v => Sys2Proof.Machine.execDbgResponseWrite src ix v s
  | .dbgGrantOk ag => Sys2Proof.Machine.execDbgGrantOk ag s
  | .dbgGrantFail ag => Sys2Proof.Machine.execDbgGrantFail ag s
  | .zeroisationDone => Sys2Proof.Machine.execZeroisationDone s
  | .aesGo ag => Sys2Proof.Machine.execAesGo ag s
  | .aesDone => Sys2Proof.Machine.execAesDone s
  | .dbgLevelWrite src v => Sys2Proof.Machine.execDbgLevelWrite src v s
  | .dbgCtlWake src => Sys2Proof.Machine.execDbgCtlWake src s
  | .dbgHalt src t => Sys2Proof.Machine.execDbgHalt src t s
  | .dbgResume src t => Sys2Proof.Machine.execDbgResume src t s
  | .dbgStep src t => Sys2Proof.Machine.execDbgStep src t s
  | .dbgPmHalt src h => Sys2Proof.Machine.execDbgPmHalt src h s
  | .dbgPmResume src h => Sys2Proof.Machine.execDbgPmResume src h s
  | .dbgPmStep src h => Sys2Proof.Machine.execDbgPmStep src h s
  | .dbgTregAccess src ix w => Sys2Proof.Machine.execDbgTregAccess src ix w s
  | .dbgSliceAccess src a w => Sys2Proof.Machine.execDbgSliceAccess src a w s
  | .dbgCodeDataRead src => Sys2Proof.Machine.execDbgCodeDataRead src s
  | .traceEnable src v => Sys2Proof.Machine.execTraceEnable src v s
  | .traceSample => Sys2Proof.Machine.execTraceSample s
  | .tapDbgacc op off data => Sys2Proof.Machine.execTapDbgacc op off data s
  | .tapReset => Sys2Proof.Machine.execTapReset s
  | .blockReset => Sys2Proof.Machine.execBlockReset s
  | .blockResetRelease st => Sys2Proof.Machine.execBlockResetRelease st s
  | .dftMode on => Sys2Proof.Machine.execDftMode on s
  | .bootSelftest caught => Sys2Proof.Machine.execBootSelftest caught s
  | .bootGo ag v => Sys2Proof.Machine.execBootGo ag v s
  | .bootSelect src => Sys2Proof.Machine.execBootSelect src s
  | .depReset d => Sys2Proof.Machine.execDepReset d s
  | .depResetRelease d => Sys2Proof.Machine.execDepResetRelease d s
  | .laneReset l => Sys2Proof.Machine.execLaneReset l s
  | .xferGo ag d v => Sys2Proof.Machine.execXferGo ag d v s
  | .xferAbort ag d => Sys2Proof.Machine.execXferAbort ag d s
  | .xferCodeDone d => Sys2Proof.Machine.execXferCodeDone d s
  | .xferFreeze d => Sys2Proof.Machine.execXferFreeze d s
  | .xferFreezeEnd d => Sys2Proof.Machine.execXferFreezeEnd d s
  | .xferTimeout d => Sys2Proof.Machine.execXferTimeout d s
  | .hmWinWrite ag v => Sys2Proof.Machine.execHmWinWrite ag v s
  | .hmResponse id data err => Sys2Proof.Machine.execHmResponse id data err s
  | .pmInterrupt h => Sys2Proof.Machine.execPmInterrupt h s
  | .pmTimerCompare h => Sys2Proof.Machine.execPmTimerCompare h s
  | .pmUnalignedAccess h a => Sys2Proof.Machine.execPmUnalignedAccess h a s
  | .pmLr h rd addr => Sys2Proof.Machine.execPmLr h rd addr s
  | .pmSc h rd addr v => Sys2Proof.Machine.execPmSc h rd addr v s
  | .pmAmo h op rd addr v => Sys2Proof.Machine.execPmAmo h op rd addr v s
  | .pmFenceI h => Sys2Proof.Machine.execPmFenceI h s
  | .pmModeCsrWrite h c v => Sys2Proof.Machine.execPmModeCsrWrite h c v s
  | .pmdetWrite h v => Sys2Proof.Machine.execPmdetWrite h v s
  | .pmdcinvWrite h => Sys2Proof.Machine.execPmdcinvWrite h s
  | .rcRegisterRead ag off => Sys2Proof.Machine.execRcRegisterRead ag off s
  | .registerWrite ag off v => Sys2Proof.Machine.execRegisterWrite ag off v s
  | .letterServe n => Sys2Proof.Machine.execLetterServe n s
  | .letterPoll => Sys2Proof.Machine.execLetterPoll s
  | .replyTimeout n => Sys2Proof.Machine.execReplyTimeout n s
  | .sysIdent n => Sys2Proof.Machine.execSysIdent n s
  | .sysPing n => Sys2Proof.Machine.execSysPing n s
  | .sysLbAssign n => Sys2Proof.Machine.execSysLbAssign n s
  | .sysReportBox n => Sys2Proof.Machine.execSysReportBox n s
  | .sysPstate n => Sys2Proof.Machine.execSysPstate n s
  | .cfgSet n => Sys2Proof.Machine.execCfgSet n s
  | .cfgGet n => Sys2Proof.Machine.execCfgGet n s
  | .cfgRegion n => Sys2Proof.Machine.execCfgRegion n s
  | .cfgCommit n => Sys2Proof.Machine.execCfgCommit n s
  | .depotParcel n img => Sys2Proof.Machine.execDepotParcel n img s
  | .depotTstart n => Sys2Proof.Machine.execDepotTstart n s
  | .depotTctl n => Sys2Proof.Machine.execDepotTctl n s
  | .depotPlace n => Sys2Proof.Machine.execDepotPlace n s
  | .depotSpare n => Sys2Proof.Machine.execDepotSpare n s
  | .depotTakeover n => Sys2Proof.Machine.execDepotTakeover n s
  | .depotDstatus n => Sys2Proof.Machine.execDepotDstatus n s
  | .pinGrant n => Sys2Proof.Machine.execPinGrant n s
  | .pinReclaim n => Sys2Proof.Machine.execPinReclaim n s
  | .pinPstat n => Sys2Proof.Machine.execPinPstat n s
  | .zoneZparam n => Sys2Proof.Machine.execZoneZparam n s
  | .zoneRoute n => Sys2Proof.Machine.execZoneRoute n s
  | .zoneEq n => Sys2Proof.Machine.execZoneEq n s
  | .zoneEvacMap n => Sys2Proof.Machine.execZoneEvacMap n s
  | .zoneStoreWrite n => Sys2Proof.Machine.execZoneStoreWrite n s
  | .zoneStoreSeal n => Sys2Proof.Machine.execZoneStoreSeal n s
  | .zoneStoreOpen n => Sys2Proof.Machine.execZoneStoreOpen n s
  | .zoneAlarm n => Sys2Proof.Machine.execZoneAlarm n s
  | .zoneZstatus n => Sys2Proof.Machine.execZoneZstatus n s
  | .streamIn n => Sys2Proof.Machine.execStreamIn n s
  | .streamOut n => Sys2Proof.Machine.execStreamOut n s
  | .streamRemove n => Sys2Proof.Machine.execStreamRemove n s
  | .streamSstatus n => Sys2Proof.Machine.execStreamSstatus n s
  | .lineChannel n => Sys2Proof.Machine.execLineChannel n s
  | .linePins n => Sys2Proof.Machine.execLinePins n s
  | .lineBaseline n => Sys2Proof.Machine.execLineBaseline n s
  | .lineRestart n => Sys2Proof.Machine.execLineRestart n s
  | .lineRestore n => Sys2Proof.Machine.execLineRestore n s
  | .lineRound n => Sys2Proof.Machine.execLineRound n s
  | .lineRoundStop n => Sys2Proof.Machine.execLineRoundStop n s
  | .powerSupply n => Sys2Proof.Machine.execPowerSupply n s
  | .powerSupplyPins n => Sys2Proof.Machine.execPowerSupplyPins n s
  | .powerSpstat n => Sys2Proof.Machine.execPowerSpstat n s
  | .pmkTracker n => Sys2Proof.Machine.execPmkTracker n s
  | .pmkUserref n => Sys2Proof.Machine.execPmkUserref n s
  | .pmkPtp n => Sys2Proof.Machine.execPmkPtp n s
  | .pmkRstat n => Sys2Proof.Machine.execPmkRstat n s
  | .updateStage n img => Sys2Proof.Machine.execUpdateStage n img s
  | .updateCommit n readBack => Sys2Proof.Machine.execUpdateCommit n readBack s
  | .updateSwap n accepts => Sys2Proof.Machine.execUpdateSwap n accepts s
  | .updateConfirm n readBack => Sys2Proof.Machine.execUpdateConfirm n readBack s
  | .updateUstatus n => Sys2Proof.Machine.execUpdateUstatus n s
  | .diagDlRead n => Sys2Proof.Machine.execDiagDlRead n s
  | .diagCounters n => Sys2Proof.Machine.execDiagCounters n s
  | .secKey n => Sys2Proof.Machine.execSecKey n s
  | .secPlugin n img => Sys2Proof.Machine.execSecPlugin n img s
  | .secDomain n => Sys2Proof.Machine.execSecDomain n s
  | .secDbgChallenge n => Sys2Proof.Machine.execSecDbgChallenge n s
  | .secDbgUnlock n => Sys2Proof.Machine.execSecDbgUnlock n s
  | .piSleep p us => Sys2Proof.Machine.execPiSleep p us s
  | .piSleepEnd p => Sys2Proof.Machine.execPiSleepEnd p s
  | .piYield p => Sys2Proof.Machine.execPiYield p s
  | .piWindow p ix => Sys2Proof.Machine.execPiWindow p ix s
  | .piSealAcq p addr try' => Sys2Proof.Machine.execPiSealAcq p addr try' s
  | .piSealRel p addr => Sys2Proof.Machine.execPiSealRel p addr s
  | .piAlarm p start msg => Sys2Proof.Machine.execPiAlarm p start msg s
  | .piSliceEnd p => Sys2Proof.Machine.execPiSliceEnd p s
  | .pluginStop p => Sys2Proof.Machine.execPluginStop p s
  | .pluginRestart p => Sys2Proof.Machine.execPluginRestart p s
  | .zonePeriod zt c => Sys2Proof.Machine.execZonePeriod zt c s
  | .angWindow z t level => Sys2Proof.Machine.execAngWindow z t level s
  | .receivePacket sid p => Sys2Proof.Machine.execReceivePacket sid p s
  | .outboundPacket sid => Sys2Proof.Machine.execOutboundPacket sid s
  | .switchingPeriod ch k => Sys2Proof.Machine.execSwitchingPeriod ch k s
  | .channelStop ch why => Sys2Proof.Machine.execChannelStop ch why s
  | .channelRestart ch => Sys2Proof.Machine.execChannelRestart ch s
  | .limiterUpdate ch mA => Sys2Proof.Machine.execLimiterUpdate ch mA s
  | .ovlTrip ch => Sys2Proof.Machine.execOvlTrip ch s
  | .supervisionWindow ch m => Sys2Proof.Machine.execSupervisionWindow ch m s
  | .nightRoundStart => Sys2Proof.Machine.execNightRoundStart s
  | .roundStep ch m => Sys2Proof.Machine.execRoundStep ch m s
  | .roundRetry ch => Sys2Proof.Machine.execRoundRetry ch s
  | .roundEnd => Sys2Proof.Machine.execRoundEnd s
  | .pfcCurrentStep k iL vBus => Sys2Proof.Machine.execPfcCurrentStep k iL vBus s
  | .pfcVoltageUpdate k vBus => Sys2Proof.Machine.execPfcVoltageUpdate k vBus s
  | .mainsEventResponse k ev => Sys2Proof.Machine.execMainsEventResponse k ev s
  | .batteryChangeover k v0 v1 => Sys2Proof.Machine.execBatteryChangeover k v0 v1 s
  | .mainsReturn k vBus => Sys2Proof.Machine.execMainsReturn k vBus s
  | .recordFlush => Sys2Proof.Machine.execRecordFlush s
  | .ptpSync offset gm h => Sys2Proof.Machine.execPtpSync offset gm h s
  | .ptpAnnounceTimeout => Sys2Proof.Machine.execPtpAnnounceTimeout s
  | .ptpPathSwitch => Sys2Proof.Machine.execPtpPathSwitch s
  | .takeoverResponse d => Sys2Proof.Machine.execTakeoverResponse d s
  | .threadEccRestart t => Sys2Proof.Machine.execThreadEccRestart t s
  | .clockChange c hz => Sys2Proof.Machine.execClockChange c hz s
  | .laneResetRelease l => Sys2Proof.Machine.execLaneResetRelease l s

end Sys2Proof.Machine
end

