-- ==== Sys2Proof/Machine/Tick.lean ====
section
/-! DEFINITION. What passes at one TCLK edge when no command waits: block time, the clock cycles, late edges that EMIT lets out, handovers that waited for ECLK, the stall detectors (R16, R25, R30, R64, R94, R194, R208, R225). -/
namespace Sys2Proof.Machine

/-- TCLK cycles a second. -/
def tclkHz : Nat := 1200000000

/-- One TCLK edge on a clock of hz: its accumulator and its cycle count. -/
def clockEdge (hz acc cyc : Nat) : Nat × Nat :=
  if tclkHz ≤ acc + hz then (acc + hz - tclkHz, cyc + 1) else (acc + hz, cyc)

/-- Block time advances by 8; each running clock by its share of a cycle; the pin unit counts its own rotations while ECLK is stopped (R30, R194). -/
def Clk.edge (c : Clk) : Clk :=
  let e := clockEdge c.eHz c.eAcc c.ecyc
  let f := clockEdge c.fHz c.fAcc c.fcyc
  let p := clockEdge c.pHz c.pAcc c.pcyc
  let h := clockEdge c.hHz c.hAcc c.hcyc
  { c with bt := c.bt + 8, eAcc := e.1, ecyc := e.2, fAcc := f.1, fcyc := f.2, pAcc := p.1, pcyc := p.2, hAcc := h.1, hcyc := h.2
           tRot := if c.eHz = 0 then c.tRot + 1 else c.tRot }

/-- A handover that waited for ECLK counts from the first rotation boundary that comes (R225). -/
def Pin.strobe (p : Pin) (rot : Nat) : Pin := if p.hoHeld then { p with ho := p.ho.map fun h => (rot + 3, h.2), hoHeld := false } else p

/-- At a rotation boundary the depots capture their pairs, handovers that waited for it begin to count, and the services note the last valid boundary of PMK3 (R25, R52, R225). -/
def boundary (s : State) (rot : Nat) : State :=
  if s.rot = rot then s
  else
    let s := captureRefs s
    noteGrid { s with pins := { s.pins with pins := s.pins.pins.map fun e => (e.1, e.2.strobe s.pinRot) } }

/-- A late edge that EMIT lets out reaches the pad at the TCLK edge after the one that found it late (R208). -/
def Pin.letOut (p : Pin) (bt : Nat) : Pin :=
  match p.emit with
  | some (t, v) => if t ≤ bt then { p.drive bt v true with emit := none } else p
  | none => p
def letOut (s : State) : State :=
  if s.pinRuns then { s with pins := { s.pins with pins := s.pins.pins.map fun e => (e.1, e.2.letOut s.clk.bt) } } else s

/-- Nothing passes in block reset (R433). -/
def tick (s : State) : State := if s.inReset then s else stallTick (letOut (boundary { s with clk := s.clk.edge } s.rot))

end Sys2Proof.Machine
end

