-- ==== Sys2Proof/WellFormed.lean ====
section
/-! DEFINITION. Which commands name things the widest build has: condition codes and spaces that are not reserved, unused fields 0, indices in range (Table 0.1, Table 4.12, R109, R114, R138). -/
namespace Sys2Proof

/-- The operands of a command name units, pins, letterboxes and codes that exist in the FL512 build and are not reserved. The meanings themselves hold for every operand. -/
def Instr.wellFormed : Instr → Bool
  | .sel _ cc _ _ _ | .b _ cc _ _ => decide (cc ≠ 15)
  | .ld _ _ rb sp _ | .st _ _ rb sp _ | .ldd _ _ rb sp _ | .std _ _ rb sp _ => decide (sp ≠ 3 ∧ (sp = 2 → rb = 0))
  | .ldp _ _ _ sp _ | .stp _ _ _ sp _ => decide (sp ≠ 3)
  | .recv _ _ long ch _ => decide (long = true ∨ ch.toNat < 16)
  | .sendeQueuedCommit d e c => decide (d < 32 ∧ e < 16 ∧ c < 16)
  | .recvDelivery d _ | .depotEnable _ d | .depotDrain _ d | .drainComplete d
  | .drainTimeout d | .depXselWrite _ d _ _ | .depLdDataWrite _ d _ | .depLdDataRead _ d
  | .depotStall d | .longChuteReservation d | .longChuteDelivery d | .chuteDlPop _ d
  | .deadLetterMove d | .depReset d | .depResetRelease d | .xferGo _ d _
  | .xferAbort _ d | .xferCodeDone d | .xferFreeze d | .xferFreezeEnd d
  | .xferTimeout d | .takeoverResponse d => decide (d < 32)
  | .twinMismatch d pair group _ => decide (d < 32 ∧ pair < 8 ∧ group < 32)
  | .pmTwinMismatch group => decide (group < 32)
  | .sorterGrant tg | .overdueEntry tg | .houseInsert tg => decide (tg < 96)
  | .eccWriteBack pw => decide (pw < 2097152)
  | .sealLeaseExpiry addr => decide (addr < 4194304)
  | .pmkPosLoRead _ k | .refEnable _ k _ | .refDisable _ k _ | .holdoverExpiry k
  | .refEdge k _ | .crossingWindowEnd k _ => decide (k < 8)
  | .mainsCrossing k _ _ _ => decide (k < 3)
  | .pinOwnWrite _ n _ | .pinFuncWrite _ n _ | .handoverTakeover n | .pinElecWrite _ n _
  | .edgeEntry n | .edgeApply n | .serWordBoundary n | .desWord n _
  | .captureEdge n _ | .pinMismatch n => decide (n < 768)
  | .patternEvent u _ _ => decide (u < 32)
  | .bckEnable _ k | .bckDisable _ k => decide (k < 32)
  | .pinRingEnable _ k _ | .pfcCurrentStep k _ _ | .pfcVoltageUpdate k _ | .mainsEventResponse k _
  | .batteryChangeover k _ _ | .mainsReturn k _ => decide (k < 16)
  | .rxFrame l _ | .txPoll l | .txFrameEnd l _ | .linkDown l
  | .linkUp l | .laneStart _ l | .laneStop _ l | .laneOff l
  | .laneReset l | .laneResetRelease l => decide (l < 8)
  | .txLaunch l q | .txqEnable _ l q _ => decide (l < 8 ∧ q < 8)
  | .lanRingEnable _ k _ => decide (k < 256)
  | .prpForget p _ => decide (p < 4)
  | .ikeyWrite _ i _ => decide (i < 8)
  | .dbgResponseWrite _ i _ => decide (i < 24)
  | .dbgPmHalt _ h | .dbgPmResume _ h | .dbgPmStep _ h | .pmInterrupt h
  | .pmTimerCompare h | .pmUnalignedAccess h _ | .pmLr h _ _ | .pmSc h _ _ _
  | .pmAmo h _ _ _ _ | .pmFenceI h | .pmModeCsrWrite h _ _ | .pmdetWrite h _
  | .pmdcinvWrite h => decide (h < 2)
  | .letterServe n | .replyTimeout n | .sysIdent n | .sysPing n
  | .sysLbAssign n | .sysReportBox n | .sysPstate n | .cfgSet n
  | .cfgGet n | .cfgRegion n | .cfgCommit n | .depotParcel n _
  | .depotTstart n | .depotTctl n | .depotPlace n | .depotSpare n
  | .depotTakeover n | .depotDstatus n | .pinGrant n | .pinReclaim n
  | .pinPstat n | .zoneZparam n | .zoneRoute n | .zoneEq n
  | .zoneEvacMap n | .zoneStoreWrite n | .zoneStoreSeal n | .zoneStoreOpen n
  | .zoneAlarm n | .zoneZstatus n | .streamIn n | .streamOut n
  | .streamRemove n | .streamSstatus n | .lineChannel n | .linePins n
  | .lineBaseline n | .lineRestart n | .lineRestore n | .lineRound n
  | .lineRoundStop n | .powerSupply n | .powerSupplyPins n | .powerSpstat n
  | .pmkTracker n | .pmkUserref n | .pmkPtp n | .pmkRstat n
  | .updateStage n _ | .updateCommit n _ | .updateSwap n _ | .updateConfirm n _
  | .updateUstatus n | .diagDlRead n | .diagCounters n | .secKey n
  | .secPlugin n _ | .secDomain n | .secDbgChallenge n | .secDbgUnlock n => decide (n < 16)
  | .angWindow z _ _ => decide (z < 1024)
  | .receivePacket sid _ | .outboundPacket sid => decide (sid < 2048)
  | .switchingPeriod ch k => decide (ch < 256 ∧ k < 16)
  | .channelStop ch _ | .channelRestart ch | .limiterUpdate ch _ | .ovlTrip ch
  | .supervisionWindow ch _ | .roundStep ch _ | .roundRetry ch => decide (ch < 256)
  | .add .. | .adc .. | .sub .. | .sbb .. | .cmp .. | .neg .. | .abs .. | .min ..
  | .max .. | .and .. | .or .. | .xor .. | .andn .. | .not .. | .tst .. | .mov ..
  | .shl .. | .shr .. | .sar .. | .rol .. | .par .. | .brev .. | .clz .. | .swapb ..
  | .addi .. | .cmpi .. | .andi .. | .ori .. | .xori .. | .movi .. | .tsti .. | .shli ..
  | .shri .. | .sari .. | .bset .. | .bclr .. | .btst .. | .push .. | .pop .. | .mul ..
  | .mac .. | .msu .. | .mulu .. | .macd .. | .msud .. | .clra .. | .lda .. | .sta ..
  | .sha .. | .adda .. | .suba .. | .nega .. | .absa .. | .div .. | .divl .. | .mvs ..
  | .mvf .. | .call .. | .jmpr .. | .callr .. | .ret .. | .loop .. | .loopr .. | .nop ..
  | .brk .. | .xld .. | .xst .. | .xldd .. | .xstd .. | .acq .. | .rel .. | .send ..
  | .sende .. | .take .. | .setpm .. | .getpm .. | .pmrd .. | .addpm .. | .waitp .. | .pedge ..
  | .pflush .. | .pser .. | .pdes .. | .prd .. | .pwr .. | .crcs .. | .crcw .. | .exactOpComplete ..
  | .exchangeResponse .. | .sealGrant .. | .relAck .. | .recvTimeout .. | .sendeTimeout .. | .waitpResume .. | .queueRoom .. | .pdesWord ..
  | .start .. | .stop .. | .stopComplete .. | .resume .. | .abort .. | .depSliceWrite .. | .blockStall | .boostStart ..
  | .boostEnd .. | .unitMessageCommit | .longChuteGrant .. | .hostRead .. | .hostWrite .. | .starveWindowRestart | .scrubRead | .srtCommit ..
  | .sealAliasAcq .. | .sealAliasRel .. | .sealAliasAddrWrite .. | .sealForce .. | .pmkBtLoRead .. | .pmkPtpNsRead .. | .pmkConvStart .. | .ptpRateWrite ..
  | .loadTime .. | .applyStep .. | .markLocked .. | .ptpWatchdogExpiry | .postmarkAlarm | .pinGwWrite .. | .clsWrite .. | .clsRead ..
  | .irqMaskSet .. | .irqMaskClr .. | .irqTestSet .. | .irqTestClr .. | .dbH2pSet .. | .dbH2pClr .. | .dbP2hSet .. | .dbP2hClr ..
  | .dlSet .. | .dlClr .. | .irqSafeSw .. | .irqWdogWrite .. | .wdogKick .. | .watchdogExpiry | .pmRestart .. | .pwrCmdRun ..
  | .pwrCmdTrim .. | .pwrCmdVigil .. | .pwrCmdHold .. | .trimMaskWrite .. | .unitPowerOff .. | .unitClearDone .. | .holdEntered | .wake ..
  | .pmRetentionExit | .powerOff | .romLock .. | .secDomainWrite .. | .dbgChallengeReq .. | .dbgGrantOk .. | .dbgGrantFail .. | .zeroisationDone
  | .aesGo .. | .aesDone | .dbgLevelWrite .. | .dbgCtlWake .. | .dbgHalt .. | .dbgResume .. | .dbgStep .. | .dbgTregAccess ..
  | .dbgSliceAccess .. | .dbgCodeDataRead .. | .traceEnable .. | .traceSample | .tapDbgacc .. | .tapReset | .blockReset | .blockResetRelease ..
  | .dftMode .. | .bootSelftest .. | .bootGo .. | .bootSelect .. | .hmWinWrite .. | .hmResponse .. | .rcRegisterRead .. | .registerWrite ..
  | .letterPoll | .piSleep .. | .piSleepEnd .. | .piYield .. | .piWindow .. | .piSealAcq .. | .piSealRel .. | .piAlarm ..
  | .piSliceEnd .. | .pluginStop .. | .pluginRestart .. | .zonePeriod .. | .nightRoundStart | .roundEnd | .recordFlush | .ptpSync ..
  | .ptpAnnounceTimeout | .ptpPathSwitch | .threadEccRestart .. | .clockChange .. => true

end Sys2Proof
end

