-- ==== Sys2Proof/Safety.lean ====
section
/-! DEFINITION. What claims call a safe state and a safe run: every addressed memory in its canonical form, and no step that stops. -/
namespace Sys2Proof.Machine

/-- The memories of one depot are in canonical form. -/
def Depot.memOk (D : Depot) : Bool := Mem.wf D.edm && Mem.wf D.code

/-- Every addressed memory of the block is in canonical form: addresses rising, no cell equal to the blank byte. -/
def State.memOk (s : State) : Bool :=
  Mem.wf s.xch.mem && Mem.wf s.xch.lb && Mem.wf s.pm.sram && s.deps.all fun e => e.2.memOk

/-- The commands a queue may hold: operands that exist in the widest build. -/
def State.queueOk (s : State) : Bool := s.pending.all Instr.wellFormed

/-- Thread t can issue: it is ready, and its fetch finds a clean instruction (R68, R88). -/
def State.CanIssue (s : State) (t : Tid) : Prop :=
  s.ready t = true ∧ (s.thr t).pc.toNat ≤ 0xBFFF ∧ (s.dep (depOf t)).codeErr.get (s.thr t).pc.toNat none = none

/-- s' is s but for thread t: every other thread, memory, chute and register of the block is the same. -/
def OnlyThr (t : Tid) (s s' : State) : Prop :=
  s' = { s with deps := s'.deps } ∧ (∀ d, d ≠ depOf t → s'.dep d = s.dep d) ∧
  s'.dep (depOf t) = { s.dep (depOf t) with threads := (s'.dep (depOf t)).threads } ∧
  ∀ i, i ≠ idxOf t → (s'.dep (depOf t)).thr i = (s.dep (depOf t)).thr i

/-- The status word w' is w with the flags of u, and SAT set where sat holds; every other bit stays (Table 4.2). -/
def StsAfter (w w' : Word) (u : FlagUpd) (sat : Bool) : Prop :=
  ∀ i, i < 16 → bitAt w' i =
    if i = 3 then u.n.getD (bitAt w 3) else if i = 2 then u.z.getD (bitAt w 2)
    else if i = 1 then u.c.getD (bitAt w 1) else if i = 0 then u.v.getD (bitAt w 0)
    else if i = 7 then bitAt w 7 || sat else bitAt w i

/-- An instruction of thread t completes: W registers as regs gives them, flags as u and sat, every other register of the thread kept, the next instruction chosen by R122; nothing else changes. -/
def AluDone (o : Out) (s : State) (t : Tid) (regs : Reg → Word) (u : FlagUpd) (sat : Bool) : Prop :=
  ∃ s', o = .next s' ∧ OnlyThr t s s' ∧ (∀ r, (s'.thr t).reg r = regs r) ∧ StsAfter (s.thr t).sts (s'.thr t).sts u sat ∧
    s'.thr t = ({ s.thr t with w := (s'.thr t).w, sts := (s'.thr t).sts } : Thread).complete .seq

/-- The registers of h with v in register d. -/
def Thread.withReg (h : Thread) (d : Reg) (v : Word) (r : Reg) : Word := if r = d then v else h.reg r

/-- x lies outside the signed 16-bit range. -/
def outside16 (x : Int) : Bool := decide (x < -32768 ∨ 32767 < x)

/-- The stored word of an exact result x (R105): clamped where SAT_EN holds and x lies outside, else modulo 2^16. -/
def storedWord (satEn : Bool) (x : Int) : Word :=
  if satEn && outside16 x then (if x < 0 then 0x8000 else 0x7FFF) else BitVec.ofInt 16 x

/-- A word instruction whose exact result is x completes by R105: the stored word, Z and N from it, C as given, V and SAT by the range. -/
def SatDone (o : Out) (s : State) (t : Tid) (d : Reg) (x : Int) (carry : Option Bool) : Prop :=
  AluDone o s t ((s.thr t).withReg d (storedWord (bitAt (s.thr t).sts 8) x))
    { n := some (storedWord (bitAt (s.thr t).sts 8) x).msb, z := some (storedWord (bitAt (s.thr t).sts 8) x == 0), c := carry, v := some (outside16 x) }
    (bitAt (s.thr t).sts 8 && outside16 x)

/-- A word instruction with result v and the flags Z and N of it completes. -/
def ZnDone (o : Out) (s : State) (t : Tid) (d : Reg) (v : Word) : Prop :=
  AluDone o s t ((s.thr t).withReg d v) { n := some v.msb, z := some (v == 0) } false

/-- A precise fault of thread t (R89): FAULTED with the code, the pc at the instruction, nothing else changed. -/
def Faulted (o : Out) (s : State) (t : Tid) (c : TFault) : Prop :=
  ∃ s', o = .next s' ∧ OnlyThr t s s' ∧ s'.thr t = { s.thr t with state := .faulted, tfault := c, pend := .none, stepping := false }

/-- Thread t has stored the words ws in its engine memory, each at its word address, with fresh check bits; every other byte, every other thread and all else of the block are the same. -/
def StoresWords (t : Tid) (s s' : State) (ws : List (Nat × Word)) : Prop :=
  s' = { s with deps := s'.deps } ∧ (∀ d, d ≠ depOf t → s'.dep d = s.dep d) ∧
  s'.dep (depOf t) = { s.dep (depOf t) with
    threads := (s'.dep (depOf t)).threads, edm := (s'.dep (depOf t)).edm, edmErr := (s'.dep (depOf t)).edmErr } ∧
  (∀ i, i ≠ idxOf t → (s'.dep (depOf t)).thr i = (s.dep (depOf t)).thr i) ∧
  (∀ e ∈ ws, (s'.dep (depOf t)).word e.1 = e.2 ∧ (s'.dep (depOf t)).edmErr.get e.1 none = none) ∧
  (∀ b, (∀ e ∈ ws, b / 2 ≠ e.1) → (s'.dep (depOf t)).edm.read b = (s.dep (depOf t)).edm.read b) ∧
  (∀ a, (∀ e ∈ ws, a ≠ e.1) → (s'.dep (depOf t)).edmErr.get a none = (s.dep (depOf t)).edmErr.get a none)

/-- An accumulator instruction of thread t with exact result x completes from the registers h0 (R106, R117): ACi takes x modulo 2^40, Z and N from it, V where x lies outside the signed 40-bit range; nothing else changes. -/
def AccDone (o : Out) (s : State) (t : Tid) (h0 : Thread) (i : Fin 2) (x : Int) : Prop :=
  ∃ s', o = .next s' ∧ OnlyThr t s s' ∧
    StsAfter (s.thr t).sts (s'.thr t).sts { n := some (BitVec.ofInt 40 x).msb, z := some (BitVec.ofInt 40 x == 0), v := some (decide (x < -549755813888 ∨ 549755813887 < x)) } false ∧
    s'.thr t = ({ h0 with ac := h0.ac.set i (BitVec.ofInt 40 x), sts := (s'.thr t).sts } : Thread).complete .seq

/-- Agent ag may reach exchange word w (R151, R411, R420): the bank is present and on, debug has level 2, and a normal agent meets a normal word. -/
def State.MayAccess (s : State) (ag : Agent) (w : Nat) : Prop :=
  s.bankHere w = true ∧ s.bankOn w = true ∧ (ag = .dbg → 2 ≤ s.dbg.level.toNat) ∧ (s.secureAgent ag = true ∨ s.wordNormal w = true)

/-- Letter l, of class cls and op op, is in service on letterbox n, Sheow runs, and no letter of LB2 makes it pause (R326). -/
def State.InService (s : State) (n cls op : Nat) (l : Letter) : Prop :=
  s.shUp = true ∧ (s.box n).svc = some l ∧ (n = 2 ∨ (s.box 2).svc = none) ∧ l.cls = cls ∧ l.op = op

/-- The letter l of letterbox n ends: its effect leaves t, and the result r is answered (R321, R322). -/
def Answers (o : Out) (n : Nat) (l : Letter) (t : State) (r : LRes) : Prop := o = .next (replyTo (endService t n) n l r)

/-- As Answers, followed by what the zone service has to report (R330). -/
def ZoneAnswers (o : Out) (n : Nat) (l : Letter) (t : State) (r : LRes) : Prop := o = .next (zoneReports (replyTo (endService t n) n l r))

/-- Every function of s but those of the firmware, its letterboxes and their interrupt bits is the same in t. -/
def OnlySheow (s t : State) : Prop := t = { s with sheow := t.sheow, xch := { s.xch with lb := t.xch.lb, lbErr := t.xch.lbErr }, irq := { s.irq with p2h := t.irq.p2h, dl := t.irq.dl } }

/-- Execution of one command ends in a next state. -/
def Runs (c : Instr) (s : State) : Prop := ∃ t, exec c s = .next t

/-- k steps from s end in t without a fault or a refusal. -/
inductive Steps : Nat → State → State → Prop
  | zero (s : State) : Steps 0 s s
  | succ {k : Nat} {s t u : State} : step s = .next t → Steps k t u → Steps (k + 1) s u

end Sys2Proof.Machine
end

