-- ==== Sys2Proof/Certificates/Slice0/Obligations.lean ====
section
/-! DEFINITION. The obligations: what the commands of the block do, as statements for the provers. -/
open Sys2Proof Sys2Proof.Machine

/-! ### Engine instructions -/

/-- R105, R111, R113: the saturating arithmetic of registers and immediates. A result outside the signed 16-bit range sets V and is clamped, with SAT set, where SAT_EN holds; C is the unsigned carry of an addition, or no borrow of a subtraction. CMP and CMPI set the same flags from the wrapped difference and write no register. -/
def Obligations.SaturatingArithmetic : Prop :=
  ∀ (s : State) (t : Tid) (d a b : Reg) (imm : Word), s.CanIssue t →
    let h := s.thr t
    let x := (h.reg a).toInt
    let y := (h.reg b).toInt
    let m := (h.reg a).toNat
    let n := (h.reg b).toNat
    let k : Nat := if bitAt h.sts 1 then 1 else 0
    SatDone (exec (.add t d a b) s) s t d (x + y) (some (decide (65536 ≤ m + n))) ∧
    SatDone (exec (.adc t d a b) s) s t d (x + y + k) (some (decide (65536 ≤ m + n + k))) ∧
    SatDone (exec (.sub t d a b) s) s t d (x - y) (some (decide (n ≤ m))) ∧
    SatDone (exec (.sbb t d a b) s) s t d (x - y - (1 - k)) (some (decide (n + (1 - k) ≤ m))) ∧
    SatDone (exec (.neg t d a) s) s t d (-x) (some (decide (m = 0))) ∧
    SatDone (exec (.abs t d a) s) s t d (if x < 0 then -x else x) none ∧
    SatDone (exec (.addi t d a imm) s) s t d (x + imm.toInt) (some (decide (65536 ≤ m + imm.toNat))) ∧
    AluDone (exec (.cmp t a b) s) s t h.reg
      { n := some (h.reg a - h.reg b).msb, z := some (h.reg a == h.reg b), c := some (decide (n ≤ m)), v := some (outside16 (x - y)) } false ∧
    AluDone (exec (.cmpi t a imm) s) s t h.reg
      { n := some (h.reg a - imm).msb, z := some (h.reg a == imm), c := some (decide (imm.toNat ≤ m)), v := some (outside16 (x - imm.toInt)) } false

/-- Tables 4.6, 4.7: the logic instructions and MIN and MAX set Z and N from their result and leave C and V; MOV, MOVI, BSET and BCLR change no flag.
R120, Table 4.12: MVS writes a special register, which MVF then reads back without the bits the register lacks; a read-only or absent number raises ILLEGAL. Neither changes a flag, but that MVS writes STS.
The model's own choice in it: log entry 160. -/
def Obligations.LogicMovesAndSpecialRegisters : Prop :=
  (∀ (s : State) (t : Tid) (d a b : Reg) (imm : Word) (n : Fin 16), s.CanIssue t →
     let h := s.thr t
     let x := h.reg a
     let y := h.reg b
     ZnDone (exec (.and t d a b) s) s t d (x &&& y) ∧ ZnDone (exec (.or t d a b) s) s t d (x ||| y) ∧
     ZnDone (exec (.xor t d a b) s) s t d (x ^^^ y) ∧ ZnDone (exec (.andn t d a b) s) s t d (x &&& ~~~ y) ∧
     ZnDone (exec (.not t d a) s) s t d (~~~ x) ∧
     ZnDone (exec (.andi t d a imm) s) s t d (x &&& imm) ∧ ZnDone (exec (.ori t d a imm) s) s t d (x ||| imm) ∧
     ZnDone (exec (.xori t d a imm) s) s t d (x ^^^ imm) ∧
     ZnDone (exec (.min t d a b) s) s t d (if x.toInt ≤ y.toInt then x else y) ∧
     ZnDone (exec (.max t d a b) s) s t d (if x.toInt ≤ y.toInt then y else x) ∧
     AluDone (exec (.tst t a b) s) s t h.reg { n := some (x &&& y).msb, z := some (x &&& y == 0) } false ∧
     AluDone (exec (.tsti t a imm) s) s t h.reg { n := some (x &&& imm).msb, z := some (x &&& imm == 0) } false ∧
     AluDone (exec (.btst t a n) s) s t h.reg { z := some (!bitAt x n.val) } false ∧
     AluDone (exec (.mov t d a) s) s t (h.withReg d x) {} false ∧
     AluDone (exec (.movi t d imm) s) s t (h.withReg d imm) {} false ∧
     (∃ v : Word, (∀ i, i < 16 → bitAt v i = (bitAt x i || decide (i = n.val))) ∧ AluDone (exec (.bset t d a n) s) s t (h.withReg d v) {} false) ∧
     (∃ v : Word, (∀ i, i < 16 → bitAt v i = (bitAt x i && !decide (i = n.val))) ∧ AluDone (exec (.bclr t d a n) s) s t (h.withReg d v) {} false)) ∧
  (∀ (s : State) (t : Tid) (n : BitVec 6) (d : Reg), s.CanIssue t →
     let h := s.thr t
     let v := h.reg d
     let kept : Word := if n = 9 ∨ n = 11 then v &&& 0x3F else if n = 13 then putBit (v &&& 0x8F8F) 14 h.boost.isSome
       else if n = 15 then v &&& 0xCF else if n = 25 then v &&& 3 else v
     (n.toNat ≤ 25 → ∃ h' : Thread, exec (.mvs t n d) s = .next (s.setThr t (h'.complete .seq)) ∧ h'.special t n.toNat = some kept ∧
       h'.w = h.w ∧ h'.pc = h.pc ∧ (n ≠ 13 → h'.sts = h.sts) ∧ h'.ac = h.ac ∧ h'.pm = h.pm ∧ h'.pickup = h.pickup ∧ h'.staging = h.staging) ∧
     (26 ≤ n.toNat → Faulted (exec (.mvs t n d) s) s t .illegal) ∧
     (n.toNat ≤ 28 → ∃ w, h.special t n.toNat = some w ∧ exec (.mvf t d n) s = .next (s.setThr t ((h.setReg d w).complete .seq))) ∧
     (29 ≤ n.toNat → Faulted (exec (.mvf t d n) s) s t .illegal) ∧
     h.special t 12 = some h.lk ∧ h.special t 13 = some (putBit h.sts 14 h.boost.isSome) ∧ h.special t 26 = some (BitVec.ofNat 16 h.pickup.length) ∧
     h.special t 27 = some (BitVec.ofNat 16 h.staging.length) ∧ h.special t 28 = some (t.setWidth 16))

/-- R112: the shifts by the low five bits of a register, or by a fixed amount; SHL by R105. C is the last bit out, unchanged for amount 0; ROL uses four bits and C receives the new bit 0.
Table 4.6: PAR gives the parity of the 16 bits with Z; CLZ the number of leading zeros, 0 to 16, with Z; BREV the low n + 1 bits in reverse order; SWAPB the two bytes exchanged.
The model's own choices in it: log entries 35, 39 and 159. -/
def Obligations.ShiftsAndBitCounts : Prop :=
  (∀ (s : State) (t : Tid) (d a b : Reg) (n : Fin 16), s.CanIssue t →
     let h := s.thr t
     let x := h.reg a
     let m := (h.reg b).toNat % 32
     let left (k : Nat) : Option Bool := if k = 0 then none else some (decide (k ≤ 16) && bitAt x (16 - k))
     let right (k : Nat) : Option Bool := if k = 0 then none else some (bitAt x (k - 1))
     let arith (k : Nat) : Option Bool := if k = 0 then none else some (if k ≤ 16 then bitAt x (k - 1) else bitAt x 15)
     let shr (k : Nat) : Word := BitVec.ofNat 16 (x.toNat / 2 ^ k)
     let sar (k : Nat) : Word := BitVec.ofInt 16 (x.toInt / 2 ^ k)
     SatDone (exec (.shl t d a b) s) s t d (x.toInt * 2 ^ m) (left m) ∧
     SatDone (exec (.shli t d a n) s) s t d (x.toInt * 2 ^ n.val) (left n.val) ∧
     AluDone (exec (.shr t d a b) s) s t (h.withReg d (shr m)) { n := some (shr m).msb, z := some (shr m == 0), c := right m } false ∧
     AluDone (exec (.shri t d a n) s) s t (h.withReg d (shr n.val)) { n := some (shr n.val).msb, z := some (shr n.val == 0), c := right n.val } false ∧
     AluDone (exec (.sar t d a b) s) s t (h.withReg d (sar m)) { n := some (sar m).msb, z := some (sar m == 0), c := arith m } false ∧
     AluDone (exec (.sari t d a n) s) s t (h.withReg d (sar n.val)) { n := some (sar n.val).msb, z := some (sar n.val == 0), c := arith n.val } false ∧
     (∃ v : Word, (∀ i, i < 16 → bitAt v i = bitAt x ((i + 16 - (h.reg b).toNat % 16) % 16)) ∧
       AluDone (exec (.rol t d a b) s) s t (h.withReg d v) { n := some v.msb, z := some (v == 0), c := some (bitAt v 0) } false)) ∧
  (∀ (s : State) (t : Tid) (d a : Reg) (n : Fin 16), s.CanIssue t →
     let h := s.thr t
     let x := h.reg a
     AluDone (exec (.par t d a) s) s t (h.withReg d (BitVec.ofNat 16 ((List.range 16).countP (fun i => bitAt x i) % 2)))
       { z := some ((List.range 16).countP (fun i => bitAt x i) % 2 == 0) } false ∧
     (∃ k, k ≤ 16 ∧ (∀ i, i < k → bitAt x (15 - i) = false) ∧ (k < 16 → bitAt x (15 - k) = true) ∧
       AluDone (exec (.clz t d a) s) s t (h.withReg d (BitVec.ofNat 16 k)) { z := some (k == 0) } false) ∧
     (∃ v : Word, (∀ i, i < 16 → bitAt v i = (decide (i ≤ n.val) && bitAt x (n.val - i))) ∧ ZnDone (exec (.brev t d a n) s) s t d v) ∧
     ZnDone (exec (.swapb t d a) s) s t d (BitVec.ofNat 16 (x.toNat % 256 * 256 + x.toNat / 256)))

/-- R121, R122, R113, Table 4.12: SEL and the transfers of control with a condition other than the reserved code, and the openings of a loop set; code 15 and a bad end address raise ILLEGAL, a fourth set LOOP_DEPTH. They change no flag.
Table 4.12: when each condition code holds, by the bits N, Z, C and V of STS; code 15 is reserved.
R122, R79, R421: what completing an instruction does to a RUNNING thread that no debugger steps: it stays RUNNING with nothing pending; a jump goes to its target, leaving the innermost loop set with lx; else, at the end address of the innermost set, the body repeats while its count is above 1 and the set closes otherwise; else the next address. A stepped thread goes on to HALTED, a STOPPING one has nothing left to wait for.
The model's own choice in it: log entry 161. -/
def Obligations.ControlFlow : Prop :=
  (∀ (s : State) (t : Tid) (cc : Cond) (lx : Bool) (d a b : Reg) (g : Word) (n : BitVec 10), s.CanIssue t →
     let h := s.thr t
     let goes (h' : Thread) (x : Nxt) : Out := .next (s.setThr t (h'.complete x))
     let opens (o : Out) (k : Nat) : Prop :=
       if g.toNat ≤ h.pc.toNat then Faulted o s t .illegal
       else if k = 0 then o = goes h (.jump (g + 1) false)
       else if h.ldep = 3 then Faulted o s t .loopDepth
       else o = goes { h.setLoop h.ldep.toNat { lst := h.pc + 1, len := g, lcn := BitVec.ofNat 16 k } with ldep := h.ldep + 1 } (.jump (h.pc + 1) false)
     (∀ c, condHolds h.sts cc = some c →
       exec (.b t cc lx g) s = goes h (if c then .jump g lx else .seq) ∧
       exec (.sel t cc d a b) s = goes (h.setReg d (if c then h.reg a else h.reg b)) .seq) ∧
     (cc = 15 → Faulted (exec (.b t cc lx g) s) s t .illegal ∧ Faulted (exec (.sel t cc d a b) s) s t .illegal) ∧
     exec (.call t g) s = goes { h with lk := h.pc + 1 } (.jump g false) ∧
     exec (.jmpr t a lx) s = goes h (.jump (h.reg a) lx) ∧
     exec (.callr t a) s = goes { h with lk := h.pc + 1 } (.jump (h.reg a) false) ∧
     exec (.ret t lx) s = goes h (.jump h.lk lx) ∧
     opens (exec (.loop t n g) s) n.toNat ∧ opens (exec (.loopr t a g) s) (h.reg a).toNat ∧
     exec (.nop t) s = goes h .seq ∧
     (s.brkOn (depOf t) = false → exec (.brk t) s = goes h .seq) ∧
     (s.brkOn (depOf t) = true → exec (.brk t) s = .next ((s.setThr t { h.complete .seq with state := .halted, stepping := false }).dbgEvt 0))) ∧
  (∀ (w : Word) (cc : Cond),
     let n := bitAt w 3
     let z := bitAt w 2
     let c := bitAt w 1
     let v := bitAt w 0
     condHolds w cc = ([some true, some z, some (!z), some c, some (!c), some n, some (!n), some v, some (!v), some (c && !z), some (!c || z),
       some (n == v), some (n != v), some (!z && (n == v)), some (z || (n != v)), none][cc.val]?).join) ∧
  ((∀ (h : Thread) (n : Nxt), h.state = .running → h.stepping = true → (h.complete n).state = .stopping ∧ (h.complete n).stopTo = .halted) ∧
   (∀ (h : Thread) (n : Nxt), h.state = .stopping → (h.complete n).state = .stopping ∧ (h.complete n).pend = .none) ∧
   (∀ (h : Thread) (n : Nxt), let r := { h with state := .running, stepping := false }.complete n; (h.complete n).pc = r.pc ∧ (h.complete n).ldep = r.ldep ∧ (h.complete n).loops = r.loops) ∧
   ∀ h : Thread, h.state = .running → h.stepping = false →
     (∀ p lx, h.complete (.jump p lx) =
       { h with pc := p, lastPc := h.pc, pend := .none, ldep := if lx = true ∧ h.ldep ≠ 0 then h.ldep - 1 else h.ldep }) ∧
     (h.ldep = 0 → h.complete .seq = { h with pc := h.pc + 1, lastPc := h.pc, pend := .none }) ∧
     (h.ldep ≠ 0 →
       let i := h.ldep.toNat - 1
       (h.pc ≠ (h.loop i).len → h.complete .seq = { h with pc := h.pc + 1, lastPc := h.pc, pend := .none }) ∧
       (h.pc = (h.loop i).len → 1 < (h.loop i).lcn →
         h.complete .seq = { h.setLoop i { h.loop i with lcn := (h.loop i).lcn - 1 } with pc := (h.loop i).lst, lastPc := h.pc, pend := .none }) ∧
       (h.pc = (h.loop i).len → ¬ 1 < (h.loop i).lcn →
         h.complete .seq = { h with pc := h.pc + 1, lastPc := h.pc, pend := .none, ldep := h.ldep - 1 })))

/-- R83, R102, R107, R114, R115: the slice memory instructions at addresses below the slice size. A load gives the word at the address, a store writes its words and no other byte, no flag changes; LDP and STP step their pointer; PUSH stores below W15, POP loads at W15 and the loaded word wins.
R83, R88, R89, R102, R114: where the slice memory instructions fault, and that a fault changes nothing but the thread's state, its fault code and what was pending. -/
def Obligations.SliceMemory : Prop :=
  (∀ (s : State) (t : Tid) (r b : Reg) (n : Fin 4) (sp : Space) (off : Word), s.CanIssue t →
     let h := s.thr t
     let D := s.dep (depOf t)
     let base := sliceBase (idxOf t) h.slice
     let size := sliceSize h.slice
     let clean (a : Nat) : Prop := D.edmErr.get (base + a) none = none
     let ea : Nat := if sp = 0 then (h.reg b + off).toNat else off.toNat
     let loads (o : Out) (h' : Thread) : Prop := o = .next (s.setThr t (h'.complete .seq))
     let stores (o : Out) (ws : List (Nat × Word)) (h' : Thread) : Prop := ∃ s', o = .next s' ∧ StoresWords t s s' ws ∧ s'.thr t = h'.complete .seq
     (sp = 0 ∨ sp = 2 → ea < size → (clean ea → loads (exec (.ld t r b sp off) s) (h.setReg r (D.word (base + ea)))) ∧
       stores (exec (.st t r b sp off) s) [(base + ea, h.reg r)] h) ∧
     (sp = 0 ∨ sp = 2 → ea + 1 < size → r.val % 2 = 0 →
       (clean ea → clean (ea + 1) → loads (exec (.ldd t r b sp off) s) (h.setPair r (D.word (base + ea + 1) ++ D.word (base + ea)))) ∧
       stores (exec (.std t r b sp off) s) [(base + ea, h.reg r), (base + ea + 1, h.regN (r.val + 1))] h) ∧
     (sp = 0 → (h.ap[n]).toNat < size →
       (clean (h.ap[n]).toNat → loads (exec (.ldp t r n sp off) s) ((h.stepAp n off.toInt).setReg r (D.word (base + (h.ap[n]).toNat)))) ∧
       stores (exec (.stp t r n sp off) s) [(base + (h.ap[n]).toNat, h.reg r)] (h.stepAp n off.toInt)) ∧
     ((h.reg 15 - 1).toNat < size → stores (exec (.push t r) s) [(base + (h.reg 15 - 1).toNat, h.reg r)] (h.setReg 15 (h.reg 15 - 1))) ∧
     ((h.reg 15).toNat < size → clean (h.reg 15).toNat →
       loads (exec (.pop t r) s) ((h.setReg 15 (h.reg 15 + 1)).setReg r (D.word (base + (h.reg 15).toNat))))) ∧
  (∀ (s : State) (t : Tid) (r b : Reg) (n : Fin 4) (sp : Space) (off : Word), s.CanIssue t →
     let h := s.thr t
     let size := sliceSize h.slice
     let ea : Nat := if sp = 0 then (h.reg b + off).toNat else off.toNat
     (sp = 0 ∨ sp = 2 → size ≤ ea → Faulted (exec (.ld t r b sp off) s) s t .sliceRange ∧ Faulted (exec (.st t r b sp off) s) s t .sliceRange) ∧
     (sp = 0 ∨ sp = 2 → size ≤ ea + 1 → r.val % 2 = 0 →
       Faulted (exec (.ldd t r b sp off) s) s t .sliceRange ∧ Faulted (exec (.std t r b sp off) s) s t .sliceRange) ∧
     (sp = 0 → size ≤ (h.ap[n]).toNat → Faulted (exec (.ldp t r n sp off) s) s t .sliceRange ∧ Faulted (exec (.stp t r n sp off) s) s t .sliceRange) ∧
     (size ≤ (h.reg 15 - 1).toNat → Faulted (exec (.push t r) s) s t .sliceRange) ∧
     (size ≤ (h.reg 15).toNat → Faulted (exec (.pop t r) s) s t .sliceRange) ∧
     (r.val % 2 = 1 → Faulted (exec (.ldd t r b sp off) s) s t .illegal ∧ Faulted (exec (.std t r b sp off) s) s t .illegal) ∧
     (sp = 1 → Faulted (exec (.ld t r b sp off) s) s t .illegal ∧ Faulted (exec (.st t r b sp off) s) s t .codeWrite ∧
       Faulted (exec (.ldp t r n sp off) s) s t .illegal ∧ Faulted (exec (.stp t r n sp off) s) s t .codeWrite) ∧
     (sp = 3 → Faulted (exec (.ld t r b sp off) s) s t .illegal ∧ Faulted (exec (.st t r b sp off) s) s t .illegal ∧
       Faulted (exec (.ldp t r n sp off) s) s t .illegal ∧ Faulted (exec (.stp t r n sp off) s) s t .illegal))

/-- R103, R106, R117, R118: the one-rotation accumulator instructions. The accumulator takes the exact result modulo 2^40, Z and N from it, V where the exact result lies outside the signed 40-bit range; C and SAT stay. With operand b in memory the pointer steps by 1. STA stores by R105 and leaves the accumulator.
R104: rounding of a signed value whose low k bits are discarded: the quotient of the arithmetic shift, or one more as RND says. -/
def Obligations.Accumulators : Prop :=
  (∀ (s : State) (t : Tid) (i : Fin 2) (a b : Reg) (k : Fin 4) (n : BitVec 6), s.CanIssue t →
     let h := s.thr t
     let D := s.dep (depOf t)
     let base := sliceBase (idxOf t) h.slice
     let c := (h.acc i).toInt
     let o := (h.acc (if i = 0 then 1 else 0)).toInt
     let q : Int := if bitAt h.sts 9 then 2 else 1
     let x := (h.reg a).toInt
     let pair := (h.pair a).toInt
     (∀ (m : MulB) (y : Word) (h0 : Thread),
       (m = .reg b ∧ y = h.reg b ∧ h0 = h) ∨
       (m = .mem k ∧ (h.ap[k]).toNat < sliceSize h.slice ∧ D.edmErr.get (base + (h.ap[k]).toNat) none = none ∧ y = D.word (base + (h.ap[k]).toNat) ∧ h0 = h.stepAp k 1) →
       AccDone (exec (.mul t i a m) s) s t h0 i (x * y.toInt * q) ∧ AccDone (exec (.mac t i a m) s) s t h0 i (c + x * y.toInt * q) ∧
       AccDone (exec (.msu t i a m) s) s t h0 i (c - x * y.toInt * q) ∧ AccDone (exec (.mulu t i a m) s) s t h0 i ((h.reg a).toNat * y.toNat : Int)) ∧
     AccDone (exec (.clra t i) s) s t h i 0 ∧
     (a.val % 2 = 0 → AccDone (exec (.lda t i a) s) s t h i pair) ∧
     AccDone (exec (.sha t i n) s) s t h i (if 0 ≤ n.toInt then c * 2 ^ n.toInt.toNat else roundBy (fld h.sts 10 2) c n.toInt.natAbs) ∧
     AccDone (exec (.adda t i) s) s t h i (c + o) ∧ AccDone (exec (.suba t i) s) s t h i (c - o) ∧
     AccDone (exec (.nega t i) s) s t h i (-c) ∧ AccDone (exec (.absa t i) s) s t h i (if c < 0 then -c else c) ∧
     SatDone (exec (.sta t i a false) s) s t a (if bitAt h.sts 9 then roundBy (fld h.sts 10 2) c 16 else c) none ∧
     (a.val % 2 = 0 → ∃ v : W32, v.toInt = (if bitAt h.sts 8 then max (-2147483648) (min 2147483647 c) else c.bmod (2 ^ 32)) ∧
       AluDone (exec (.sta t i a true) s) s t (fun r => if r.val = a.val + 1 then v.extractLsb' 16 16 else if r = a then v.extractLsb' 0 16 else h.reg r)
         { n := some v.msb, z := some (v == 0), v := some (decide (c < -2147483648 ∨ 2147483647 < c)) }
         (bitAt h.sts 8 && decide (c < -2147483648 ∨ 2147483647 < c))) ∧
     (a.val % 2 = 1 → Faulted (exec (.lda t i a) s) s t .illegal ∧ Faulted (exec (.sta t i a true) s) s t .illegal)) ∧
  (∀ (v : Int) (k : Nat), 0 < k →
     let q := v / 2 ^ k
     let rem := v % 2 ^ k
     roundBy 0 v k = q ∧
     roundBy 1 v k = (if 2 ^ k ≤ 2 * rem then q + 1 else q) ∧
     roundBy 2 v k = (if 2 ^ k < 2 * rem ∨ (2 * rem = 2 ^ k ∧ q % 2 = 1) then q + 1 else q) ∧
     roundBy 3 v k = (if v < 0 ∧ rem ≠ 0 then q + 1 else q))

/-- R72, R117, R119, R132, R133, Table 3.3: the exact operations block their thread until k rotations after issue, with the result of Table 4.11 for the divisions, and change nothing else; when that rotation has come EXACT_OP_COMPLETE writes the result and the thread goes on. CRCS completes at once with Z.
The model's own choice in it: log entry 7. -/
def Obligations.ExactOperations : Prop :=
  ∀ (s : State) (t : Tid) (i : Fin 2) (d a b : Reg) (k : Fin 4) (byte : Bool),
    let h := s.thr t
    let blocks (o : Out) (k : Nat) (r : ExactRes) : Prop := o = .next (s.setThr t (h.block (.exact (s.rot + k) r)))
    let y := (h.reg b).toInt
    let zn (w : Word) (v : Bool) : FlagUpd := { n := some w.msb, z := some (w == 0), v := some v }
    (s.CanIssue t →
      (∀ d' : Reg, d.val % 2 = 0 → d'.val = d.val + 1 →
        (∃ q r v, blocks (exec (.div t d a b) s) 9 (.regs d d' q r (zn q v)) ∧
          (y = 0 → q = (if 0 ≤ (h.reg a).toInt then 0x7FFF else 0x8000) ∧ r = h.reg a ∧ v = true) ∧
          ((h.reg a).toInt = -32768 → y = -1 → q = 0x7FFF ∧ r = 0 ∧ v = true) ∧
          (y ≠ 0 → ¬((h.reg a).toInt = -32768 ∧ y = -1) → q.toInt = (h.reg a).toInt.tdiv y ∧ r.toInt = (h.reg a).toInt.tmod y ∧ v = false)) ∧
        (a.val % 2 = 0 → ∃ q r v, blocks (exec (.divl t d a b) s) 17 (.regs d d' q r (zn q v)) ∧
          (y = 0 → q = (if 0 ≤ (h.pair a).toInt then 0x7FFF else 0x8000) ∧ r = h.reg a ∧ v = true) ∧
          (y ≠ 0 → outside16 ((h.pair a).toInt.tdiv y) = true → q = (if (h.pair a).toInt.tdiv y < 0 then 0x8000 else 0x7FFF) ∧ r = 0 ∧ v = true) ∧
          (y ≠ 0 → outside16 ((h.pair a).toInt.tdiv y) = false → q.toInt = (h.pair a).toInt.tdiv y ∧ r.toInt = (h.pair a).toInt.tmod y ∧ v = false)) ∧
        (b.val % 2 = 0 →
          let refl := bitAt h.crcp 23
          let c := crc32Word refl (crc32Word refl (h.pair d) (h.reg b)) (h.regN (b.val + 1))
          blocks (exec (.crcw t d b) s) 2 (.regs d d' (c.extractLsb' 0 16) (c.extractLsb' 16 16) { z := some (c == 0) }))) ∧
      (d.val % 2 = 1 → Faulted (exec (.div t d a b) s) s t .illegal ∧ Faulted (exec (.divl t d a b) s) s t .illegal ∧ Faulted (exec (.crcw t d b) s) s t .illegal) ∧
      (∀ (m : MulB) (w : Word) (h0 : Thread), a.val % 2 = 0 →
        (m = .reg b ∧ w = h.reg b ∧ h0 = h) ∨
        (m = .mem k ∧ (h.ap[k]).toNat < sliceSize h.slice ∧ (s.dep (depOf t)).edmErr.get (sliceBase (idxOf t) h.slice + (h.ap[k]).toNat) none = none ∧
          w = (s.dep (depOf t)).word (sliceBase (idxOf t) h.slice + (h.ap[k]).toNat) ∧ h0 = h.stepAp k 1) →
        let p := roundBy (fld h.sts 10 2) ((h.pair a).toInt * w.toInt) (if bitAt h.sts 9 then 15 else 16)
        let f (x : Int) : FlagUpd := { n := some (BitVec.ofInt 40 x).msb, z := some (BitVec.ofInt 40 x == 0), v := some (decide (x < -549755813888 ∨ 549755813887 < x)) }
        let c := (h.acc i).toInt
        exec (.macd t i a m) s = .next (s.setThr t (h0.block (.exact (s.rot + 2) (.acc i (BitVec.ofInt 40 (c + p)) (f (c + p)))))) ∧
        exec (.msud t i a m) s = .next (s.setThr t (h0.block (.exact (s.rot + 2) (.acc i (BitVec.ofInt 40 (c - p)) (f (c - p))))))) ∧
      (a.val % 2 = 1 → ∀ m, Faulted (exec (.macd t i a m) s) s t .illegal ∧ Faulted (exec (.msud t i a m) s) s t .illegal) ∧
      (let v := crcStep (fld h.crcp 16 4 + 1) (bitAt h.crcp 22) (h.crcp.extractLsb' 0 16) (h.reg a) (h.reg b) (if byte then 8 else 16)
       AluDone (exec (.crcs t a b byte) s) s t (h.withReg a v) { z := some (v == 0) } false)) ∧
    (∀ u r, h.pend = .exact u r → s.live t = true →
      (u ≤ s.rot → exec (.exactOpComplete t) s = .next (s.setThr t (((match r with
        | .acc j v f => (h.setAcc j v).flags f
        | .regs r0 r1 v0 v1 f => ((h.setReg r0 v0).setReg r1 v1).flags f) : Thread).complete .seq))) ∧
      (s.rot < u → exec (.exactOpComplete t) s = .next s))

/-- R124: each exchange or seal instruction makes one control-class request of its depot at the sorter, for the word at (XBn + W[q] + k) mod 2^22, and blocks its thread on it; for ACQ only k[14:0] is added and k[15] is try. The pair forms need an even base.
R72, R89, R125: the response of an exchange or seal operation ends it: the registers of a load, W[p], Z and C of an acquire, Z of a release; or the fault it carries is taken. The response is used up; nothing else changes.
The model's own choices in it: log entries 6, 36, 37 and 170. -/
def Obligations.ExchangeOperations : Prop :=
  (∀ (s : State) (t : Tid) (p : Reg) (x : XAddr), s.CanIssue t →
     let h := s.thr t
     let at' (k : Nat) : Nat := ((h.xb[x.n]).toNat + (match x.q with | some q => (h.reg q).toNat | none => 0) + k) % 2 ^ 22
     let a := at' x.k.toNat
     let g := s.srt.nextTag
     let asks (o : Out) (w : Nat) (op : SOp) (pend : Pend) : Prop := o = .next (({ s with srt := { s.srt with
       reqs := s.srt.reqs ++ [{ code := depOf t, target := w / 65536, beats := 1, tag := g, tid := t, op := op }], nextTag := g + 1 } } : State).setThr t
         { h with state := .blocked, pend := pend, lastPc := h.pc })
     asks (exec (.xld t p x) s) a (.load a 1 []) (.xload g p false) ∧
     asks (exec (.xst t p x) s) a (.store a [h.reg p]) (.xstore g) ∧
     (p.val % 2 = 0 → asks (exec (.xldd t p x) s) a (.load a 2 []) (.xload g p true) ∧
       asks (exec (.xstd t p x) s) a (.store a [h.reg p, h.regN (p.val + 1)]) (.xstore g)) ∧
     (p.val % 2 = 1 → Faulted (exec (.xldd t p x) s) s t .illegal ∧ Faulted (exec (.xstd t p x) s) s t .illegal) ∧
     asks (exec (.acq t p x) s) (at' (x.k.toNat % 32768)) (.acq (at' (x.k.toNat % 32768)) (bitAt x.k 15)) (.acq g p) ∧
     asks (exec (.rel t x) s) a (.rel a) (.rel g)) ∧
  (∀ (s : State) (t : Tid) (g : Nat) (p : Reg), s.live t = true →
     let h := s.thr t
     let ends (o : Out) (h' : Thread) : Prop := o = .next ((s.dropResp g).setThr t h')
     (∀ w, h.pend = .xload g p false → s.respOf t g = some (.data [w]) → ends (exec (.exchangeResponse t) s) ((h.setReg p w).complete .seq)) ∧
     (∀ w0 w1, h.pend = .xload g p true → s.respOf t g = some (.data [w0, w1]) → p.val % 2 = 0 →
       ends (exec (.exchangeResponse t) s) ((h.setPair p (w1 ++ w0)).complete .seq)) ∧
     (h.pend = .xstore g → s.respOf t g = some .done → ends (exec (.exchangeResponse t) s) (h.complete .seq)) ∧
     (∀ f, (h.pend = .xstore g ∨ h.pend = .xload g p false ∨ h.pend = .xload g p true) → s.respOf t g = some (.fault f) →
       ends (exec (.exchangeResponse t) s) (h.fault f)) ∧
     (∀ w ok, h.pend = .acq g p → s.respOf t g = some (.seal w ok) →
       ends (exec (.sealGrant t) s) (((h.setReg p w).flags { z := some ok, c := some (ok && bitAt w 14) }).complete .seq)) ∧
     (∀ ok, h.pend = .rel g → s.respOf t g = some (.relAck ok) → ends (exec (.relAck t) s) ((h.flags { z := some ok }).complete .seq)))

/-! ### Chutes -/

/-- R127, R134 to R136, R139, R140, R146: SEND stages while fewer than 15 words are staged. SENDE commits a whole message to an engine chute with room and no queued sender, before one that a higher sender committed in the same cycle, queues on it otherwise, captures a dead letter for a follower engine, and sends a reservation or waits for outbound room for a long chute; a word that names no target raises CHUTE_TARGET. The room of a message taken is free from the second cycle after it was taken.
R126: what a target word names: an engine chute of the sender's depot, of its own engine with self, or a long chute of a depot the build has; a reserved bit or an absent depot names nothing.
R143: the oldest unit message is committed whole where the depot runs, the engine and chute exist and lead, no sender waits and it fits; else it is dropped and its unit counts it; the message for a frozen depot waits.
The model's own choices in it: log entries 9 and 209. -/
def Obligations.ChuteSending : Prop :=
  (∀ (s : State) (t : Tid) (tgt : TgtOp) (p : Reg), s.CanIssue t →
     let h := s.thr t
     let d := depOf t
     let D := s.dep d
     let m := h.staging ++ [h.reg p]
     let tw : Word := match tgt with | .imm k => k | .reg q => h.reg q
     (h.staging.length < 15 → exec (.send t p) s = .next (s.setThr t (({ h with staging := m }.flags { v := some false }).complete .seq))) ∧
     (15 ≤ h.staging.length → exec (.send t p) s = .next (s.setThr t ((h.flags { v := some true }).complete .seq))) ∧
     (targetOf s.nDep (engOf t) tw = none → Faulted (exec (.sende t tgt p) s) s t .chuteTarget) ∧
     (∀ e c, targetOf s.nDep (engOf t) tw = some (.eng e c) →
       let x := D.chute e c
       let now := s.clk.ecyc
       let held := (x.freed.filter fun q => decide (now < q.1 + 2)).map (·.2)
       let room : Prop := x.words + held.sum + m.length ≤ 16 ∧ x.msgs.length + held.length < 16 ∧ x.senders = []
       (¬(s.twin d = true ∧ e % 2 = 1) → room → (∀ f ∈ x.fresh, f.1 = now → f.2.toNat ≤ t.toNat) →
         exec (.sende t tgt p) s = .next (s.setDep d ((D.setChute e c { x with msgs := x.msgs ++ [m], fresh := (x.fresh ++ [(now, t)]).filter fun f => decide (now < f.1 + 2) }).setThr (idxOf t)
           (({ h with staging := [] }.flags { z := some true }).complete .seq)))) ∧
       (∀ u ms m', ¬(s.twin d = true ∧ e % 2 = 1) → room → x.fresh = [(now, u)] → t.toNat < u.toNat → x.msgs = ms ++ [m'] →
         ∃ s', exec (.sende t tgt p) s = .next s' ∧ ((s'.dep d).chute e c).msgs = ms ++ [m, m'] ∧ s'.thr t = ({ h with staging := [] }.flags { z := some true }).complete .seq) ∧
       (¬(s.twin d = true ∧ e % 2 = 1) → ¬ room → (∀ u ∈ x.senders, (now, u) ∈ x.ties → u.toNat ≤ t.toNat) →
         exec (.sende t tgt p) s = .next (s.setDep d ((D.setChute e c { x with senders := x.senders ++ [t], ties := (x.ties.filter fun q => q.1 == now) ++ [(now, t)] }).setThr (idxOf t)
           { h with state := .blocked, pend := .sende e c (h.reg p) s.rot, lastPc := h.pc }))) ∧
       (∀ u r, ¬(s.twin d = true ∧ e % 2 = 1) → x.senders = r ++ [u] → (now, u) ∈ x.ties → t.toNat < u.toNat → (∀ v ∈ r, (now, v) ∉ x.ties) →
         ∃ s', exec (.sende t tgt p) s = .next s' ∧ ((s'.dep d).chute e c).senders = r ++ [t, u] ∧ s'.thr t = { h with state := .blocked, pend := .sende e c (h.reg p) s.rot, lastPc := h.pc }) ∧
       (s.twin d = true → e % 2 = 1 →
         exec (.sende t tgt p) s = .next (s.setDep d ((D.capture { cause := 2, tid := t, target := tw, words := m }).setThr (idxOf t)
           (({ h with staging := [] }.flags { z := some false, v := some true }).complete .seq))))) ∧
     (∀ e l, targetOf s.nDep (engOf t) tw = some (.long e l) →
       (s.outWords d + m.length ≤ 256 → exec (.sende t tgt p) s = .next (({ s with srt := { s.srt with
           reqs := s.srt.reqs ++ [{ code := d, target := 64 + e, beats := 1, tag := s.srt.nextTag, tid := t, op := .resv e l m.length }], nextTag := s.srt.nextTag + 1 } } : State).setThr t
           { h with state := .blocked, pend := .sendeLong s.srt.nextTag e l (h.reg p) s.rot, lastPc := h.pc })) ∧
       (256 < s.outWords d + m.length → exec (.sende t tgt p) s = .next (s.setThr t
           { h with state := .blocked, pend := .sendeBuf e l (h.reg p) s.rot, lastPc := h.pc })))) ∧
  (∀ (n e c d l own : Nat), e < 16 → c < 16 → d < 32 → l < 256 →
     targetOf n own (BitVec.ofNat 16 (e * 16 + c)) = some (.eng e c) ∧
     targetOf n own (BitVec.ofNat 16 (0x4000 + c)) = some (.eng own c) ∧
     (e ≠ 0 → targetOf n own (BitVec.ofNat 16 (0x4000 + e * 16 + c)) = none) ∧
     (∀ x, 0 < x → x < 64 → targetOf n own (BitVec.ofNat 16 (x * 256 + e * 16 + c)) = none) ∧
     targetOf n own (BitVec.ofNat 16 (0x8000 + d * 256 + l)) = (if d < n then some (.long d l) else none) ∧
     (∀ x, 0 < x → x < 4 → targetOf n own (BitVec.ofNat 16 (0x8000 + x * 8192 + d * 256 + l)) = none)) ∧
  (∀ (s : State) (m : UnitMsg) (r : List UnitMsg), s.umsgs = m :: r → bitAt (s.dep m.depot).redir 31 = false →
     let s0 : State := { s with umsgs := r }
     let x := (s.dep m.depot).chute m.engine m.chute
     let held := (x.freed.filter fun q => decide (s.clk.ecyc < q.1 + 2)).map (·.2)
     let takes : Prop := s.depRun m.depot = true ∧ m.engine < 16 ∧ m.chute < 16 ∧ ¬(s.twin m.depot = true ∧ m.engine % 2 = 1) ∧
       x.senders = [] ∧ x.words + held.sum + m.words.length ≤ 16 ∧ x.msgs.length + held.length < 16
     ((s.dep m.depot).xfer.phase = .freeze → exec .unitMessageCommit s = .next s) ∧
     ((s.dep m.depot).xfer.phase ≠ .freeze → takes →
       exec .unitMessageCommit s = .next (s0.setDep m.depot ((s.dep m.depot).setChute m.engine m.chute { x with msgs := x.msgs ++ [m.words] }))) ∧
     ((s.dep m.depot).xfer.phase ≠ .freeze → ¬ takes →
       (m.unit = 0 → exec .unitMessageCommit s = .next { s0 with pmk := { s.pmk with evtLost := satInc s.pmk.evtLost } }) ∧
       (m.unit = 1 → exec .unitMessageCommit s = .next { s0 with pins := { s.pins with msgLost := satInc s.pins.msgLost, evt := setBit s.pins.evt 6 } }) ∧
       (∀ l, m.unit = 2 + l → ∃ s', exec .unitMessageCommit s = .next s' ∧ s'.lan.msgLost = satInc s.lan.msgLost ∧ bitAt (s'.lan.lanes.get l {}).evt 3 = true ∧ s'.umsgs = r ∧ s'.deps = s.deps ∧ s'.pmk = s.pmk ∧ s'.pins = s.pins)))

/-- R127, R134, R135, R138, R144: RECV takes the oldest message that waits in a chute on which no receiver does, not one committed in this cycle or the one before, ends TIMEOUT at once with recv_rot 0, and else blocks in the queue of receivers; a chute field above 15 of an engine chute is ILLEGAL. TAKE reads a word of the pickup buffer, or gives 0 with Z and V beyond it.
The model's own choices in it: log entries 8, 35 and 209. -/
def Obligations.ChuteReceiving : Prop :=
  ∀ (s : State) (t : Tid) (p : Reg) (ch : BitVec 8) (timed : Bool) (i : TakeIdx), s.CanIssue t →
    let h := s.thr t
    let d := depOf t
    let D := s.dep d
    let rr := h.tmo.toNat % 65536
    let got (m : List Word) : Thread := (({ h with pickup := m }.setReg p (BitVec.ofNat 16 m.length)).flags { z := some true, c := some false }).complete .seq
    let none' : Thread := (({ h with pickup := [] }.setReg p 0).flags { z := some false, c := some true }).complete .seq
    let waits (r : ChuteRef) : Thread := { h with state := .blocked, pend := .recv p r (if timed then some (s.rot + rr) else none), lastPc := h.pc }
    let k : Nat := match i with | .imm n => n.val | .reg q => (h.reg q).toNat
    (15 < ch.toNat → Faulted (exec (.recv t p false ch timed) s) s t .illegal) ∧
    (ch.toNat ≤ 15 →
      let x := D.chute (engOf t) ch.toNat
      let now := s.clk.ecyc
      let hidden := (x.fresh.filter fun f => decide (now < f.1 + 2)).length
      (∀ m r, x.msgs = m :: r → hidden ≤ r.length → x.receivers = [] →
        exec (.recv t p false ch timed) s = .next (s.setDep d ((D.setChute (engOf t) ch.toNat { x with msgs := r, freed := (x.freed.filter fun q => decide (now < q.1 + 2)) ++ [(now, m.length)] }).setThr (idxOf t) (got m)))) ∧
      (x.msgs.length ≤ hidden ∨ x.receivers ≠ [] →
        (¬(timed = true ∧ rr = 0) → (∀ u ∈ x.receivers, (now, u) ∈ x.ties → u.toNat ≤ t.toNat) → exec (.recv t p false ch timed) s = .next (s.setDep d
          ((D.setChute (engOf t) ch.toNat { x with receivers := x.receivers ++ [t], ties := (x.ties.filter fun q => q.1 == now) ++ [(now, t)] }).setThr (idxOf t) (waits (.eng (engOf t) ch.toNat))))) ∧
        (timed = true → rr = 0 → exec (.recv t p false ch timed) s = .next (s.setThr t none')))) ∧
    (let x := D.lchute ch.toNat;
      (∀ u m r, x.msgs = (u, m, none) :: r → x.receivers = [] →
        exec (.recv t p true ch timed) s = .next (s.setDep d ((D.setLchute ch.toNat { x with msgs := r }).setThr (idxOf t) (got m)))) ∧
      (∀ u m j u2 m2 r, x.msgs = (u, m, some j) :: (u2, m2, none) :: r → x.receivers = [] → D.dl.length < 8 → ∃ s', exec (.recv t p true ch timed) s = .next s' ∧
        s'.thr t = got m2 ∧ ((s'.dep d).lchute ch.toNat).msgs = r ∧ bitAt s'.irq.safe 2 = true ∧
        (s'.dep d).dl = D.dl ++ [{ cause := 5, tid := u, target := BitVec.ofNat 16 (0x8000 + d * 256 + ch.toNat), words := setAt m j 0 }]) ∧
      (x.msgs = [] → x.receivers = [] → ∃ s', exec (.recv t p true ch timed) s = .next s' ∧
        (¬(timed = true ∧ rr = 0) → s'.thr t = waits (.long ch.toNat) ∧ ((s'.dep d).lchute ch.toNat).receivers = [t]) ∧
        (timed = true → rr = 0 → s'.thr t = none')) ∧
      (x.receivers ≠ [] →
        (¬(timed = true ∧ rr = 0) → (∀ u ∈ x.receivers, (s.clk.ecyc, u) ∈ x.ties → u.toNat ≤ t.toNat) → exec (.recv t p true ch timed) s = .next (s.setDep d
          ((D.setLchute ch.toNat { x with receivers := x.receivers ++ [t], ties := (x.ties.filter fun q => q.1 == s.clk.ecyc) ++ [(s.clk.ecyc, t)] }).setThr (idxOf t) (waits (.long ch.toNat))))) ∧
        (timed = true → rr = 0 → exec (.recv t p true ch timed) s = .next (s.setThr t none')))) ∧
    (∀ v, h.pickup[k]? = some v → exec (.take t p i) s = .next (s.setThr t (((h.setReg p v).flags { z := some (v == 0), n := some v.msb, v := some false }).complete .seq))) ∧
    (h.pickup[k]? = none → exec (.take t p i) s = .next (s.setThr t (((h.setReg p 0).flags { z := some true, v := some true }).complete .seq)))

/-- R137, R138, R144, R145, R388: the events that end a blocked SENDE or RECV. The head of the queued senders commits its whole message and completes where it fits, and nothing moves where it does not; the head of the queued receivers takes the oldest message; a thread of a frozen pair keeps its place; a timed wait whose rotation has come and that nothing has ended ends with the timeout outcome and leaves its queue, but a SENDE that can commit at that boundary commits.
R140 to R142, R146, R147, R173: a long chute with room and no queue grants a reservation, a depot that is not in RUN refuses it as a dead letter; the grant moves the message to the outbound buffer, posts its burst and completes the SENDE with Z; a dead letter is captured in the FIFO of the sender's depot; the burst's arrival puts the message in the chute in the order of the grants, or is dead-lettered where the depot is down or no longer holds the reservation; the FIFO is popped from its oldest record.
The model's own choices in it: log entries 8, 148, 149, 209 and 210. -/
def Obligations.ChuteQueuesAndLongChutes : Prop :=
  (∀ (s : State) (t : Tid) (e c : Nat),
     let d := depOf t
     let D := s.dep d
     let h := s.thr t
     let x := D.chute e c
     let b := s.rot * 8
     let held := (x.freed.filter fun q => decide (b < q.1 + 2)).map (·.2)
     let hidden := (x.fresh.filter fun f => decide (b < f.1 + 2)).length
     (∀ r w n, s.depIssues d = true → x.senders = t :: r → h.pend = .sende e c w n →
       (s.frozen t = true → exec (.sendeQueuedCommit d e c) s = .next s) ∧
       (s.frozen t = false → x.words + held.sum + (h.staging.length + 1) ≤ 16 → x.msgs.length + held.length < 16 → ∃ s' ms, exec (.sendeQueuedCommit d e c) s = .next s' ∧
         ((s'.dep d).chute e c).msgs = x.msgs ++ [h.staging ++ [w]] ++ ms ∧ s'.thr t = ({ h with staging := [] }.flags { z := some true }).complete .seq) ∧
       (16 < x.words + held.sum + (h.staging.length + 1) ∨ 16 ≤ x.msgs.length + held.length → exec (.sendeQueuedCommit d e c) s = .next s)) ∧
     (∀ r u w n p dl, s.depIssues d = true → x.receivers = t :: r → s.frozen t = false → h.pend = .recv p (.eng e c) dl → x.msgs = [] → x.fresh = [] → x.freed = [] → x.senders = [u] → depOf u = d → s.frozen u = false → (s.thr u).pend = .sende e c w n → (s.thr u).staging.length < 16 →
       ∃ s', exec (.recvDelivery d (.eng e c)) s = .next s' ∧ ((s'.dep d).chute e c).senders = [] ∧ ((s'.dep d).chute e c).msgs = [] ∧
         s'.thr t = (({ h with pickup := (s.thr u).staging ++ [w] }.setReg p (BitVec.ofNat 16 ((s.thr u).staging.length + 1))).flags { z := some true, c := some false }).complete .seq) ∧
     (∀ r m ms p dl, s.depIssues d = true → x.senders = [] → x.receivers = t :: r → x.msgs = m :: ms → hidden ≤ ms.length → h.pend = .recv p (.eng e c) dl →
       (s.frozen t = true → exec (.recvDelivery d (.eng e c)) s = .next s) ∧
       (s.frozen t = false → ∃ s', exec (.recvDelivery d (.eng e c)) s = .next s' ∧ ((s'.dep d).chute e c).msgs <:+ ms ∧
         s'.thr t = (({ h with pickup := m }.setReg p (BitVec.ofNat 16 m.length)).flags { z := some true, c := some false }).complete .seq)) ∧
     (∀ p dl, h.pend = .recv p (.eng e c) (some dl) → s.live t = true →
       (dl ≤ s.rot → x.senders = [] → x.msgs = [] → exec (.recvTimeout t) s = .next (s.setDep d ((D.setChute e c { x with receivers := x.receivers.erase t }).setThr (idxOf t)
         ((({ h with pickup := [] }.setReg p 0).flags { z := some false, c := some true }).complete .seq)))) ∧
       (s.rot < dl → exec (.recvTimeout t) s = .next s)) ∧
     (∀ w n, h.pend = .sende e c w n → s.live t = true →
       (bitAt h.tmo 31 = true → n + h.tmo.toNat / 65536 % 32768 ≤ s.rot → (∀ r, x.senders = t :: r → s.depIssues d = true → x.words + held.sum + (h.staging.length + 1) ≤ 16 → x.msgs.length + held.length < 16 →
         ∃ s', exec (.sendeTimeout t) s = .next s' ∧ s'.thr t = ({ h with staging := [] }.flags { z := some true }).complete .seq)) ∧
       (∀ u r w' n', bitAt h.tmo 31 = true → n + h.tmo.toNat / 65536 % 32768 ≤ s.rot → x.senders = u :: r → depOf u = d → (s.thr u).pend = .sende e c w' n' → 16 < x.words + held.sum + ((s.thr u).staging.length + 1) ∨ 16 ≤ x.msgs.length + held.length →
         exec (.sendeTimeout t) s = .next (s.setDep d ((D.setChute e c { x with senders := x.senders.erase t }).setThr (idxOf t)
           ((h.flags { z := some false, c := some true }).complete .seq)))) ∧
       (bitAt h.tmo 31 = false ∨ s.rot < n + h.tmo.toNat / 65536 % 32768 → exec (.sendeTimeout t) s = .next s))) ∧
  (∀ (s : State) (t : Tid) (d l n : Nat) (r : SReq),
     let x := (s.dep d).lchute l
     let h := s.thr t
     let s0 : State := { s with srt := { s.srt with arr := s.srt.arr.filter fun q => q.tag != r.tag } }
     (s.srt.arr.find? (fun q => q.target == 64 + d) = some r → (∀ b ∈ s.srt.bursts, b.target = 64 + d → b.code = r.code → r.no ≤ b.no) → r.op = .resv d l n → bitAt (s.dep d).redir 31 = false →
       (s.depRun d = false → exec (.longChuteReservation d) s = .next (s0.respond r.tid r.tag (.dead 1))) ∧
       (s.depRun d = true → s.depNormal (depOf r.tid) = s.depNormal d → x.words + n ≤ 16 → x.msgs.length + x.granted.length < 16 → x.queue = [] →
         exec (.longChuteReservation d) s = .next ((s0.setDep d ((s.dep d).setLchute l
           { x with granted := x.granted ++ [{ tid := r.tid, len := n, tag := r.tag }] })).respond r.tid r.tag .grant)) ∧
       (s.depRun d = true → s.depNormal (depOf r.tid) = s.depNormal d → (16 < x.words + n ∨ 16 ≤ x.msgs.length + x.granted.length ∨ x.queue ≠ []) →
         exec (.longChuteReservation d) s = .next (s0.setDep d ((s.dep d).setLchute l
           { x with queue := x.queue ++ [{ tid := r.tid, len := n, tag := r.tag }] })))) ∧
     (∀ g w q, s.live t = true → h.pend = .sendeLong g d l w q → s.respOf t g = some .grant → bitAt (s.dep d).redir 31 = false →
       let m : OutMsg := { tid := t, depot := d, lc := l, tag := g, words := h.staging ++ [w] }
       ∃ s', exec (.longChuteGrant t) s = .next s' ∧ s'.thr t = ({ h with staging := [] }.flags { z := some true }).complete .seq ∧
         (s'.dep (depOf t)).outbuf = (s.dep (depOf t)).outbuf ++ [m] ∧
         s'.srt.reqs = s.srt.reqs ++ [{ code := depOf t, target := 64 + d, beats := if m.words.length ≤ 8 then 4 else 8, tag := s.srt.nextTag, tid := t, op := .burst m }] ∧
         s'.respOf t g = none) ∧
     (∀ b, s.srt.bursts = [b] → b.target = 64 + d → (∃ q ∈ s.srt.arr, q.target = 64 + d ∧ q.code = b.code ∧ q.no < b.no) → exec (.longChuteDelivery d) s = .next s) ∧
     (∀ b, s.srt.bursts.find? (fun q => q.target == 64 + d) = some b → (∀ q ∈ s.srt.arr, q.target = 64 + d → q.code = b.code → b.no ≤ q.no) →
       let y := (s.dep d).lchute b.msg.lc
       let src := depOf b.msg.tid
       (∀ v q, s.depRun d = true → y.granted = v :: q → v.tag = b.msg.tag → b.msg.words ≠ [] → (∀ u ∈ q, u.tag ≠ b.msg.tag ∧ u.msg = []) → ∃ s', exec (.longChuteDelivery d) s = .next s' ∧
         ((s'.dep d).lchute b.msg.lc).msgs = y.msgs ++ [(v.tid, b.msg.words, none)] ∧ ((s'.dep d).lchute b.msg.lc).granted = q) ∧
       (∀ v q, s.depRun d = true → y.granted = v :: q → v.tag ≠ b.msg.tag → v.msg = [] → (∃ u ∈ q, u.tag = b.msg.tag) → ∃ s', exec (.longChuteDelivery d) s = .next s' ∧
         ((s'.dep d).lchute b.msg.lc).msgs = y.msgs) ∧
       (s.depRun d = false ∨ (∀ u ∈ y.granted, u.tag ≠ b.msg.tag) → (s.dep src).dl.length < 8 → ∃ s', exec (.longChuteDelivery d) s = .next s' ∧
         (s'.dep src).dl = (s.dep src).dl ++ [{ cause := 1, tid := b.msg.tid, target := BitVec.ofNat 16 (0x8000 + d * 256 + b.msg.lc), words := b.msg.words }])) ∧
     (∀ ag, s.depUp d = true → s.depWriter ag d = true →
       exec (.chuteDlPop ag d) s = .next (s.setDep d { s.dep d with dl := (s.dep d).dl.drop 1 })) ∧
     (∀ D rec, (D : Depot).capture rec = if D.dl.length < 8 then { D with dl := D.dl ++ [rec] }
       else { D with dlLost := if D.dlLost = 0xFFFFFFFF then 0xFFFFFFFF else D.dlLost + 1 }))

/-! ### Postmark and pin instructions -/

/-- R128, R129, Table 4.16: SETPM and GETPM move a triple, ADDPM moves bits [44:0] and leaves the reference, PMRD takes a snapshot of the depot pair of the rotation with sel 0 and reads a word of the latest one otherwise; no flag changes. A triple base above W13 and sel 15 are ILLEGAL.
R52, R53, R62: the outcomes of WAITP at issue and of a blocked wait, by the pairs the depot captured at the present rotation boundary and at the one before: INVALID_REF (Z 0, V 1) where the reference is not valid; LATE (Z 0, C 1, the sticky LATE bit) where the earlier pair had reached the postmark; REACHED (Z 1, C 0) where the present one has; else it blocks, or stays blocked.
The model's own choice in it: log entry 164. -/
def Obligations.PostmarkOperations : Prop :=
  (∀ (s : State) (t : Tid) (n : Fin 2) (p : Reg) (ref : Fin 8) (sel : Fin 16) (cyc : Bool) (imm : Word), s.CanIssue t →
     let h := s.thr t
     let goes (o : Out) (h' : Thread) : Prop := o = .next (s.setThr t (h'.complete .seq))
     let x := h.pm[n]
     let c := s.pair ref.val
     let sn : Snapshot := { pos := BitVec.ofNat 48 (ref.val * 2 ^ 45 + c.pos), bt := BitVec.ofInt 64 c.b, rho := BitVec.ofNat 48 (c.rho / 2 ^ 16), state := BitVec.ofNat 3 c.code, epoch := c.epoch, boundary := BitVec.ofNat 64 s.pmk.capBt }
     let w (y : Snapshot) : Word :=
       if sel.val < 3 then y.pos.extractLsb' (16 * sel.val) 16 else if sel.val = 3 then y.epoch ++ y.state.setWidth 8
       else if sel.val < 8 then y.bt.extractLsb' (16 * (sel.val - 4)) 16 else if sel.val < 11 then y.rho.extractLsb' (16 * (sel.val - 8)) 16
       else y.boundary.extractLsb' (16 * (sel.val - 11)) 16
     (p.val ≤ 13 → goes (exec (.setpm t n p) s) { h with pm := h.pm.set n (h.regN (p.val + 2) ++ h.regN (p.val + 1) ++ h.reg p) } ∧
       goes (exec (.getpm t n p) s) (((h.setReg p (x.extractLsb' 0 16)).setRegN (p.val + 1) (x.extractLsb' 16 16)).setRegN (p.val + 2) (x.extractLsb' 32 16))) ∧
     (13 < p.val → Faulted (exec (.setpm t n p) s) s t .illegal ∧ Faulted (exec (.getpm t n p) s) s t .illegal) ∧
     (∃ y : BitVec 48, y.extractLsb' 45 3 = x.extractLsb' 45 3 ∧
       ((y.extractLsb' 0 45).toNat : Int) = ((x.extractLsb' 0 45).toNat + imm.toInt * (if cyc then 65536 else 1)) % 2 ^ 45 ∧
       goes (exec (.addpm t n cyc imm) s) { h with pm := h.pm.set n y }) ∧
     (sel.val = 0 → goes (exec (.pmrd t p ref sel) s) ({ h with snap := sn }.setReg p (w sn))) ∧
     (sel.val ≠ 0 → sel.val ≠ 15 → goes (exec (.pmrd t p ref sel) s) (h.setReg p (w h.snap))) ∧
     (sel.val = 15 → Faulted (exec (.pmrd t p ref sel) s) s t .illegal)) ∧
  (∀ (s : State) (t : Tid) (n : Fin 2),
     let h := s.thr t
     let k (x : BitVec 48) : Nat := (x.extractLsb' 45 3).toNat
     let passed (x : BitVec 48) (c : RefCap) : Prop := (c.pos + 2 ^ 45 - (x.extractLsb' 0 45).toNat) % 2 ^ 45 < 2 ^ 44
     let now (x : BitVec 48) : RefCap := s.pair (k x)
     let before (x : BitVec 48) : RefCap := s.pairBefore (k x)
     let invalid : Thread := h.flags { z := some false, v := some true }
     let hit : Thread := h.flags { z := some true, c := some false }
     let goes (o : Out) (h' : Thread) : Prop := o = .next (s.setThr t (h'.complete .seq))
     (s.CanIssue t →
       let x := h.pm[n]
       ((now x).valid = false → goes (exec (.waitp t n) s) invalid) ∧
       ((now x).valid = true → passed x (before x) → goes (exec (.waitp t n) s) ({ h with sts := setBit h.sts 15 }.flags { z := some false, c := some true })) ∧
       ((now x).valid = true → ¬ passed x (before x) → passed x (now x) → goes (exec (.waitp t n) s) hit) ∧
       ((now x).valid = true → ¬ passed x (before x) → ¬ passed x (now x) →
         exec (.waitp t n) s = .next (s.setThr t { h with state := .blocked, pend := .waitp x, lastPc := h.pc }))) ∧
     (∀ x, s.live t = true → h.pend = .waitp x →
       ((now x).valid = false → goes (exec (.waitpResume t) s) invalid) ∧
       ((now x).valid = true → passed x (now x) → goes (exec (.waitpResume t) s) hit) ∧
       ((now x).valid = true → ¬ passed x (now x) → exec (.waitpResume t) s = .next s)))

/-- R57, R130, R206, R209, R210: PEDGE posts an edge of its level at the time its operand gives (a postmark converted with the depot pair of the rotation) behind what its depot has sent before, and sets Z with N and V 0; it reports INVALID_REF or FAR in the flags, blocks while the pin's four places are taken, and raises PIN_OWNER for a pin its depot does not own and ILLEGAL for a bad quad. QUEUE_ROOM ends the wait once a place is free. PFLUSH discards every edge of the pin that has not been applied.
R131, R202, R205, R213, R215, Table 4.17: PSER queues a word on a serializer of at most four, PDES takes the next deserializer word with C telling lost ones, PRD reads the pads of a group with every bit the depot does not own 0 (the levels come from outside: any word), PWR drives the pins of a mask; each on owned pins only. QUEUE_ROOM and PDES_WORD end the waits.
The model's own choice in it: log entry 42. -/
def Obligations.PinPosting : Prop :=
  (∀ (s : State) (t : Tid) (p q : Reg) (tm : EdgeTime) (level : Bool),
     let h := s.thr t
     let n := (h.reg p).toNat % 1024
     let w := (h.reg p).toNat
     let goes (o : Out) (h' : Thread) : Prop := o = .next (s.setThr t (h'.complete .seq))
     let posts (m : Nat) (tau : W64) (v : Bool) : State :=
       let s1 := s.setPin m { s.pin m with eqX := (s.pin m).eqX ++ [(tau, v)], lastPair := some (depOf t * 8 + engOf t / 2) }
       { s1 with pins := { s1.pins with xord := s1.pins.xord ++ [(depOf t, m)] } }
     let flushed : State :=
       let s1 := s.setPin w { s.pin w with eq := [], eqX := [], emit := none }
       { s1 with pins := { s1.pins with xord := s1.pins.xord.filter fun e => e.2 != w } }
     let full (m : Nat) : Prop := 4 ≤ (s.pin m).eq.length + (s.pin m).eqX.length
     let good : FlagUpd := { z := some true, n := some false, v := some false }
     (s.CanIssue t →
       (∀ tau, s.ownsPin (depOf t) n = true → (tm = .bt q ∧ q.val % 4 = 0 ∧ tau = h.quad q) ∨
           (∃ i off, tm = .pm i off ∧ s.pairConvert ((h.pm[i]).extractLsb' 45 3 ++ ((h.pm[i]).extractLsb' 0 45 +
             (match off with | some r => (h.reg r).setWidth 45 | none => 0))) = .ok tau) →
         (¬ full n → exec (.pedge t p tm level) s = .next ((posts n tau level).setThr t ((h.flags good).complete .seq))) ∧
         (full n → exec (.pedge t p tm level) s = .next (s.setThr t { h with state := .blocked, pend := .pedge n tau level, lastPc := h.pc }))) ∧
       (∀ i off, s.ownsPin (depOf t) n = true → tm = .pm i off →
         let x := (h.pm[i]).extractLsb' 45 3 ++ ((h.pm[i]).extractLsb' 0 45 + (match off with | some r => (h.reg r).setWidth 45 | none => 0))
         (s.pairConvert x = .invalidRef → goes (exec (.pedge t p tm level) s) (h.flags { z := some false, v := some true })) ∧
         (s.pairConvert x = .far → goes (exec (.pedge t p tm level) s) (h.flags { z := some false, n := some true }))) ∧
       (s.ownsPin (depOf t) n = false → (∀ r, tm = .bt r → r.val % 4 = 0) → Faulted (exec (.pedge t p tm level) s) s t .pinOwner) ∧
       (∀ r : Reg, tm = .bt r → r.val % 4 ≠ 0 → Faulted (exec (.pedge t p tm level) s) s t .illegal) ∧
       (s.ownsPin (depOf t) w = true → exec (.pflush t p) s = .next (flushed.setThr t (h.complete .seq))) ∧
       (s.ownsPin (depOf t) w = false → Faulted (exec (.pflush t p) s) s t .pinOwner)) ∧
     (∀ m tau v, s.live t = true → h.pend = .pedge m tau v →
       (¬ full m → exec (.queueRoom t) s = .next ((posts m tau v).setThr t ((h.flags good).complete .seq))) ∧
       (full m → exec (.queueRoom t) s = .next s))) ∧
  (∀ (s : State) (t : Tid) (p q : Reg),
     let h := s.thr t
     let d := depOf t
     let n := (h.reg p).toNat
     let m := (h.reg q).toNat
     let mask := h.regN (q.val + 1)
     let sends (k : Nat) (w : Word) : State := s.setPin k { s.pin k with serq := (s.pin k).serq ++ [w], lastPair := some (depOf t * 8 + engOf t / 2) }
     (s.CanIssue t →
       (s.ownsPin d n = true → (s.pin n).fsel = 3 → (s.pin n).serq.length < 4 → exec (.pser t p q) s = .next ((sends n (h.reg q)).setThr t (h.complete .seq))) ∧
       (s.ownsPin d n = true → (s.pin n).fsel = 3 → 4 ≤ (s.pin n).serq.length →
         exec (.pser t p q) s = .next (s.setThr t { h with state := .blocked, pend := .pser n (h.reg q), lastPc := h.pc })) ∧
       (s.ownsPin d n = true → (s.pin n).fsel ≠ 3 → exec (.pser t p q) s = .next ((s.setPin n { s.pin n with disc := satAdd (s.pin n).disc 1 }).setThr t (h.complete .seq))) ∧
       (s.ownsPin d n = false → Faulted (exec (.pser t p q) s) s t .pinOwner) ∧
       (∀ w r, s.ownsPin d m = true → (s.pin m).fn = .des → (s.pin m).sink = 1 → (s.pin m).desq = w :: r →
         exec (.pdes t p q) s = .next ((s.setPin m { s.pin m with desq := r, desLost := false }).setThr t
           (((h.setReg p w).flags { c := some (s.pin m).desLost }).complete .seq))) ∧
       (s.ownsPin d m = true → (s.pin m).fn = .des → (s.pin m).desq = [] →
         exec (.pdes t p q) s = .next (s.setThr t { h with state := .blocked, pend := .pdes p m, lastPc := h.pc })) ∧
       (s.ownsPin d m = false → Faulted (exec (.pdes t p q) s) s t .pinOwner) ∧
       (16 * m < s.nPin → ∃ v : Word, (∀ i, i < 16 → s.ownsPin d (16 * m + i) = false → bitAt v i = false) ∧ ∃ s', exec (.prd t p q) s = .next s' ∧
         s'.thr t = (({ h with sts := (s'.thr t).sts } : Thread).setReg p v).complete .seq ∧
         StsAfter h.sts (s'.thr t).sts { n := some v.msb, z := some (v == 0) } false ∧ s'.pins = s.pins) ∧
       (s.nPin ≤ 16 * m → Faulted (exec (.prd t p q) s) s t .pinOwner) ∧
       (q.val % 2 = 0 → 16 * m < s.nPin → (∀ i, i < 16 → bitAt mask i = true → s.ownsPin d (16 * m + i) = true) → ∃ s', exec (.pwr t p q) s = .next s' ∧
         s'.thr t = h.complete .seq ∧ (∀ i, i < 16 → bitAt (s'.gout m) i = if bitAt mask i then bitAt (h.reg p) i else bitAt (s.gout m) i) ∧
         (∀ g, g ≠ m → s'.gout g = s.gout g) ∧ (∀ i, i < 16 → (s.pin (16 * m + i)).fn = .gpio → (s'.pin (16 * m + i)).drv = bitAt (s'.gout m) i)) ∧
       (q.val % 2 = 1 → Faulted (exec (.pwr t p q) s) s t .illegal)) ∧
     (∀ k w, s.live t = true → h.pend = .pser k w → (s.pin k).fsel = 3 → (s.pin k).serq.length < 4 →
       exec (.queueRoom t) s = .next ((sends k w).setThr t (h.complete .seq))) ∧
     (∀ k w r, s.live t = true → h.pend = .pdes p k → (s.pin k).fn = .des → (s.pin k).sink = 1 → (s.pin k).desq = w :: r →
       exec (.pdesWord t) s = .next ((s.setPin k { s.pin k with desq := r, desLost := false }).setThr t
         (((h.setReg p w).flags { c := some (s.pin k).desLost }).complete .seq))))

/-! ### Threads and depots -/

/-- R78 to R80, Tables 3.4, 3.5: the thread commands of an agent that may write the depot, to a thread of a depot in RUN that no freeze holds. START resets the registers and runs at the given pc with W15 at the slice size; STOP withdraws a wait with the pc kept, or lets an operation in flight complete first; STOP_COMPLETE ends in STOPPED; RESUME goes on; ABORT makes the thread IDLE with its staging discarded. From a state the command does not allow, nothing changes but DEP_FSTAT.cmd_err.
The model's own choices in it: log entries 38, 50 and 157. -/
def Obligations.ThreadCommands : Prop :=
  ∀ (s : State) (ag : Agent) (t : Tid) (pc : Word),
    let h := s.thr t
    let d := depOf t
    let reaches : Prop := s.depUp d = true ∧ s.depWriter ag d = true ∧ s.follower t = false ∧ s.depRun d = true ∧ s.frozen t = false
    let refused (o : Out) : Prop := o = .next (s.setDep d { s.dep d with fstat := setBit (s.dep d).fstat 5 })
    (reaches → (h.state = .idle ∨ h.state = .stopped ∨ h.state = .faulted) → bitAt h.slice 15 = true → ∃ s', exec (.start ag t pc) s = .next s' ∧
      (∀ u, u ≠ t → s'.thr u = s.thr u) ∧
      s'.thr t = { state := .running, w := (Vector.replicate 16 (0 : Word)).set 15 (BitVec.ofNat 16 (256 * 2 ^ (h.slice.toNat / 256 % 8))), snap := h.snap, pc := pc, lastPc := pc, boost := h.boost, prio := h.prio, slice := h.slice, tmo := h.tmo } ∧
      (s'.dep d).torn = (if h.staging = [] then (s.dep d).torn else satInc (s.dep d).torn) ∧ (s'.dep d).edm = (s.dep d).edm ∧ s' = { s with deps := s'.deps }) ∧
    (reaches → ¬((h.state = .idle ∨ h.state = .stopped ∨ h.state = .faulted) ∧ bitAt h.slice 15 = true) → refused (exec (.start ag t pc) s)) ∧
    (reaches → (h.state = .running ∨ h.state = .blocked) →
      (h.pend.inFlight = true → exec (.stop ag t) s = .next (s.setThr t { h with state := .stopping, stopTo := .stopped })) ∧
      (h.pend = .none → ∃ s', exec (.stop ag t) s = .next s' ∧ OnlyThr t s s' ∧ s'.thr t = { h with state := .stopping, stopTo := .stopped }) ∧
      (∀ p e c dl, h.pend = .recv p (.eng e c) dl → ∃ s', exec (.stop ag t) s = .next s' ∧
        s'.thr t = { h with state := .stopping, stopTo := .stopped, pend := .none } ∧
        ((s'.dep d).chute e c).receivers = ((s.dep d).chute e c).receivers.erase t ∧ ((s'.dep d).chute e c).msgs = ((s.dep d).chute e c).msgs)) ∧
    (reaches → h.state ≠ .running → h.state ≠ .blocked → refused (exec (.stop ag t) s)) ∧
    (h.state = .stopping → h.pend = .none → h.stopTo = .stopped → s.depUp d = true →
      exec (.stopComplete t) s = .next (s.setThr t { h with state := .stopped })) ∧
    (reaches → h.state = .stopped → exec (.resume ag t) s = .next (s.setThr t { h with state := .running })) ∧
    (reaches → h.state ≠ .stopped → refused (exec (.resume ag t) s)) ∧
    (reaches → h.state ≠ .idle → ∃ s', exec (.abort ag t) s = .next s' ∧ (s'.thr t).state = .idle ∧ (s'.thr t).staging = [] ∧ (s'.thr t).pend = .none ∧
      (s'.thr t).w = h.w ∧ (s'.thr t).sts = h.sts ∧ (s'.dep d).torn = (if h.staging = [] then (s.dep d).torn else satInc (s.dep d).torn)) ∧
    (reaches → h.state = .idle → refused (exec (.abort ag t) s)) ∧
    (s.depUp d = true → s.depWriter ag d = false →
      exec (.start ag t pc) s = .next s ∧ exec (.stop ag t) s = .next s ∧ exec (.resume ag t) s = .next s ∧ exec (.abort ag t) s = .next s)

/-- R71, R81, R82, R87: a legal slice takes effect while its thread is IDLE, STOPPED or FAULTED, and sets cmd_err otherwise; the express selection of eight engines; the loader writes and reads an instruction at DEP_LD_ADDR and steps it, up to 0xBFFF, and is refused during a transfer.
R91, R94, R95, R167: the stall detector of a depot fires once when its condition has held for DEP_STALL_LIM rotations; the block-wide detector flags every live depot and IRQ_SAFE; a holder whose effective priority rises above its own is boosted to it and loses the boost when it falls back. -/
def Obligations.DepotRegistersAndStalls : Prop :=
  (∀ (s : State) (ag : Agent) (t : Tid) (d : Nat) (v : W32), s.depUp d = true → s.depWriter ag d = true → d = depOf t →
     let h := s.thr t
     let D := s.dep d
     let refused (o : Out) : Prop := o = .next (s.setDep d { D with fstat := setBit D.fstat 5 })
     let rest : Prop := h.state = .idle ∨ h.state = .stopped ∨ h.state = .faulted
     let size := v.toNat / 256 % 8
     let legal : Prop := size ≤ 5 ∧ v.toNat % 32 % 2 ^ size = 0
     (rest → legal → exec (.depSliceWrite ag t v) s = .next (s.setThr t { h with slice := v &&& 0x871F })) ∧
     (¬ (rest ∧ legal) → refused (exec (.depSliceWrite ag t v) s)) ∧
     exec (.depXselWrite ag d false v) s = .next (s.setDep d { D with xselLo := v }) ∧
     exec (.depXselWrite ag d true v) s = .next (s.setDep d { D with xselHi := v }) ∧
     (s.xferActive d = false →
       (D.ldAddr.toNat ≤ 0xBFFF → ∃ s', exec (.depLdDataWrite ag d v) s = .next s' ∧ (s'.dep d).codeWord D.ldAddr.toNat = v ∧ (s'.dep d).ldAddr = D.ldAddr + 1 ∧
         (∀ a, a ≠ D.ldAddr.toNat → (s'.dep d).codeWord a = D.codeWord a) ∧ (∀ e, e ≠ d → s'.dep e = s.dep e) ∧ (s'.dep d).threads = D.threads ∧ (s'.dep d).edm = D.edm) ∧
       (0xBFFF < D.ldAddr.toNat → exec (.depLdDataWrite ag d v) s = .next (s.setDep d D))) ∧
     (s.xferActive d = true → refused (exec (.depLdDataWrite ag d v) s)) ∧
     (D.ldAddr.toNat ≤ 0xBFFF → ag ≠ .dbg →
       exec (.depLdDataRead ag d) s = .next { s.setDep d { D with ldAddr := D.ldAddr + 1 } with rdata := D.codeWord D.ldAddr.toNat }) ∧
     (0xBFFF < D.ldAddr.toNat → ag ≠ .dbg → exec (.depLdDataRead ag d) s = .next { s.setDep d D with rdata := 0 })) ∧
  (∀ (s : State) (t : Tid) (d : Nat),
     let D := s.dep d
     (∀ r, D.stallFrom = some r → D.stallLim ≠ 0 → r + D.stallLim.toNat ≤ s.rot → D.stallFired = false → s.stallCond d false = true →
       exec (.depotStall d) s = .next ((s.setDep d { D with stallFired := true }).depEvt d 1)) ∧
     (D.stallFired = true ∨ D.stallFrom = none ∨ D.stallLim = 0 → exec (.depotStall d) s = .next s) ∧
     (s.blockStalled = true → s.irq.bstallFired = false → ∃ s', exec .blockStall s = .next s' ∧
       (∀ e, e ∈ s.liveDepots → bitAt (s'.dep e).fstat 2 = true) ∧ (∀ e, e ∉ s.liveDepots → s'.dep e = s.dep e) ∧
       bitAt s'.irq.safe 7 = true ∧ s'.irq.bstallFired = true) ∧
     (s.blockStalled = false → exec .blockStall s = .next s) ∧
     (s.live t = true → (s.thr t).prio.toNat < s.prioOf (t.setWidth 13) →
       exec (.boostStart t) s = .next (s.setThr t { s.thr t with boost := some (s.prioOf (t.setWidth 13)) })) ∧
     (s.live t = true → (s.thr t).boost ≠ none → s.prioOf (t.setWidth 13) = (s.thr t).prio.toNat →
       exec (.boostEnd t) s = .next (s.setThr t { s.thr t with boost := none })))

/-- R97, R98: setting DEP_CTL.en puts an OFF depot in RUN; clearing it in RUN starts a drain: the depot is DRAINING, no thread of it issues, an operation in flight stays and every other wait is withdrawn with the pc kept, every pin of the depot hands over to HOLD and its safe state. A write of en during DRAINING or CLEARING is held. When nothing is outstanding the depot becomes OFF with drain_done set, its threads IDLE, its chutes and buffers empty, its code store and slices kept, and with nothing else at the sorter or waiting its seals released; a held write of en takes effect then, a depot due to lose power stays OFF and one being zeroised is cleared. Past DEP_DRAIN_TMO with operations outstanding these are counted in DEP_DRAIN_CNT, drain_abort sets, and it becomes OFF the same way. An agent that may not write the depot changes nothing.
The model's own choices in it: log entries 50, 157 and 163. -/
def Obligations.DepotPower : Prop :=
  ∀ (s : State) (ag : Agent) (d : Nat), s.depUp d = true →
    let D := s.dep d
    let zeroised := bitAt s.sec.zdDeps d
    let off (s' : State) : Prop :=
      (s'.dep d).state = (if zeroised then .clearing else if s.dueOff d then .off else if D.enHeld = some true then .run else .off) ∧
      bitAt (s'.dep d).fstat 3 = true ∧ (s'.dep d).chutes = [] ∧ (s'.dep d).lchutes = [] ∧ (s'.dep d).outbuf = [] ∧
      (∀ t : Tid, depOf t = d → (s'.thr t).state = .idle ∧ (s'.thr t).pend = .none ∧ (s'.thr t).staging = [] ∧ (s'.thr t).pickup = []) ∧
      (zeroised = false → (s'.dep d).code = D.code ∧ (s'.dep d).edm = D.edm ∧ ∀ t : Tid, depOf t = d → (s'.thr t).slice = (s.thr t).slice) ∧
      (s.srt.reqs = [] → s.seals.waits = [] → ∀ w x, s'.sealAt w = some x → x.owner.toNat / 128 ≠ d)
    (s.depWriter ag d = true → D.state = .off → exec (.depotEnable ag d) s = .next (if s.dueOff d then s else s.setDep d { D with state := .run, en := true })) ∧
    (s.depWriter ag d = true → D.state = .run → exec (.depotEnable ag d) s = .next s) ∧
    (s.depWriter ag d = true → D.state = .draining ∨ D.state = .clearing → exec (.depotEnable ag d) s = .next (s.setDep d { D with enHeld := some true }) ∧
      exec (.depotDrain ag d) s = .next (s.setDep d { D with enHeld := some false })) ∧
    (s.depWriter ag d = true → D.state = .off → exec (.depotDrain ag d) s = .next (s.setDep d { D with en := false })) ∧
    (s.depWriter ag d = true → D.state = .run → ∃ s', exec (.depotDrain ag d) s = .next s' ∧ (s'.dep d).state = .draining ∧ (s'.dep d).en = false ∧
      (s'.dep d).drainFrom = s.clk.bt ∧ (s'.dep d).drainCnt = 0 ∧ s'.clk = s.clk ∧ s'.xch = s.xch ∧
      (∀ t : Tid, depOf t = d → s'.ready t = false ∧ (s'.thr t).pc = (s.thr t).pc ∧ ((s.thr t).pend.inFlight = true → s'.thr t = s.thr t) ∧
        ((s.thr t).pend.inFlight = false → (s'.thr t).pend = .none)) ∧
      (∀ n, s.ownsPin d n = true → (s'.pin n).fn = .hold ∧ (s'.pin n).fsel = 0 ∧ (s'.pin n).ho = some (s.pinRot + 3, true) ∧ (s'.pin n).eq = [] ∧ (s'.pin n).serq = [])) ∧
    (s.depWriter ag d = false → exec (.depotEnable ag d) s = .next s ∧ exec (.depotDrain ag d) s = .next s) ∧
    (D.state = .draining → s.outstanding d = 0 → ∃ s', exec (.drainComplete d) s = .next s' ∧ off s') ∧
    (D.state ≠ .draining ∨ s.outstanding d ≠ 0 → exec (.drainComplete d) s = .next s) ∧
    (D.state = .draining → s.outstanding d ≠ 0 → D.drainFrom + D.drainTmo.toNat * 9600 ≤ s.clk.bt →
      ∃ s', exec (.drainTimeout d) s = .next s' ∧ off s' ∧ bitAt (s'.dep d).fstat 4 = true ∧ (s'.dep d).drainCnt = satAdd 0 (s.outstanding d)) ∧
    (D.state ≠ .draining ∨ s.outstanding d = 0 ∨ s.clk.bt < D.drainFrom + D.drainTmo.toNat * 9600 → exec (.drainTimeout d) s = .next s)

/-! ### Exchange memory, seals and sorter -/

/-- R172, R174 to R176, R181: what a requester presents is its oldest request and its oldest to another target, less the target of a burst it has in progress. An access to a bank that is Off or clearing is refused without a point. The other requests presented to a target are arbitrated by rank, emergency above overdue above the rest, and then by input: every request but the granted one stays queued, one presented to that target with its wait count raised by 1. While a burst is in progress at the target it holds no point, and with none presented nothing changes.
R150, R151, R152, R140: what the granted request does at its target when it is the only one presented, a control-class access of a thread whose domain may reach the word in a powered bank: a store writes the word and no other, a load returns it, unless the pair-word is uncorrectable; an access to an absent bank reads 0; a reservation and a burst go on to their depot with the number of their pass.
The model's own choices in it: log entries 6, 36, 41 and 170. -/
def Obligations.SorterArbitrationAndAccess : Prop :=
  (∀ (s : State) (tg : Nat), s.inReset = false →
     let rank (r : SReq) : Nat := if 44 ≤ r.code then 2 else if r.overdue then 1 else 0
     let refused (r : SReq) : Prop := r.off s = true
     (∀ r ∈ s.presented tg, r ∈ s.srt.reqs ∧ r.target = tg ∧ r.code < 44 ∧ (∀ b ∈ s.srt.bursts, b.code = r.code → b.target ≠ tg)) ∧
     (∀ (c : Nat) (a : SReq) (l : List SReq), c < 44 → a.target = tg → (s.srt.reqs.filter fun r => r.code == c) = a :: l → (∀ b ∈ s.srt.bursts, b.code ≠ c) → a ∈ s.presented tg) ∧
     (s.presented tg = [] → exec (.sorterGrant tg) s = .next s) ∧
     (∀ r ∈ s.presented tg, refused r → (∀ k, r.op ≠ .ring k) → (∀ q ∈ s.srt.reqs, q.tag = r.tag → q = r) →
       ∃ s', exec (.sorterGrant tg) s = .next s' ∧ ({ tid := r.tid, tag := r.tag, res := .fault .xbus } : Resp) ∈ s'.srt.resps) ∧
     ((∀ r ∈ s.presented tg, ¬ refused r) → (∃ b ∈ s.srt.bursts, b.target = tg) → exec (.sorterGrant tg) s = .next s) ∧
     ((∀ r ∈ s.presented tg, ¬ refused r) → (∀ b ∈ s.srt.bursts, b.target ≠ tg) → s.presented tg ≠ [] → ∃ g s', g ∈ s.presented tg ∧ exec (.sorterGrant tg) s = .next s' ∧
       (∀ r ∈ s.presented tg, rank r ≤ rank g ∧ (rank r = rank g → s.inputOf r.code ≤ s.inputOf g.code)) ∧
       (∀ r ∈ s.srt.reqs, r.tag ≠ g.tag →
         { r with wait := r.wait + (if (s.presented tg).any (fun q => q.tag == r.tag) then 1 else 0) } ∈ s'.srt.reqs))) ∧
  (∀ (s : State) (tg : Nat) (r : SReq) (a : Nat) (v : Word), s.inReset = false → s.presented tg = [r] → r.overdue = false → (∀ b ∈ s.srt.bursts, b.target ≠ tg) →
     let s0 : State := { s with srt := { s.srt with reqs := s.srt.reqs.filter fun q => q.tag != r.tag, blockers := newBlockers s tg r } }
     let answers (s1 : State) (x : XRes) : Out := .next { s1 with srt := { s1.srt with resps := s1.srt.resps ++ [{ tid := r.tid, tag := r.tag, res := x }] } }
     let reaches : Prop := s.bankHere a = true ∧ s.bankOn a = true ∧ (s.depNormal (depOf r.tid) = false ∨ s.wordNormal a = true)
     (r.op = .store a [v] → reaches → s.xch.err.get (a / 2) none = none →
       exec (.sorterGrant tg) s = answers { s0 with xch := { s.xch with mem := s.xch.mem.write16 (2 * a) v } } .done) ∧
     (r.op = .load a 1 [] → reaches → s.xch.err.get (a / 2) none = none →
       exec (.sorterGrant tg) s = answers s0 (.data [s.xch.mem.read16 (2 * a)])) ∧
     (r.op = .load a 1 [] → reaches → s.xch.err.get (a / 2) none = some .double → ∃ s1, exec (.sorterGrant tg) s = answers s1 (.fault .eccXch) ∧
       s1.xch.dbeCnt = satInc s.xch.dbeCnt ∧ bitAt s1.irq.safe 3 = true ∧ s1.xch.mem = s.xch.mem) ∧
     ((∃ n l, r.op = .load a n l) ∨ (∃ l, r.op = .store a l) → s.bankHere a = true → s.bankOn a = true → s.depNormal (depOf r.tid) = true → s.wordNormal a = false →
       ∃ s1, exec (.sorterGrant tg) s = answers s1 (.fault .xbus) ∧ s1.xch = s.xch ∧ bitAt s1.sec.evt 0 = true) ∧
     (r.op = .load a 1 [] → s.bankHere a = false → exec (.sorterGrant tg) s = answers s0 (.data [0])) ∧
     (∀ d l n, r.op = .resv d l n → exec (.sorterGrant tg) s = .next
       { s0 with srt := { s0.srt with arr := s.srt.arr ++ [{ r with no := s.srt.passNo }], passNo := s.srt.passNo + 1 } }) ∧
     (∀ m, r.op = .burst m → exec (.sorterGrant tg) s = .next
       { s0 with srt := { s0.srt with bursts := s.srt.bursts ++ [{ code := r.code, target := r.target, beats := r.beats, msg := m, no := s.srt.passNo }], passNo := s.srt.passNo + 1 } }))

/-- R176 to R178, R182, R183, R185: a presented request whose count has reached its limit enters the overdue lane unless one of its input is there or blocks it; the window counters restart on the grid of their window once it has passed; a commit by a global writer makes the shadow map live exactly when it holds each of the codes 0 to 43 once, else sets map_err.
R152, R153, R179, R180: a house operation corrects a single error that still stands, leaves a clean pair-word, and counts an uncorrectable one; it takes a cycle with no request presented to its bank, and one that has waited 16 FCLK cycles is inserted, at most once in 17. In its slot the scrubber reads the pair-word at its position once its access has won a point of the bank, corrects in a house cycle and counts a single error, counts and latches an uncorrectable one, and moves on to the next slot, wrapping at the end of the build's memory.
The model's own choices in it: log entries 50, 172 and 173. -/
def Obligations.SorterMapAndEcc : Prop :=
  (∀ (s : State) (tg : Nat) (ag : Agent),
     let enters (r : SReq) : Prop := r.overdue = false ∧ max 1 (s.srt.wlim.get r.code 0x10).toNat ≤ r.wait ∧
       (∀ q ∈ s.srt.reqs, q.code = r.code → q.target = tg → q.overdue = false) ∧ (∀ b ∈ s.srt.blockers, ¬(b.1 = tg ∧ b.2.1 = r.code))
     (∃ s' : State, exec (.overdueEntry tg) s = .next s' ∧ s' = { s with srt := { s.srt with reqs := s'.srt.reqs } } ∧ s'.srt.reqs.length = s.srt.reqs.length ∧
       (∀ (i : Nat) (r : SReq), s.srt.reqs[i]? = some r → ∃ b, s'.srt.reqs[i]? = some { r with overdue := b } ∧
         (b = true ↔ r.overdue = true ∨ ∃ q ∈ s.presented tg, q.tag = r.tag ∧ enters q))) ∧
     (∀ n, 1 ≤ n → s.srt.winTick + n * max 1 s.srt.starveWin.toNat ≤ s.usTick → s.usTick < s.srt.winTick + (n + 1) * max 1 s.srt.starveWin.toNat →
       exec .starveWindowRestart s = .next { s with srt := { s.srt with win := [], winTick := s.srt.winTick + n * max 1 s.srt.starveWin.toNat } }) ∧
     (s.usTick < s.srt.winTick + max 1 s.srt.starveWin.toNat → exec .starveWindowRestart s = .next s) ∧
     (s.globalWriter ag = true → s.inReset = false → s.shUp = false →
       (((List.range 44).map fun i => s.srt.shadow.get i i).Perm (List.range 44) → exec (.srtCommit ag) s = .next { s with srt := { s.srt with live := s.srt.shadow } }) ∧
       (¬ ((List.range 44).map fun i => s.srt.shadow.get i i).Perm (List.range 44) →
         exec (.srtCommit ag) s = .next { s with srt := { s.srt with evt := setBit s.srt.evt 1 } })) ∧
     (s.globalWriter ag = false → exec (.srtCommit ag) s = .next s)) ∧
  (∀ (s : State) (tg pw c : Nat) (id : BitVec 13),
     let clean (x : State) : State := { x with xch := { x.xch with err := x.xch.err.set pw none none } }
     let pops (x : State) : State := { x with srt := { x.srt with house := s.srt.house.erase (tg, pw, c, id) } }
     let lost (b x : State) : Prop := x.xch.dbeCnt = satInc b.xch.dbeCnt ∧ bitAt x.irq.safe 3 = true ∧ bitAt x.seals.evt 1 = true ∧ x.xch.mem = b.xch.mem ∧ x.xch.err = b.xch.err
     let slotAt (x : State) : State := { x with srt := { x.srt with houseAt := s.srt.houseAt.set tg (s.clk.fcyc + 1) 0 } }
     let apart : Prop := s.srt.houseAt.get tg 0 = 0 ∨ s.srt.houseAt.get tg 0 + 17 ≤ s.clk.fcyc + 1
     (s.srt.house.find? (fun x => x.2.1 == pw) = some (tg, pw, c, id) → s.presented (2 * pw / 65536) = [] →
       (s.xch.err.get pw none = none → exec (.eccWriteBack pw) s = .next (pops s)) ∧
       (s.xch.err.get pw none = some .single → exec (.eccWriteBack pw) s = .next (clean (pops s))) ∧
       (s.xch.err.get pw none = some .double → ∃ s', exec (.eccWriteBack pw) s = .next s' ∧ lost s s' ∧ s'.srt = (pops s).srt)) ∧
     (s.presented (2 * pw / 65536) ≠ [] → exec (.eccWriteBack pw) s = .next s) ∧
     (s.srt.house.find? (fun x => x.1 == tg && decide (x.2.2.1 + 16 ≤ s.clk.fcyc)) = some (tg, pw, c, id) → apart →
       (s.xch.err.get pw none = none → exec (.houseInsert tg) s = .next (slotAt (pops s))) ∧
       (s.xch.err.get pw none = some .single → exec (.houseInsert tg) s = .next (clean (slotAt (pops s)))) ∧
       (s.xch.err.get pw none = some .double → ∃ s', exec (.houseInsert tg) s = .next s' ∧ lost s s' ∧ s'.srt = (slotAt (pops s)).srt)) ∧
     ((∀ x ∈ s.srt.house, x.1 = tg → s.clk.fcyc < x.2.2.1 + 16) ∨ ¬ apart → exec (.houseInsert tg) s = .next s) ∧
     (pw = s.xch.scrubPos → pw < s.nBank * 32768 → bitAt s.pwr.bankPow (pw / 32768) = true →
       let now := s.clk.bt * (s.nBank * 32768)
       let slot := max 1 s.xch.scrubPeriod.toNat * 9600000000
       let due := s.xch.scrubDue
       let moves (x : State) : State := { x with xch := { x.xch with
         scrubPos := if pw + 1 = s.nBank * 32768 then 0 else pw + 1, scrubDue := (if now < due + slot then due else now) + slot } }
       let s1 := s.atPoint 46 (2 * pw)
       let s2 := ({ s1 with xch := { s1.xch with ceCnt := satInc s1.xch.ceCnt } } : State).houseCycle (2 * pw)
       (s.xch.scrubEn = true → s.pwr.state ≠ .hold → s.pwr.target ≠ some .hold → due ≤ now →
         (s1.xch.err.get pw none = none → exec .scrubRead s = .next (moves s1)) ∧
         (s1.xch.err.get pw none = some .single → s2.xch.err.get pw none = some .single → exec .scrubRead s = .next (moves (clean s2))) ∧
         (s1.xch.err.get pw none = some .double → ∃ s', exec .scrubRead s = .next s' ∧ lost s1 s' ∧ s'.xch.scrubPos = (moves s).xch.scrubPos)) ∧
       (now < due → exec .scrubRead s = .next s)) ∧
     (s.xch.scrubEn = false ∨ s.pwr.state = .hold → exec .scrubRead s = .next s) ∧
     (s.srt.reqs = [] → ∀ c' w, s.atPoint c' w = s ∧ s.houseCycle w = s))

/-- R156, R157, R159 to R162, R164, R165, Tables 5.3, 5.8: the seal alias of an agent that may reach the word, on the state after its access has won a point of the bank. A free seal is granted with the ORPHAN the mirror gives, and the mirror is written with the owner; a held one is read, with a wait registered where another agent holds it. A release by the holder with no waiter frees the seal and clears the mirror, with one agent waiting it passes the seal on and tells that agent; by another it sets rel_err. A write of the address withdraws the wait. An expired lease, and a forced release in the FL128 and FL256, orphan the seal and leave its mirror ORPHAN with the owner; where the holder's own release wins the point of that cycle it comes first, and the seal is not orphaned.
The model's own choices in it: log entries 171, 172 and 175. -/
def Obligations.Seals : Prop :=
  ∀ (s : State) (ag : Agent) (v : W32), s.inReset = false →
    let w := (s.alias ag).addr.toNat
    let id := s.sealId ag
    let word (orphan : Bool) (o : BitVec 13) : Word := BitVec.ofNat 16 (0x8000 + (if orphan then 0x4000 else 0) + o.toNat)
    let code : Nat := match ag with | .hostS => 42 | .hostN => 43 | .dbg => 47 | _ => 41
    let p := s.atPoint code w
    let clean (q : State) (x : Nat) : Prop := q.bankHere x = true ∧ q.bankOn x = true ∧ q.xch.err.get (x / 2) none = none
    let waiters (q : State) (x : Nat) : Prop := ∃ y ∈ q.seals.waits, y.addr = x ∨ q.sealAt y.addr = none
    let orphaned (x : Nat) (o : BitVec 13) (s' : State) : Prop := s'.sealAt x = none ∧ s'.xword x = BitVec.ofNat 16 (0x4000 + o.toNat) ∧
      s'.seals.orphCnt = satInc s.seals.orphCnt ∧ bitAt s'.seals.evt 0 = true
    (s.MayAccess ag w → clean p w → p.sealAt w = none → p.seals.held.length < 1024 →
      let o := bitAt (p.xword w) 15 || bitAt (p.xword w) 14
      ∃ s', exec (.sealAliasAcq ag) s = .next s' ∧ s'.rdata = (word o id).setWidth 32 ∧ s'.xword w = word o id ∧
        (∃ x, s'.sealAt w = some x ∧ x.owner = id ∧ x.orphan = o ∧ x.expiry = (if s.lease id = 0 then none else some (s.usTick + s.lease id + 1))) ∧
        (∀ y, y ≠ w → s'.xword y = p.xword y ∧ s'.sealAt y = p.sealAt y)) ∧
    (∀ x, s.MayAccess ag w → s.bankHere w = true → p.sealAt w = some x →
      (x.owner = id → exec (.sealAliasAcq ag) s = .next { p with rdata := (word x.orphan x.owner).setWidth 32 }) ∧
      (x.owner ≠ id → ∃ s', exec (.sealAliasAcq ag) s = .next s' ∧ s'.rdata = (word x.orphan x.owner).setWidth 32 ∧ s'.sealAt w = some x ∧ (s'.alias ag).wait = true ∧
        s'.seals.waits = (p.seals.waits.filter fun y => y.agent != id) ++ [{ agent := id, addr := w, tag := 0 }])) ∧
    (∀ x, s.MayAccess ag w → clean p w → p.sealAt w = some x → x.owner = id → ¬ waiters p w → ∃ s', exec (.sealAliasRel ag) s = .next s' ∧ s'.sealAt w = none ∧ s'.xword w = 0 ∧
      (∀ y, y ≠ w → s'.xword y = p.xword y ∧ s'.sealAt y = p.sealAt y)) ∧
    (∀ x y (g : Agent), s.MayAccess ag w → clean p w → p.sealAt w = some x → x.owner = id → p.seals.waits = [y] → y.addr = w → y.agent = agentId g → ∃ s', exec (.sealAliasRel ag) s = .next s' ∧ s'.seals.waits = [] ∧ s'.xword w = word false y.agent ∧
      (∃ z, s'.sealAt w = some z ∧ z.owner = y.agent ∧ z.orphan = false ∧ z.expiry = (if s.lease y.agent = 0 then none else some (s.usTick + s.lease y.agent + 1))) ∧
      (let b := s'.seals.banks.get (bankKey g) {}; b.granted = true ∧ b.wait = false ∧ b.word = word false y.agent) ∧
      bitAt s'.seals.evt (match g with | .hostS => 5 | .hostN => 6 | .pmA => 7 | .pmB => 8 | .dbg => 9) = true ∧ (∀ u, u ≠ w → s'.xword u = p.xword u ∧ s'.sealAt u = p.sealAt u)) ∧
    (s.MayAccess ag w → (∀ x, p.sealAt w = some x → x.owner ≠ id) → exec (.sealAliasRel ag) s = .next (p.setAlias ag { p.alias ag with relErr := true })) ∧
    (∃ s', exec (.sealAliasAddrWrite ag v) s = .next s' ∧ (s'.alias ag).addr = v.extractLsb' 0 22 ∧ (s'.alias ag).wait = false ∧
      s'.seals.waits = s.seals.waits.filter fun y => y.agent != id) ∧
    (∀ x e, clean s v.toNat → s.sealAt v.toNat = some x → x.expiry = some e → ¬ waiters s v.toNat →
      (e ≤ s.usTick → s.srt.reqs = [] → ∃ s', exec (.sealLeaseExpiry v.toNat) s = .next s' ∧ orphaned v.toNat x.owner s') ∧
      (∀ r : SReq, e ≤ s.usTick → s.presented (v.toNat / 65536) = [r] → (∀ b ∈ s.srt.bursts, b.target ≠ v.toNat / 65536) → r.op = .rel v.toNat → r.tid.setWidth 13 = x.owner →
        s.depNormal (depOf r.tid) = false ∨ s.wordNormal v.toNat = true → ∃ s', exec (.sealLeaseExpiry v.toNat) s = .next s' ∧ s'.sealAt v.toNat = none ∧ s'.xword v.toNat = 0 ∧
          s'.seals.orphCnt = s.seals.orphCnt ∧ s'.srt.resps = s.srt.resps ++ [{ tid := r.tid, tag := r.tag, res := .relAck true }]) ∧
      (s.usTick < e → exec (.sealLeaseExpiry v.toNat) s = .next s)) ∧
    (∀ x, s.straps.build ≠ .fl512 → (ag = .pmA ∨ ag = .pmB) → s.srt.reqs = [] → clean s (v.toNat % 2 ^ 22) → s.sealAt (v.toNat % 2 ^ 22) = some x → ¬ waiters s (v.toNat % 2 ^ 22) →
      ∃ s', exec (.sealForce ag v) s = .next s' ∧ orphaned (v.toNat % 2 ^ 22) x.owner s') ∧
    (s.straps.build = .fl512 ∨ (ag ≠ .pmA ∧ ag ≠ .pmB) → exec (.sealForce ag v) s = .next { s with seals := { s.seals with evt := setBit s.seals.evt 4 } })

/-- R14, R149, R150, R411, R437 to R439: the host port. On the state after its access has won a point of the bank, an aligned 32-bit write of an exchange pair-word the host may reach stores its two words, low half at the lower address, and nothing else of memory; an aligned read of a clean pair-word returns it on its byte lanes; a request R438 refuses gets an error response with data 0 on every beat and changes nothing else. Every response carries the request's identifier.
The model's own choices in it: log entries 6, 66, 67 and 174. -/
def Obligations.HostPort : Prop :=
  ∀ (s : State) (id : BitVec 6) (sec : Bool) (off : BitVec 25) (v : W64) (n : BitVec 3) (size : BitVec 2), s.portUp = true → s.hrsp.length < 32 →
    let ag : Agent := if sec then .hostS else .hostN
    let a := off.toNat
    let answers (s1 : State) (bs : List (W64 × Bool)) : Out := .next { s1 with hrsp := s.hrsp ++ [{ id := id, beats := bs }] }
    let lane := 8 * (a % 8)
    let p := s.atPoint (if sec then 42 else 43) (a / 2)
    let word := fun b => (p.xch.mem.read b).toNat
    (a < 0x800000 → a % 4 = 0 → s.inHold = false → s.MayAccess ag (a / 2) → p.xch.err.get (a / 4) none = none →
      (∃ s1, exec (.hostWrite id sec off 2 [(v, BitVec.ofNat 8 (15 * 2 ^ (a % 8)))]) s = answers s1 [(0, false)] ∧
        s1 = { p with xch := { p.xch with mem := s1.xch.mem, err := s1.xch.err } } ∧
        (∀ i, i < 4 → s1.xch.mem.read (a + i) = v.extractLsb' (lane + 8 * i) 8) ∧ (∀ b, b < a ∨ a + 4 ≤ b → s1.xch.mem.read b = p.xch.mem.read b)) ∧
      exec (.hostRead id sec off 2 0) s = answers p [(BitVec.ofNat 64 ((word a + 256 * word (a + 1) + 65536 * word (a + 2) + 16777216 * word (a + 3)) * 2 ^ lane), false)]) ∧
    (n ≠ 0 → (size ≠ 3 ∨ 64 < a % 64 + 8 * (n.toNat + 1) ∨ 0x810000 ≤ a) →
      exec (.hostRead id sec off size n) s = answers s (List.replicate (n.toNat + 1) (0, true)) ∧
      (¬(0x10C0000 ≤ a ∧ a < 0x1100000) → ∀ bs, bs.length = n.toNat + 1 → exec (.hostWrite id sec off size bs) s = answers s [(0, true)])) ∧
    (0x810000 ≤ a → ¬(0x10C0000 ≤ a ∧ a < 0x1100000) → ¬(0x1400000 ≤ a ∧ a < 0x1500000) → size ≠ 2 →
      exec (.hostRead id sec off size 0) s = answers s [(0, true)] ∧ ∀ m, exec (.hostWrite id sec off size [(v, m)]) s = answers s [(0, true)])

/-! ### The postmark unit -/

/-- R31, R51: the latched reads of an agent that may read: the low half is returned and the rest latched in the agent's own bank; a conversion leaves its time and status there. An agent that may not read gets 0.
R48, R49, R52, R57: conversion of a postmark of reference 5, block time itself: the BT nearest the present one whose low 45 bits are the postmark's, or FAR where that lies more than 2^33 ahead. At a rotation boundary the depot pair takes the state every reference has at that BT and the former pair becomes that of the boundary before; a conversion with the pair uses its position, its line and its rate.
R42, R62, Tables 2.2, 2.9: enabling a disabled reference in a mode it supports starts ACQUIRING with the fields of the write, a tracker or user reference from the position it holds; disabling an enabled one holds its position and leaves its other fields; an unsupported mode, reference 5, and an enable of an enabled one change nothing, nor does a write by an agent that may not write the window.
The model's own choices in it: log entries 15, 16, 50, 63 and 165. -/
def Obligations.PostmarkReadsAndControl : Prop :=
  (∀ (s : State) (ag : Agent) (k : Nat) (v : W32),
     let lands (o : Out) (f : State → Prop) : Prop := ∃ s', o = .next s' ∧ s' = { s with pmk := { s.pmk with banks := s'.pmk.banks }, rdata := s'.rdata } ∧ f s' ∧
       ∀ x, bankKey (s.who x) ≠ bankKey (s.who ag) → s'.pbank x = s.pbank x
     let x : BitVec 48 := v.extractLsb' 0 16 ++ (s.pbank ag).convLo
     (s.mayRead ag = true →
       lands (exec (.pmkBtLoRead ag) s) (fun s' => s'.rdata.toNat = s.clk.bt % 2 ^ 32 ∧ (s'.pbank ag).btHi.toNat = s.clk.bt / 2 ^ 32 % 2 ^ 32) ∧
       lands (exec (.pmkPtpNsRead ag) s) (fun s' => s'.rdata.toNat = s.ptpNanos ∧
         (s'.pbank ag).secLo.toNat + 2 ^ 32 * (s'.pbank ag).secHi.toNat = s.ptpSecs % 2 ^ 48) ∧
       (k < 8 → lands (exec (.pmkPosLoRead ag k) s) (fun s' => s'.rdata.toNat = s.posAt k s.clk.bt % 2 ^ 32 ∧
         ((s'.pbank ag).posHi.get k 0).toNat = k * 2 ^ 13 + s.posAt k s.clk.bt / 2 ^ 32)) ∧
       (∀ t, s.convert x = .ok t → ∃ s', exec (.pmkConvStart ag v) s = .next s' ∧ (s'.pbank ag).convBt = t ∧ (s'.pbank ag).convSt = 0 ∧ s'.free = s.free) ∧
       (s.convert x = .invalidRef → ∃ s', exec (.pmkConvStart ag v) s = .next s' ∧ (s'.pbank ag).convSt = 1) ∧
       (s.convert x = .far → ∃ s', exec (.pmkConvStart ag v) s = .next s' ∧ (s'.pbank ag).convSt = 2)) ∧
     (s.mayRead ag = false → exec (.pmkBtLoRead ag) s = .next { s with rdata := 0 } ∧ exec (.pmkPtpNsRead ag) s = .next { s with rdata := 0 } ∧
       exec (.pmkPosLoRead ag k) s = .next { s with rdata := 0 } ∧ exec (.pmkConvStart ag v) s = .next s)) ∧
  (∀ (s : State) (x : BitVec 48), x.extractLsb' 45 3 = 5 →
     ∀ b : Int, b % 2 ^ 45 = (x.extractLsb' 0 45).toNat → (s.clk.bt : Int) - 2 ^ 44 ≤ b → b < (s.clk.bt : Int) + 2 ^ 44 →
       s.convert x = (if (s.clk.bt : Int) + 2 ^ 33 < b then .far else .ok (BitVec.ofInt 64 b)) ∧
       (∀ k : Nat, k < 8 → (captureRefs s).pair k = s.refCap k ∧ (captureRefs s).pairBefore k = s.pair k ∧ (captureRefs s).pmk.capBt = s.clk.bt ∧
         (s.refCap k).pos = s.posAt k s.clk.bt ∧ (s.refCap k).valid = s.refValid k) ∧
       (∀ (y : BitVec 48) (d j : Int), let c := s.pair ((y.extractLsb' 45 3).toNat)
         (d - ((y.extractLsb' 0 45).toNat - c.pos)) % 2 ^ 45 = 0 → c.pos < 2 ^ 45 → - 2 ^ 44 ≤ d → d < 2 ^ 44 → 2 * d * c.rho + 2 ^ 40 - 2 ^ 41 < j * 2 ^ 41 → j * 2 ^ 41 ≤ 2 * d * c.rho + 2 ^ 40 →
         s.pairConvert y = if c.valid = false then .invalidRef else if (s.clk.bt : Int) + 2 ^ 33 < c.b + j then .far else .ok (BitVec.ofInt 64 (c.b + j)))) ∧
  (∀ (s : State) (ag : Agent) (k : Nat) (v : W32),
     let r := s.ref k
     let mode := v.toNat / 2 ^ 26 % 4
     let supports : Prop := (k < 3 ∧ mode ≤ 1) ∨ ((k = 3 ∨ k = 4) ∧ mode = 2) ∨ ((k = 6 ∨ k = 7) ∧ mode = 3)
     let others (s' : State) : Prop := (∀ j, j ≠ k → s'.ref j = s.ref j) ∧ s'.clk = s.clk ∧ s'.deps = s.deps ∧ s'.xch.mem = s.xch.mem ∧ s'.pins = s.pins
     (s.pmkWriter ag = true → supports → bitAt r.cfg 31 = false → ∃ s', exec (.refEnable ag k v) s = .next s' ∧ (s'.ref k).state = .acquiring ∧
       (s'.ref k).cfg = (setBit v 31 &&& 0x8FFFE000) ∧ (k ≠ 3 → k ≠ 4 → (s'.ref k).b = s.clk.bt ∧ (s'.ref k).p = r.posFine s.clk.bt) ∧ (s'.ref k).epoch = r.epoch ∧ others s') ∧
     (s.pmkWriter ag = true → supports → bitAt r.cfg 31 = true → exec (.refEnable ag k v) s = .next s ∧
       ∃ s', exec (.refDisable ag k v) s = .next s' ∧ (s'.ref k).state = .disabled ∧ (s'.ref k).cfg = clrBit r.cfg 31 ∧
         (s'.ref k).p = r.posFine s.clk.bt ∧ ((k = 3 ∨ k = 4) → s'.ptpFloor k = s.posRaw k s.clk.bt) ∧ (s'.ref k).epoch = r.epoch ∧ others s') ∧
     (¬ supports → exec (.refEnable ag k v) s = .next s ∧ exec (.refDisable ag k v) s = .next s) ∧
     (s.pmkWriter ag = false → exec (.refEnable ag k v) s = .next s ∧ exec (.refDisable ag k v) s = .next s))

/-- R35, R39 to R41, R47, R200, R216, R450, R451, Table 2.4: the events of a tracker. In COMP mode a crossing lies at the mean of the two transitions of its pin, in SAMP mode between two samples of its decimator. A crossing within 30° of the expected one is absorbed by the loop and clears the misses, one beyond it re-locks with its event; the first in ACQUIRING begins the first stage; the fourth of the second stage locks with LOCK and a new epoch; a second good one in HOLDOVER restores without one. A missing crossing counts MISS, the third loses the lock; the holdover time leads to INVALID. A SAMP tracker takes the level of the half-cycle and raises SAG below its bound.
The model's own choices in it: log entries 17, 155, 156 and 166 to 168. -/
def Obligations.TrackerEvents : Prop :=
  ∀ (s : State) (k t1 t2 : Nat) (rising : Bool), s.inReset = false →
    let r := s.ref k
    let tx := (t1 + t2) / 2
    let n := r.cfg.toNat / 65536 % 1024
    let p := s.pin n
    let h := nearHalf (r.line tx) rising
    let e := h * 2 ^ 31 - r.line tx
    let quiet : Prop := k < 3 ∧ r.samp = false ∧ p.fn = .comp ∧ t1 ≤ s.clk.bt ∧ t2 ≤ s.clk.bt ∧ r.lastX < tx
    let edge : Prop := (k = 6 ∨ k = 7) ∧ p.fn = .ref ∧ p.blankBt ≤ tx ∧ tx ≤ s.clk.bt ∧ r.lastX < tx
    (quiet → r.state = .locked → rising = false →
      (12 * e.natAbs ≤ 2 ^ 32 → ∃ s', exec (.mainsCrossing k rising t1 t2) s = .next s' ∧
        s'.ref k = { r.absorb s.clk.bt tx e 2 with nextC := (h + 1).toNat, miss := 0, lastX := tx, lastRise := false } ∧ ∀ j, j ≠ k → s'.ref j = s.ref j) ∧
      (2 ^ 32 < 12 * e.natAbs → ∃ s', exec (.mainsCrossing k rising t1 t2) s = .next s' ∧ (s'.ref k).state = .locked ∧ bitAt (s'.ref k).evt 4 = true ∧
        (s'.ref k).miss = 0 ∧ (s'.ref k).lastX = tx)) ∧
    (quiet → r.state = .acquiring → rising = true → r.acq = [] → r.stage2 = none → ∃ s', exec (.mainsCrossing k rising t1 t2) s = .next s' ∧
      s'.ref k = { r with acq := [tx], lastX := tx, lastRise := true }) ∧
    (∀ last sum, quiet → (r.state = .acquiring ∨ r.state = .invalid) → rising = true → r.stage2 = some (3, last, sum) →
      ((4 * tx : Int) - 4 * last - 4 * sum).natAbs * 360 < sum → ∃ s', exec (.mainsCrossing k rising t1 t2) s = .next s' ∧
        (s'.ref k).state = .locked ∧ (s'.ref k).epoch = r.epoch + 1 ∧ bitAt (s'.ref k).evt 0 = true ∧ (s'.ref k).everLocked = true) ∧
    (quiet → r.state = .holdover → goodCrossing r k rising tx 0 = true → r.good = 1 → ∃ s', exec (.mainsCrossing k rising t1 t2) s = .next s' ∧
      (s'.ref k).state = .locked ∧ (s'.ref k).epoch = r.epoch ∧ bitAt (s'.ref k).evt 8 = true) ∧
    (k < 3 → r.samp = true → p.fn = .des → r.dec.crosses rising = true → r.lastX < r.dec.crossAt → r.dec.crossAt ≤ s.clk.bt → r.state ≠ .disabled →
      ∃ s', exec (.mainsCrossing k rising t1 t2) s = .next s' ∧ (s'.ref k).lastX = r.dec.crossAt ∧ (s'.ref k).lastRise = rising ∧ (s'.ref k).rms.toNat = min (s.halfLevel k) 65535 ∧
        (s.halfLevel k < 100 * (r.bound.toNat / 65536 % 256) → r.sagged = false → bitAt (s'.ref k).evt 1 = true)) ∧
    (edge → r.state = .acquiring → r.samp = false → r.acq = [] → r.stage2 = none →
      ∃ s', exec (.refEdge k tx) s = .next s' ∧ s'.ref k = { r with acq := [tx], lastX := tx, lastRise := true }) ∧
    (r.state = .disabled → exec (.mainsCrossing k rising t1 t2) s = .next s ∧ exec (.refEdge k tx) s = .next s) ∧
    ((r.samp = false ∧ p.fn ≠ .comp) ∨ (r.samp = true ∧ p.fn ≠ .des) → exec (.mainsCrossing k rising t1 t2) s = .next s) ∧
    (p.fn ≠ .ref → exec (.refEdge k tx) s = .next s) ∧
    ((k < 3 ∨ k = 6 ∨ k = 7) → r.state = .locked → ((r.nextC * 2 ^ 31 + 2 ^ 29 : Nat) : Int) ≤ r.line s.clk.bt →
      (r.miss < 2 → ∃ s', exec (.crossingWindowEnd k r.nextC) s = .next s' ∧ (s'.ref k).state = .locked ∧ (s'.ref k).miss = r.miss + 1 ∧ bitAt (s'.ref k).evt 5 = true) ∧
      (2 ≤ r.miss → ∃ s', exec (.crossingWindowEnd k r.nextC) s = .next s' ∧ bitAt (s'.ref k).evt 5 = true ∧ bitAt (s'.ref k).evt 6 = true ∧
        (s'.ref k).state = (if r.hold.toNat % 65536 = 0 then .invalid else .holdover) ∧ (s'.ref k).epoch = r.epoch)) ∧
    (∀ c, c ≠ r.nextC ∨ r.state ≠ .locked → exec (.crossingWindowEnd k c) s = .next s) ∧
    (r.state = .holdover → r.holdFrom + r.holdBt ≤ s.clk.bt → ∃ s', exec (.holdoverExpiry k) s = .next s' ∧ (s'.ref k).state = .invalid ∧ bitAt (s'.ref k).evt 7 = true) ∧
    (r.state = .holdover → s.clk.bt < r.holdFrom + r.holdBt → exec (.holdoverExpiry k) s = .next s)

/-- R43 to R46, R60: the PTP commands of the Postmaster. A rate write keeps the time so far; the time is loaded only while PMK3 and PMK4 are both not valid; a step within one second moves the time and sets STEPPED in each enabled PTP reference; MARK_LOCKED locks them, with a new epoch but from HOLDOVER; the watchdog loses the lock of each; the alarm fires once when its postmark is reached.
The model's own choices in it: log entries 16, 153 and 154. -/
def Obligations.PtpCommands : Prop :=
  ∀ (s : State) (ag : Agent) (v : W32) (k : Nat),
    let ns : Nat := 48 * 2 ^ 44
    let on : Prop := (s.ref k).state ≠ .disabled
    (isPm ag = true → s.inReset = false →
      (∃ s', exec (.ptpRateWrite ag v) s = .next s' ∧ s'.pmk.rate = v ∧ s'.ptpNow = s.ptpNow ∧ s'.pmk.wdogFrom = s.clk.bt ∧ s'.pmk.refs = s.pmk.refs) ∧
      (s.refValid 3 = false → s.refValid 4 = false → ∃ s', exec (.loadTime ag) s = .next s' ∧
        s'.ptpNow = (s.pmk.setSec.toNat * 1000000000 + s.pmk.setNs.toNat) * ns ∧ s'.pmk.refs = s.pmk.refs) ∧
      (s.refValid 3 = true ∨ s.refValid 4 = true → exec (.loadTime ag) s = .next s) ∧
      (s.pmk.step.toInt.natAbs ≤ 1000000000 → ∃ s', exec (.applyStep ag) s = .next s' ∧ s'.ptpNow = ((s.ptpNow : Int) + s.pmk.step.toInt * ns).toNat ∧
        s'.pmk.wdogFrom = s.clk.bt ∧ ((k = 3 ∨ k = 4) → on → bitAt (s'.ref k).evt 9 = true) ∧ ((k = 3 ∨ k = 4) → ¬ on → s'.ref k = s.ref k)) ∧
      (1000000000 < s.pmk.step.toInt.natAbs → exec (.applyStep ag) s = .next { s with pmk := { s.pmk with wdogFrom := s.clk.bt } }) ∧
      (∃ s', exec (.markLocked ag) s = .next s' ∧ ((k = 3 ∨ k = 4) → on → (s'.ref k).state = .locked ∧
        (s'.ref k).epoch = (if (s.ref k).state = .acquiring ∨ (s.ref k).state = .invalid then (s.ref k).epoch + 1 else (s.ref k).epoch)) ∧
        ((k = 3 ∨ k = 4) → ¬ on → (s'.ref k).state = .disabled))) ∧
    (isPm ag = false → exec (.ptpRateWrite ag v) s = .next s ∧ exec (.loadTime ag) s = .next s ∧ exec (.applyStep ag) s = .next s ∧ exec (.markLocked ag) s = .next s) ∧
    (s.pmk.wdog ≠ 0 → s.pmk.wdogFrom + s.pmk.wdog.toNat * 9600000 ≤ s.clk.bt → s.inReset = false → ∃ s', exec .ptpWatchdogExpiry s = .next s' ∧
      ((k = 3 ∨ k = 4) → (s.ref k).state = .locked → (s'.ref k).state = (if (s.ref k).hold.toNat % 65536 = 0 then .invalid else .holdover) ∧ bitAt (s'.ref k).evt 6 = true)) ∧
    (s.pmk.wdog = 0 → exec .ptpWatchdogExpiry s = .next s) ∧
    (let j := (s.pmk.alarmPm.extractLsb' 45 3).toNat;
     s.pmk.alarmEn = true → s.inReset = false → s.refValid j = true → (s.posAt j s.clk.bt + 2 ^ 45 - (s.pmk.alarmPm.extractLsb' 0 45).toNat) % 2 ^ 45 < 2 ^ 44 →
      ∃ s', exec .postmarkAlarm s = .next s' ∧ s'.pmk = { s.pmk with alarm := true, alarmEn := false } ∧
        s'.pwr = (if s.pwr.state = .hold ∨ s.pwr.target = some .hold then { s.pwr with wakePend := setBit s.pwr.wakePend 2 } else s.pwr)) ∧
    (s.pmk.alarmEn = false → exec .postmarkAlarm s = .next s)

/-! ### The pin unit -/

/-- R189 to R199, Tables 7.6 to 7.8: writes of the owner, the function and the electrical options. A change of owner starts a handover to HOLD, or with seamless between two depots none; a normal owner of a secure pin, and a writer of less than global rank, is refused with cause 1. A function that its owner, options and rings allow is taken and starts a handover that empties the queues, counts what it discards, and takes over at rotation r + 3; any other is refused with its cause. A write of the electrical options keeps a reserved threshold or hysteresis code as it was, and one that changes threshold, hysteresis or ana blanks the input for 16 TCLK cycles.
R192, R199, R217, Table 7.6: why a function is refused: a reserved code, an EDGE, SER or THREAD-sink DES without a depot owner, an analogue function and option that disagree, a ring of the wrong kind or one another pin feeds, a bit clock below its shortest period.
The model's own choices in it: log entries 19, 50 and 180. -/
def Obligations.PinConfiguration : Prop :=
  (∀ (s : State) (ag : Agent) (n : Nat) (v : W32), s.inReset = false → n < s.nPin →
     let p := s.pin n
     let kind := v.toNat / 32 % 4
     let d := v.toNat % 32
     let q := p.eq.length + p.serq.length
     let hands (s' : State) (f : W32) : Prop := (s'.pin n).func = f ∧ (s'.pin n).fn = .hold ∧ (s'.pin n).ho = some (s.pinRot + 3, false) ∧
       (s'.pin n).eq = [] ∧ (s'.pin n).serq = [] ∧ (s'.pin n).desq = [] ∧ (s'.pin n).disc = satAdd p.disc q ∧ (s'.pin n).drv = s.driven n ∧ (s'.pin n).oe = p.oe
     let alone (s' : State) : Prop := ∀ m, m ≠ n → s'.pin m = s.pin m
     let normal : Prop := kind = 2 ∨ (kind = 3 ∧ s.depNormal d = true)
     let refused (o : Out) (c : Nat) : Prop := ∃ s', o = .next s' ∧ s'.pins.pins = s.pins.pins ∧ bitAt s'.pins.evt 3 = true ∧
       (bitAt s.pins.errInfo 31 = false → s'.pins.errInfo = BitVec.ofNat 32 (2147483648 + c * 16777216 + n % 1024))
     (s.globalWriter ag = true → (normal → s.pinNormal n = true) → ¬(kind ≠ p.ownKind.toNat ∨ (kind = 3 ∧ d ≠ p.ownDep.toNat)) →
       exec (.pinOwnWrite ag n v) s = .next (s.setPin n { p with ownDep := BitVec.ofNat 5 d })) ∧
     (s.globalWriter ag = true → (normal → s.pinNormal n = true) → (kind ≠ p.ownKind.toNat ∨ (kind = 3 ∧ d ≠ p.ownDep.toNat)) →
       ∃ s', exec (.pinOwnWrite ag n v) s = .next s' ∧ (s'.pin n).ownKind.toNat = kind ∧ (s'.pin n).ownDep.toNat = d ∧ alone s' ∧
         (kind = 3 ∧ p.ownKind = 3 ∧ bitAt v 7 = true → (s'.pin n).func = p.func ∧ (s'.pin n).fn = p.fn ∧ (s'.pin n).ho = p.ho) ∧
         (¬(kind = 3 ∧ p.ownKind = 3 ∧ bitAt v 7 = true) → hands s' (p.func &&& 0xFFFFFFF0))) ∧
     (s.globalWriter ag = false ∨ (normal ∧ s.pinNormal n = false) → refused (exec (.pinOwnWrite ag n v) s) 1) ∧
     (s.pinWriter ag n = true → funcCause s n v = none → ∃ s', exec (.pinFuncWrite ag n v) s = .next s' ∧ hands s' (v &&& 0x0FFFFFCF) ∧ alone s' ∧ (s'.pin n).elec = p.elec) ∧
     (∀ c, s.pinWriter ag n = true → funcCause s n v = some c → refused (exec (.pinFuncWrite ag n v) s) c) ∧
     (s.pinWriter ag n = true → (bitAt v 6 = true → p.fsel = 0 ∨ p.fsel = 8) → ∃ s', exec (.pinElecWrite ag n v) s = .next s' ∧ alone s' ∧ (s'.pin n).func = p.func ∧
       (∀ i, 4 ≤ i → i < 32 → bitAt (s'.pin n).elec i = (bitAt v i && bitAt (0xFFFF0370 : W32) i)) ∧
       (v.toNat % 4 ≠ 3 → (s'.pin n).elec.toNat % 4 = v.toNat % 4) ∧ (v.toNat % 4 = 3 → (s'.pin n).elec.toNat % 4 = p.elec.toNat % 4) ∧
       (s'.pin n).blankBt = (if (s'.pin n).elec.toNat % 16 = p.elec.toNat % 16 ∧ bitAt (s'.pin n).elec 6 = bitAt p.elec 6 then p.blankBt else s.clk.bt + 128)) ∧
     (s.pinWriter ag n = true → bitAt v 6 = true → p.fsel ≠ 0 → p.fsel ≠ 8 → refused (exec (.pinElecWrite ag n v) s) 3) ∧
     (s.pinWriter ag n = false → exec (.pinFuncWrite ag n v) s = .next s ∧ exec (.pinElecWrite ag n v) s = .next s)) ∧
  (∀ (s : State) (n : Nat) (v : W32),
     let p := s.pin n
     let f := v.toNat % 16
     let sink := v.toNat / 32768 % 4
     let ana := bitAt p.elec 6
     let ring := s.pring (v.toNat / 2048 % 16)
     let bad2 : Prop := (f = 2 ∨ f = 3 ∨ (f = 4 ∧ sink = 1)) ∧ p.ownKind ≠ 3
     let bad3 : Prop := (f = 8 ∧ ana = false) ∨ (f ≠ 0 ∧ f ≠ 8 ∧ ana = true)
     let fed : Prop := ∃ e ∈ s.pins.pins, e.1 ≠ n ∧ e.2.fsel = 4 ∧ e.2.sink = 2 ∧ e.2.ring = v.toNat / 2048 % 16
     let bad4 : Prop := (f = 6 ∧ bitAt ring.cfg 4 = false) ∨ (f = 4 ∧ sink = 2 ∧ (bitAt ring.cfg 4 = true ∨ fed))
     let bad6 : Prop := f = 5 ∧ (s.bck (v.toNat / 64 % 32)).per.toNat < 12288
     (8 < f → funcCause s n v = some 5) ∧ (f ≤ 8 → bad2 → funcCause s n v = some 2) ∧ (f ≤ 8 → ¬ bad2 → bad3 → funcCause s n v = some 3) ∧
     (f ≤ 8 → ¬ bad2 → ¬ bad3 → bad4 → funcCause s n v = some 4) ∧ (f ≤ 8 → ¬ bad2 → ¬ bad3 → ¬ bad4 → bad6 → funcCause s n v = some 6) ∧
     (f ≤ 8 → ¬ bad2 → ¬ bad3 → ¬ bad4 → ¬ bad6 → funcCause s n v = none))

/-- R18, R193, R196, R197, R206 to R208, R225: the takeover of a handover gives the pin its new function, unless it still waits for ECLK; an entry that has crossed, first of what its depot has sent, joins the queue of an EDGE pin, is discarded and counted on any other, and is counted as crowded within 24 BT of the one before it; an entry of the same depot that entered the crossing before it joins its own queue first. A late head is counted, and EMIT drives it at the next TCLK edge; the head entry is driven at the edge its time names.
The model's own choices in it: log entries 20, 150, 176 and 179. -/
def Obligations.PinEdges : Prop :=
  ∀ (s : State) (n d : Nat) (tau : W64) (v : Bool) (rest : List (W64 × Bool)) (others : List (Nat × Nat)), s.pinRuns = true →
    let p := s.pin n
    let before : Option W64 := match p.eq.getLast? with | some e => some e.1 | none => p.lastTau
    let crowded : Prop := ∃ l, before = some l ∧ tau.toNat < l.toNat + 24
    let out (x : State) : State := { x with pins := { x.pins with xord := others } }
    (∀ r, p.ho = some (r, false) → p.hoHeld = false → r ≤ s.pinRot → p.fsel ≠ 2 → ∃ s', exec (.handoverTakeover n) s = .next s' ∧ (s'.pin n).fn = fnOf p.fsel ∧ (s'.pin n).ho = none ∧
      (p.fsel = 0 → (s'.pin n).drv = p.drv ∧ (s'.pin n).oe = p.oe) ∧
      (p.fsel = 1 → (s'.pin n).drv = bitAt (s.gout (n / 16)) (n % 16) ∧ (s'.pin n).oe = bitAt (s.goe (n / 16)) (n % 16)) ∧
      (p.fsel = 4 ∨ p.fsel = 6 ∨ p.fsel = 7 ∨ p.fsel = 8 → (s'.pin n).oe = false) ∧ ∀ m, m ≠ n → s'.pin m = s.pin m) ∧
    (∀ r, p.ho = some (r, true) → p.hoHeld = false → r ≤ s.pinRot → p.fsel = 0 → ∃ s', exec (.handoverTakeover n) s = .next s' ∧ (s'.pin n).fn = .hold ∧ (s'.pin n).ho = none ∧
      (p.elec.toNat / 256 % 4 = 0 → (s'.pin n).drv = false ∧ (s'.pin n).oe = true) ∧ (p.elec.toNat / 256 % 4 = 1 → (s'.pin n).drv = true ∧ (s'.pin n).oe = true) ∧
      (p.elec.toNat / 256 % 4 = 2 → (s'.pin n).oe = false) ∧ (p.elec.toNat / 256 % 4 = 3 → (s'.pin n).drv = p.drv ∧ (s'.pin n).oe = p.oe)) ∧
    (∀ r b, p.ho = some (r, b) → s.pinRot < r ∨ p.hoHeld = true → exec (.handoverTakeover n) s = .next s) ∧
    (p.ho = none → exec (.handoverTakeover n) s = .next s) ∧
    (p.eqX = (tau, v) :: rest → s.pins.xord = (d, n) :: others →
      (p.fsel ≠ 2 → exec (.edgeEntry n) s = .next (out (s.setPin n { p with eqX := rest, disc := satAdd p.disc 1 }))) ∧
      (p.fsel = 2 → crowded → exec (.edgeEntry n) s = .next (out (s.setPin n { p with eqX := rest, crowd := satInc p.crowd }))) ∧
      (p.fsel = 2 → ¬ crowded → p.eq ≠ [] → exec (.edgeEntry n) s = .next (out (s.setPin n { p with eqX := rest, eq := p.eq ++ [(tau, v)] }))) ∧
      (p.fsel = 2 → p.fn = .edge → ¬ crowded → p.eq = [] →
        (s.clk.bt + 8 ≤ tau.toNat / 8 * 8 → ∃ s', exec (.edgeEntry n) s = .next s' ∧ (s'.pin n).eq = [(tau, v)] ∧ (s'.pin n).late = p.late ∧ (s'.pin n).drv = p.drv) ∧
        (tau.toNat / 8 * 8 < s.clk.bt + 8 → ∃ s', exec (.edgeEntry n) s = .next s' ∧ (s'.pin n).eq = [] ∧ (s'.pin n).late = satInc p.late ∧ bitAt s'.pins.evt 2 = true ∧
          (s'.pin n).drv = p.drv ∧ (bitAt p.func 22 = false → (s'.pin n).emit = some (s.clk.bt + 8, v)) ∧ (bitAt p.func 22 = true → (s'.pin n).emit = p.emit)))) ∧
    (∀ m e r', m ≠ n → p.eqX = (tau, v) :: rest → (s.pin m).eqX = e :: r' → s.pins.xord = (d, m) :: (d, n) :: others → ∃ s', exec (.edgeEntry n) s = .next s' ∧
      (s'.pin m).eqX = r' ∧ (s'.pin n).eqX = rest ∧ s'.pins.xord = others) ∧
    (p.eqX = [] → exec (.edgeEntry n) s = .next s) ∧
    (∀ t, s.pending = [] → p.emit = some (t, v) → t ≤ s.clk.bt + 8 → ∃ s', step s = .next s' ∧ (s'.pin n).drv = v ∧ (s'.pin n).oe = true ∧ (s'.pin n).emit = none) ∧
    (p.eq = (tau, v) :: rest → p.fn = .edge →
      (tau.toNat / 8 * 8 ≤ s.clk.bt → ∃ s', exec (.edgeApply n) s = .next s' ∧ (s'.pin n).drv = v ∧ (s'.pin n).oe = true ∧ (s'.pin n).eq = rest ∧ (s'.pin n).lastTau = some tau ∧
        ∀ m, m ≠ n → s'.pin m = s.pin m) ∧
      (s.clk.bt < tau.toNat / 8 * 8 → exec (.edgeApply n) s = .next s))

/-- R199, R202 to R205, R211 to R215: the group write alias moves the bits of the pins its agent owns under the mask; bit clocks start and stop by a global writer; at t_16j of its running bit clock a serializer takes its oldest word, or drives its idle level and counts a slip, and at no other time; a deserializer that has taken the samples of word j, in the order msb selects, queues the word, or loses it with a slip when four wait.
The model's own choices in it: log entries 20, 23, 166 and 177. -/
def Obligations.PinStreams : Prop :=
  ∀ (s : State) (ag : Agent) (n k : Nat) (w mask : Word) (v : W32),
    let p := s.pin n
    let g := v.toNat / 2 ^ 24 % 64
    let msb := bitAt p.func 21
    let c := s.bck p.bclk
    let t (i : Nat) : Nat := c.t0.toNat + (i * c.per.toNat + 128) / 256
    let m (i : Nat) : Nat := c.t0.toNat + (2 * i * c.per.toNat + c.per.toNat + 256) / 512
    (s.mayRead ag = true → 16 * g < s.nPin → ∃ s', exec (.pinGwWrite ag mask 2 v) s = .next s' ∧ (∀ i, i < 16 →
      let hit := bitAt mask i && s.agOwnsPin ag (16 * g + i)
      (bitAt v 31 = false → bitAt (s'.gout g) i = (if hit then bitAt v i else bitAt (s.gout g) i) ∧ s'.goe g = s.goe g) ∧
      (bitAt v 31 = true → bitAt (s'.goe g) i = (if hit then bitAt v i else bitAt (s.goe g) i) ∧ s'.gout g = s.gout g)) ∧
      ∀ j, j ≠ g → s'.gout j = s.gout j ∧ s'.goe j = s.goe j) ∧
    (s.mayRead ag = true → isPm ag = false → exec (.pinGwWrite ag mask 1 v) s = .next { s with pins := { s.pins with evt := setBit s.pins.evt 5 } }) ∧
    (s.globalWriter ag = true → s.inReset = false → k < 32 → (s.bck k).en = false →
      exec (.bckEnable ag k) s = .next (s.setBck k { s.bck k with en := true, enBt := s.clk.bt }) ∧ exec (.bckDisable ag k) s = .next s) ∧
    (s.globalWriter ag = true → s.inReset = false → k < 32 → (s.bck k).en = true → exec (.bckEnable ag k) s = .next s ∧
      ∃ s', exec (.bckDisable ag k) s = .next s' ∧ (s'.bck k).en = false ∧ ∀ m, p.bclk ≠ k → m = n → s'.pin m = s.pin m) ∧
    (s.globalWriter ag = false → exec (.bckEnable ag k) s = .next s ∧ exec (.bckDisable ag k) s = .next s) ∧
    (∀ j, c.en = true → c.bit s.clk.bt / 16 = j → p.fn = .ser → s.clk.bt < t (16 * j) ∨ t (16 * j) + 8 ≤ s.clk.bt → exec (.serWordBoundary n) s = .next s) ∧
    (∀ j, s.pinRuns = true → p.fn = .ser → c.en = true → c.bit s.clk.bt / 16 = j → t (16 * j) ≤ s.clk.bt → s.clk.bt < t (16 * j) + 8 →
      p.foBt ≤ t (16 * j) → c.enBt ≤ t (16 * j) → p.wordJ.getD 0 ≤ j →
      (∀ r, p.serq = w :: r → ∃ s', exec (.serWordBoundary n) s = .next s' ∧ (s'.pin n).serq = r ∧ (s'.pin n).serWord = some w ∧ (s'.pin n).serOn = true ∧ (s'.pin n).oe = true ∧ (s'.pin n).wordJ = some (j + 1) ∧
        (s'.pin n).drv = bitAt w (if msb then 15 else 0) ∧ (s'.pin n).lastBit = bitAt w (if msb then 0 else 15) ∧ (s'.pin n).slip = p.slip) ∧
      (p.serq = [] → ∃ s', exec (.serWordBoundary n) s = .next s' ∧ (s'.pin n).serWord = none ∧ (s'.pin n).wordJ = some (j + 1) ∧
        (p.idle = 0 → (s'.pin n).drv = false) ∧ (p.idle = 1 → (s'.pin n).drv = true) ∧ (p.idle = 2 → (s'.pin n).drv = p.lastBit) ∧
        (p.serOn = true → (s'.pin n).slip = satInc p.slip ∧ bitAt s'.pins.evt 7 = true) ∧ (p.serOn = false → (s'.pin n).slip = p.slip))) ∧
    (∀ j, s.pinRuns = true → p.fn = .des → bitAt p.func 23 = false → c.en = true → p.wordJ = some j → m (16 * j + 15) ≤ s.clk.bt → (∀ i, i < 16 → p.blankBt ≤ m (16 * j + i)) → p.sink = 1 →
      ∃ s', exec (.desWord n w) s = .next s' ∧ (s'.pin n).wordJ = some (j + 1) ∧ s'.xch = s.xch ∧ (∀ u, u ≠ n → s'.pin u = s.pin u) ∧
        (p.desq.length < 4 → ∃ q : Word, (s'.pin n).desq = p.desq ++ [q] ∧ (s'.pin n).slip = p.slip ∧ ∀ i, i < 16 → bitAt q i = bitAt w (if msb then 15 - i else i)) ∧
        (4 ≤ p.desq.length → (s'.pin n).desq = p.desq ∧ (s'.pin n).slip = satInc p.slip ∧ (s'.pin n).desLost = true)) ∧
    (∀ j, p.fn = .des → bitAt p.func 23 = false → p.wordJ = some j → s.clk.bt < m (16 * j + 15) ∨ c.en = false → exec (.desWord n w) s = .next s) ∧
    (s.pinRuns = true → p.fn = .des → bitAt p.func 23 = true → (s.pin (16 * (n / 16) + p.func.toNat / 2 ^ 24 % 16)).ana = false → p.blankBt ≤ s.clk.bt → p.sink = 1 → p.desq.length < 4 →
      ∃ s' q, exec (.desWord n w) s = .next s' ∧ (s'.pin n).desq = p.desq ++ [q] ∧ ∀ i, i < 16 → bitAt q i = bitAt w (if msb then 15 - i else i))

/-- R199, R203, R218 to R223: a capture puts a record of pin, level and the time two TCLK edges before into the buffer of its RECORDS ring and a write of it to the sorter, or loses it counted where the buffer has no room; an edge within 16 TCLK edges of the last replaces its level. Granted, the write of a record ring goes by two pair-words to the place its count names and then raises the count and tells its chute. A pattern event after its dwell sets its bit, takes the time and tells its chute; a mismatch past the settle time flags the pin; a ring that keeps the rules of R218 starts with a zero header and count, a bad one is refused with cause 7.
The model's own choices in it: log entries 21, 22, 178, 180 and 181. -/
def Obligations.CapturesAndRings : Prop :=
  ∀ (s : State) (ag : Agent) (n k u : Nat) (level leave : Bool) (levels : Word) (v : W32),
    let p := s.pin n
    let r := s.pring p.ring
    let q := s.pins.pats.get u {}
    let x := s.pring k
    let b := x.base.toNat
    let fits : Prop := b % 8 = 0 ∧ v.toNat % 16 ≤ 9 ∧ b / 65536 = (b + 7 + 64 * 2 ^ (v.toNat % 16)) / 65536
    let wanted : Prop := if level then p.edges % 2 = 1 else 2 ≤ p.edges
    let t := s.clk.bt - 16
    let last : Word := BitVec.ofNat 16 ((if level then 32768 else 0) + n)
    let lv := s.seen (q.cfg.toNat / 2 ^ 22 % 64) levels
    let dwelt : Prop := q.since + q.cfg.toNat % 65536 * 9600 + (if q.last = some leave then 8 else 0) ≤ s.clk.bt
    (s.pinRuns = true → p.fn = .capture → p.capBt = none → p.blankBt ≤ s.clk.bt → wanted →
      ∃ s', exec (.captureEdge n level) s = .next s' ∧ (s'.pin n).capBt = some s.clk.bt ∧ s'.xch = s.xch ∧
        (r.en = true → r.records = true → r.buf.length ≤ 28 → (s'.pring p.ring).cnt = r.cnt ∧ (s'.pring p.ring).lost = r.lost ∧
          (s'.pring p.ring).buf = r.buf ++ [BitVec.ofNat 16 t, BitVec.ofNat 16 (t / 65536), BitVec.ofNat 16 (t / 2 ^ 32), last] ∧
          (r.stage = 0 → (s'.pring p.ring).stage = 1 ∧ ∃ g ∈ s'.srt.reqs, g.code = 40 ∧ g.op = .ring p.ring)) ∧
        (r.en = true → r.records = true → 28 < r.buf.length → (s'.pring p.ring).lost = satInc r.lost ∧ (s'.pring p.ring).buf = r.buf) ∧
        (r.en = false ∨ r.records = false → s'.pring p.ring = r)) ∧
    (∀ c, s.pinRuns = true → p.fn = .capture → p.capBt = some c → s.clk.bt < c + 128 → p.blankBt ≤ s.clk.bt → r.en = true → r.records = true → r.cnt.toNat < p.capRec → 4 * (p.capRec - r.cnt.toNat) + 3 < r.buf.length →
      ∃ s', exec (.captureEdge n level) s = .next s' ∧ (s'.pin n).capBt = some s.clk.bt ∧ (s'.pring p.ring).buf = r.buf.set (4 * (p.capRec - r.cnt.toNat) + 3) last) ∧
    (p.fn ≠ .capture ∨ s.clk.bt < p.blankBt → exec (.captureEdge n level) s = .next s) ∧
    (∀ (g : SReq) (tg : Nat), s.inReset = false → s.presented tg = [g] → g.op = .ring k → (∀ e ∈ s.srt.bursts, e.target ≠ tg) → x.en = true → s.bankOn b = true → s.bankHere (x.dataAt + 3) = true → b % 8 = 0 → b ≤ x.dataAt →
      (x.stage = 1 → x.records = true → 4 ≤ x.buf.length → ∃ s', exec (.sorterGrant tg) s = .next s' ∧ (s'.pring k).stage = 2 ∧
        s'.xword x.dataAt = x.buf[0]?.getD 0 ∧ s'.xword (x.dataAt + 1) = x.buf[1]?.getD 0 ∧ ∀ a, a ≠ x.dataAt → a ≠ x.dataAt + 1 → s'.xword a = s.xword a) ∧
      (x.stage = 2 → 4 ≤ x.buf.length → x.records = true → ∃ s', exec (.sorterGrant tg) s = .next s' ∧ (s'.pring k).stage = 3 ∧
        s'.xword (x.dataAt + 2) = x.buf[2]?.getD 0 ∧ s'.xword (x.dataAt + 3) = x.buf[3]?.getD 0 ∧ ∀ a, a ≠ x.dataAt + 2 → a ≠ x.dataAt + 3 → s'.xword a = s.xword a) ∧
      (x.stage = 3 → ∃ s', exec (.sorterGrant tg) s = .next s' ∧ (s'.pring k).cnt = x.cnt + (if x.records then 1 else 8) ∧ (s'.pring k).buf = x.buf.drop (if x.records then 4 else 8) ∧
        s'.xword b = (s'.pring k).cnt.extractLsb' 0 16 ∧ s'.xword (b + 1) = (s'.pring k).cnt.extractLsb' 16 16 ∧ (∀ a, a ≠ b → a ≠ b + 1 → s'.xword a = s.xword a) ∧
        (bitAt x.ch 31 = true → ∃ y, s'.umsgs = s.umsgs ++ [y] ∧ y.words = [BitVec.ofNat 16 (0x9000 + k), (s'.pring k).cnt.extractLsb' 0 16]))) ∧
    (s.inReset = false → u < 32 → 16 * (q.cfg.toNat / 2 ^ 22 % 64) < s.nPin →
      (if leave then 2 ≤ q.cfg.toNat / 2 ^ 28 % 4 else q.cfg.toNat / 2 ^ 28 % 2 = 1) →
      (((lv ^^^ q.mp.extractLsb' 0 16) &&& q.mp.extractLsb' 16 16 = 0) ↔ leave = false) → dwelt → ∃ s', exec (.patternEvent u leave levels) s = .next s' ∧
        bitAt s'.pins.pmEvt u = true ∧ (s'.pins.pats.get u {}).t = s.bt64 ∧ (s'.pins.pats.get u {}).last = some leave ∧ (bitAt q.ch 31 = true → s'.umsgs = s.umsgs ++ [{ unit := 1, depot := q.ch.toNat / 2 ^ 26 % 32, engine := q.ch.toNat / 2 ^ 22 % 16, chute := q.ch.toNat / 2 ^ 18 % 16, words := [BitVec.ofNat 16 (0x8000 + u * 16 + (if leave then 2 else 1)), lv, BitVec.ofNat 16 (s.clk.bt / 65536), BitVec.ofNat 16 s.clk.bt] }])) ∧
    (¬ dwelt → exec (.patternEvent u leave levels) s = .next s) ∧
    (n < s.nPin → p.oe = true → p.ana = false → s.lastChange n + 8 * s.pins.mmSettle.toNat ≤ s.clk.bt → s.inReset = false → ∃ s', exec (.pinMismatch n) s = .next s' ∧
      (∀ i, i < 16 → bitAt (s'.mmOf (n / 16)) i = (bitAt (s.mmOf (n / 16)) i || decide (i = n % 16))) ∧ s' = { s with pins := { s.pins with mm := s'.pins.mm } }) ∧
    (p.oe = false ∨ p.ana = true ∨ s.clk.bt < s.lastChange n + 8 * s.pins.mmSettle.toNat → exec (.pinMismatch n) s = .next s) ∧
    (s.globalWriter ag = true → s.inReset = false → k < 16 → fits → x.en = true → exec (.pinRingEnable ag k v) s = .next (s.setPring k { x with cfg := (v &&& 0x1F) ||| 0x80000000 })) ∧
    (s.globalWriter ag = true → s.inReset = false → k < 16 → fits → x.en = false → s.bankOn b = true → s.srt.reqs = [] → (∀ i, i < 4 → s.bankHere (b + 2 * i) = true) → ∃ s',
      exec (.pinRingEnable ag k v) s = .next s' ∧ (s'.pring k).cfg = ((v &&& 0x1F) ||| 0x80000000) ∧ (s'.pring k).cnt = 0 ∧ (s'.pring k).buf = [] ∧ (∀ i, i < 8 → s'.xword (b + i) = 0) ∧
      ∀ a, a < b ∨ b + 8 ≤ a → s'.xword a = s.xword a) ∧
    (s.globalWriter ag = true → s.inReset = false → k < 16 → ¬ fits → ∃ s', exec (.pinRingEnable ag k v) s = .next s' ∧ s'.pins.rings = s.pins.rings ∧ bitAt s'.pins.evt 3 = true)

/-- R400 to R405, R425, Table 15.3: a command of a writer that is allowed and names a listed transition makes the block busy towards the target, powers every unit the target powers and drains or stops the others; any other command of that writer is refused and changes nothing but PWR_EVT.refused; a unit the target does not power loses power and contents once it is off; a cleared unit is done; a mask write in Trim acts at once.
R30, R224 to R226, R405, R406, R408: Hold is entered when every unit is off and no thread or hart is halted; the pins keep their latches and the Postmaster is retained; an enabled pending wake source ends Hold, latches cause and time and starts the return to the state before; retention ends with the clocks; Off leaves only the pad latches and the waiting commands.
The model's own choices in it: log entries 18 and 43 to 47. -/
def Obligations.PowerStates : Prop :=
  (∀ (s : State) (ag : Agent) (t : PState) (c : Instr) (m : TrimMask) (v : W32) (n : Nat),
     let listed : Prop := match t with
       | .run => s.pwr.state = .trim ∨ s.pwr.state = .vigil
       | .trim => s.pwr.state = .run ∨ s.pwr.state = .trim ∨ s.pwr.state = .vigil
       | .vigil => (s.pwr.state = .run ∨ s.pwr.state = .trim) ∧ ((List.range 8).filter (fun l => bitAt s.pwr.vlanes l)).length ≤ 2
       | .hold => (s.pwr.state = .run ∨ s.pwr.state = .trim ∨ s.pwr.state = .vigil) ∧ isPm ag = true ∧ s.dbg.haltA = false ∧ s.dbg.haltB = false ∧
           ∀ e ∈ s.deps, ∀ h ∈ e.2.threads, h.2.state ≠ .halted
       | .off => False
     let masked : State := { s with pwr := match m with | .depots => { s.pwr with depEn := v } | .banksLo => { s.pwr with bankEn := s.pwr.bankEn.extractLsb' 32 32 ++ v } | .banksHi => { s.pwr with bankEn := v ++ s.pwr.bankEn.extractLsb' 0 32 } }
     (c = .pwrCmdRun ag ∧ t = .run ∨ c = .pwrCmdTrim ag ∧ t = .trim ∨ c = .pwrCmdVigil ag ∧ t = .vigil ∨ c = .pwrCmdHold ag ∧ t = .hold →
       (s.globalWriter ag = false → exec c s = .next s) ∧
       (s.globalWriter ag = true → s.inReset = false → s.pwr.busy = true ∨ ¬ listed → exec c s = .next { s with pwr := { s.pwr with evt := setBit s.pwr.evt 3 } }) ∧
       (s.globalWriter ag = true → s.inReset = false → s.pwr.busy = false → listed → ∃ s', exec c s = .next s' ∧
         ((s'.pwr.busy = true ∧ s'.pwr.target = some t ∧ s'.pwr.state = s.pwr.state) ∨ (t ≠ .hold ∧ s'.pwr.busy = false ∧ s'.pwr.target = none ∧ s'.pwr.state = t ∧ bitAt s'.pwr.evt 1 = true)) ∧
         (∀ d, d < s.nDep → s.wantsDep d t = true → (s'.dep d).powered = true ∧ ((s.dep d).powered = false → (s'.dep d).state = .clearing)) ∧
         (∀ b, b < s.nBank → s.wantsBank b t = true → bitAt s'.pwr.bankPow b = true) ∧ (∀ l, l < s.nLane → s.wantsLane l t = true → bitAt s'.pwr.lanePow l = true) ∧
         (∀ d, s.depUp d = true → s.wantsDep d t = false → (s.dep d).state = .run → (s'.dep d).state = .draining) ∧
         (∀ l, l < s.nLane → bitAt s.pwr.lanePow l = true → s.wantsLane l t = false → (s.lane l).state = .run → (s'.lane l).state = .stopping) ∧
         s'.sec = s.sec ∧ s'.pm = s.pm ∧ s'.xch.mem = s.xch.mem)) ∧
     (s.globalWriter ag = false → exec (.trimMaskWrite ag m v) s = .next s) ∧
     (s.globalWriter ag = true → s.inReset = false → s.pwr.state ≠ .trim → s.pwr.target ≠ some .trim → exec (.trimMaskWrite ag m v) s = .next masked) ∧
     (s.globalWriter ag = true → s.inReset = false → s.pwr.state = .trim → s.pwr.busy = false → s.pwr.retention = false → ∃ s', exec (.trimMaskWrite ag m v) s = .next s' ∧
       s'.pwr.depEn = masked.pwr.depEn ∧ s'.pwr.bankEn = masked.pwr.bankEn ∧ (∀ d, d < s.nDep → bitAt masked.pwr.depEn d = true → (s'.dep d).powered = true) ∧
       (∀ d, s.depUp d = true → bitAt masked.pwr.depEn d = false → (s.dep d).state = .run → (s'.dep d).state = .draining)) ∧
     (s.pwr.target = some t → s.wantsBank n t = false → n < s.nBank → bitAt s.pwr.bankPow n = true → ∃ s', exec (.unitPowerOff (.bank n)) s = .next s' ∧
       (∀ b, b < 64 → bitAt s'.pwr.bankPow b = (bitAt s.pwr.bankPow b && decide (b ≠ n))) ∧ (∀ w, w / 65536 = n → s'.xword w = 0) ∧ (∀ w, w / 65536 ≠ n → s'.xword w = s.xword w) ∧ s'.deps = s.deps) ∧
     (s.pwr.target = some t → s.wantsDep n t = false → n < s.nDep → (s.dep n).powered = true → (s.dep n).state = .off → ∃ s', exec (.unitPowerOff (.depot n)) s = .next s' ∧
       s'.dep n = { ({} : Depot) with powered := false, rst := (s.dep n).rst }) ∧
     (s.pwr.target = some t → s.wantsLane n t = false → n < s.nLane → n < 8 → bitAt s.pwr.lanePow n = true → (s.lane n).state = .off → ∃ s', exec (.unitPowerOff (.lane n)) s = .next s' ∧
       bitAt s'.pwr.lanePow n = false ∧ (s'.lane n).link = false) ∧
     (s.pwr.target = none → exec (.unitPowerOff (.depot n)) s = .next s ∧ exec (.unitPowerOff (.bank n)) s = .next s ∧ exec (.unitPowerOff (.lane n)) s = .next s) ∧
     (n < s.nBank → bitAt s.pwr.bankClr n = true → s.clk.fHz ≠ 0 → ∃ s', exec (.unitClearDone (.bank n)) s = .next s' ∧
       (∀ b, b < 64 → bitAt s'.pwr.bankClr b = (bitAt s.pwr.bankClr b && decide (b ≠ n))) ∧ s'.xch = s.xch ∧ (s.pwr.clrDep = 0 → s'.pwr.bankClr = 0 → bitAt s'.pwr.evt 0 = true)) ∧
     (s.depUp n = true → (s.dep n).state = .clearing → s.pwr.target = none → (s.dep n).enHeld = none → bitAt s.sec.zdDeps n = false → ∃ s', exec (.unitClearDone (.depot n)) s = .next s' ∧ (s'.dep n).state = .off ∧
       bitAt s'.pwr.clrDep n = false ∧ (∀ d, d ≠ n → (s'.dep d).state = (s.dep d).state))) ∧
  (∀ (s : State) (src : Fin 4) (n : Nat),
     (s.pwr.target = some .hold → (∀ d, d < s.nDep → (s.dep d).powered = false) → (∀ l, l < s.nLane → bitAt s.pwr.lanePow l = false) → (∀ b, b < s.nBank → bitAt s.pwr.bankPow b = bitAt s.pwr.bankRet b) →
       s.dbg.haltA = false → s.dbg.haltB = false → (∀ e ∈ s.deps, ∀ h ∈ e.2.threads, h.2.state ≠ .halted) → s.inReset = false → s.pwr.wakePend &&& s.pwr.wakeEn = 0 →
       ∃ s', exec .holdEntered s = .next s' ∧ s'.pwr = { s.pwr with state := .hold, target := none, busy := false, retention := true, evt := setBit s.pwr.evt 1 } ∧
         (s'.hart 0).wfi = true ∧ (s'.hart 1).wfi = true ∧ s'.xch = s.xch ∧ s'.deps = s.deps ∧ s'.sec = s.sec ∧ s'.clk = s.clk) ∧
     (s.pwr.target ≠ some .hold → exec .holdEntered s = .next s) ∧
     (s.pwr.state = .hold → bitAt s.pwr.wakePend src.val = true → bitAt s.pwr.wakeEn src.val = true → ∃ s', exec (.wake src) s = .next s' ∧ s'.pwr.wakeCause = s.pwr.wakePend &&& s.pwr.wakeEn ∧
       s'.pwr.wakeT = s.bt64 ∧ s'.pwr.wakePend = 0 ∧ bitAt s'.pwr.evt 2 = true ∧ s'.pwr.state = s.pwr.holdFrom ∧ s'.pwr.target = some s.pwr.holdFrom ∧ s'.pwr.busy = true ∧
       (∀ d, d < s.nDep → s.wantsDep d s.pwr.holdFrom = true → (s'.dep d).powered = true) ∧ (∀ b, b < s.nBank → s.wantsBank b s.pwr.holdFrom = true → bitAt s'.pwr.bankPow b = true)) ∧
     (s.pwr.state ≠ .hold ∨ bitAt s.pwr.wakePend src.val = false ∨ bitAt s.pwr.wakeEn src.val = false → exec (.wake src) s = .next s) ∧
     (s.pwr.retention = true → s.pwr.state ≠ .hold → s.clk.eHz ≠ 0 → s.clk.fHz ≠ 0 → s.clk.pHz ≠ 0 → s.inReset = false → ∃ s', exec .pmRetentionExit s = .next s' ∧
       s'.pwr.retention = false ∧ (s'.hart 0).wfi = false ∧ (s'.hart 1).wfi = false ∧ s'.deps = s.deps ∧ s'.xch = s.xch) ∧
     (s.pwr.retention = false → exec .pmRetentionExit s = .next s) ∧
     ∃ s', exec .powerOff s = .next s' ∧ s'.pwr = { State.reset.pwr with state := .off } ∧ s'.inReset = true ∧ s'.sec = State.reset.sec ∧ s'.dbg = State.reset.dbg ∧ s'.deps = [] ∧
       s'.clk = State.reset.clk ∧ s'.xch = State.reset.xch ∧ s'.pm = State.reset.pm ∧ s'.srt = State.reset.srt ∧ s'.seals = State.reset.seals ∧ s'.lan = State.reset.lan ∧ s'.irq = State.reset.irq ∧
       s'.pending = s.pending ∧ (s'.pin n).oe = (s.pin n).oe ∧ (s'.pin n).drv = s.driven n)

/-- R387 to R389, R392, R393, R396, R398: a twin mismatch freezes its pair, is recorded once per depot and raises its events; the Postmaster pair likewise; the watchdog runs from a write of its limit, is kicked by 0x5A alone, expires once; a Postmaster restart clears its freeze, its harts and its lock and boots it again.
The model's own choices in it: log entries 34, 59, 65 and 76. -/
def Obligations.MismatchAndWatchdog : Prop :=
  ∀ (s : State) (ag : Agent) (d pair g : Nat) (ue : Bool) (v : W32),
    let D := s.dep d
    (s.twin d = true → s.depUp d = true → s.clk.eHz ≠ 0 → pair < 8 → g < 16 → bitAt D.frozen pair = false → D.state ≠ .off → ∃ s', exec (.twinMismatch d pair g ue) s = .next s' ∧
      (∀ k, k < 8 → bitAt (s'.dep d).frozen k = (bitAt D.frozen k || decide (k = pair))) ∧ bitAt (s'.dep d).fstat 6 = true ∧ bitAt s'.irq.safe 0 = true ∧
      (g = 15 → ue = true → bitAt s'.irq.safe 2 = true) ∧ (g ≠ 15 ∨ ue = false → bitAt s'.irq.safe 2 = bitAt s.irq.safe 2) ∧ (s'.dep d).twinValid = true ∧
      (D.twinValid = false → (s'.dep d).twinGroup = BitVec.ofNat 5 g ∧ (s'.dep d).twinPair = BitVec.ofNat 3 pair ∧ (s'.dep d).twinT = s.bt64) ∧
      (D.twinValid = true → (s'.dep d).twinGroup = D.twinGroup ∧ (s'.dep d).twinPair = D.twinPair ∧ (s'.dep d).twinT = D.twinT) ∧
      (s'.dep d).threads = D.threads ∧ (s'.dep d).edm = D.edm ∧ (s'.dep d).code = D.code) ∧
    (s.twin d = false → exec (.twinMismatch d pair g ue) s = .next s) ∧
    (s.straps.pmTwin = true → s.irq.pmFrozen = false → 16 ≤ g → g < 24 → s.pinRuns = true → ∃ s', exec (.pmTwinMismatch g) s = .next s' ∧
      s' = { s with irq := { s.irq with pmFrozen := true, pmMm := true, pmTwinValid := true, safe := setBit s.irq.safe 1, pmTwinGroup := if s.irq.pmTwinValid then s.irq.pmTwinGroup else BitVec.ofNat 5 g, pmTwinT := if s.irq.pmTwinValid then s.irq.pmTwinT else s.bt64 } }) ∧
    (s.straps.pmTwin = false ∨ g < 16 ∨ 24 ≤ g → exec (.pmTwinMismatch g) s = .next s) ∧
    (ag = .pmA ∨ ag = .pmB ∨ ag = .hostS → s.inReset = false → exec (.irqWdogWrite ag v) s =
      .next { s with irq := { s.irq with wdogEn := s.irq.wdogEn || bitAt v 31, wdogLim := v.extractLsb' 0 16, wdogFrom := some s.clk.bt } }) ∧
    (ag = .hostN ∨ ag = .dbg → exec (.irqWdogWrite ag v) s = .next s) ∧
    (isPm ag = true → s.inReset = false → exec (.wdogKick ag 0x5A) s = .next { s with irq := { s.irq with wdogFrom := some s.clk.bt } }) ∧
    (isPm ag = false ∨ v ≠ 0x5A → exec (.wdogKick ag v) s = .next s) ∧
    (∀ t, s.irq.wdogFrom = some t → s.irq.wdogEn = true → 0 < s.irq.wdogLim.toNat → t + s.irq.wdogLim.toNat * 9600000 ≤ s.clk.bt → s.inReset = false →
      exec .watchdogExpiry s = .next { s with irq := { s.irq with wdogFrom := none, safe := setBit s.irq.safe 6 } }) ∧
    (s.irq.wdogFrom = none ∨ s.irq.wdogEn = false → exec .watchdogExpiry s = .next s) ∧
    (isPm ag = true → s.inReset = false → bitAt v 0 = true → exec (.irqSafeSw ag v) s = .next { s with irq := { s.irq with safe := setBit s.irq.safe 8 } }) ∧
    (isPm ag = false ∨ bitAt v 0 = false → exec (.irqSafeSw ag v) s = .next s) ∧
    (bitAt v 0 = true → s.inReset = false → ∃ s', exec (.pmRestart .hostS v) s = .next s' ∧ s'.irq.pmFrozen = false ∧ s'.irq.pmTwinValid = false ∧ s'.irq.pmMm = s.irq.pmMm ∧ s'.irq.wdogEn = false ∧
      (∀ i, i ≠ 3 → bitAt s'.irq.safe i = bitAt s.irq.safe i) ∧ s'.sec.romlock = false ∧ s'.pm.harts = [] ∧ s'.pm.sram = s.pm.sram ∧ s'.boot.phase = .selftest ∧ s'.boot.pmOnly = true ∧ s'.xch.lb = s.xch.lb ∧ s'.pins = s.pins ∧ s'.lan = s.lan ∧ s'.sec.ikey = s.sec.ikey) ∧
    (ag ≠ .hostS ∨ bitAt v 0 = false → exec (.pmRestart ag v) s = .next s)

/-- R316 to R318, R443, Table 11.2: which agents change which mask, test and doorbell bits; nothing else of the block changes, but for a wake source when a doorbell rings in Hold.
The model's own choices in it: log entries 30, 45 and 50. -/
def Obligations.MasksAndDoorbells : Prop :=
  ∀ (s : State) (ag : Agent) (hi : Bool) (v : W32), s.inReset = false →
    let normal (n : Nat) : Bool := decide (3 ≤ n) && bitAt s.sec.lbDom n
    let mayMask (k : Nat) : Bool := match ag with | .dbg => false | .hostN => decide (k < 16) && normal k | _ => true
    let mayTest : Bool := match ag with | .hostN => false | .dbg => s.dbg.level == 3 | _ => true
    let v64 (k : Nat) : Bool := if hi then decide (32 ≤ k) && bitAt v (k - 32) else decide (k < 32) && bitAt v k
    let host (n : Nat) : Bool := match ag with | .hostS => !normal n | .hostN => normal n | _ => false
    let pm : Bool := match ag with | .pmA => true | .pmB => true | _ => false
    (∃ m, exec (.irqMaskSet ag hi v) s = .next { s with irq := { s.irq with mask := m } } ∧ ∀ k, k < 64 → bitAt m k = (bitAt s.irq.mask k || (v64 k && mayMask k))) ∧
    (∃ m, exec (.irqMaskClr ag hi v) s = .next { s with irq := { s.irq with mask := m } } ∧ ∀ k, k < 64 → bitAt m k = (bitAt s.irq.mask k && !(v64 k && mayMask k))) ∧
    (∃ m, exec (.irqTestSet ag hi v) s = .next { s with irq := { s.irq with test := m } } ∧ ∀ k, k < 64 → bitAt m k = (bitAt s.irq.test k || (v64 k && mayTest))) ∧
    (∃ m, exec (.irqTestClr ag hi v) s = .next { s with irq := { s.irq with test := m } } ∧ ∀ k, k < 64 → bitAt m k = (bitAt s.irq.test k && !(v64 k && mayTest))) ∧
    (∃ m s', exec (.dbH2pSet ag v) s = .next s' ∧ s' = { s with irq := { s.irq with h2p := m }, pwr := s'.pwr } ∧ (∀ k, k < 16 → bitAt m k = (bitAt s.irq.h2p k || (bitAt v k && (host k || pm)))) ∧
      (s.pwr.state = .hold → (∃ k, k < 16 ∧ bitAt v k = true ∧ (host k || pm) = true) → s'.pwr = { s.pwr with wakePend := setBit s.pwr.wakePend 1 }) ∧
      (s.pwr.state ≠ .hold → s.pwr.target ≠ some .hold → s'.pwr = s.pwr)) ∧
    (∃ m, exec (.dbH2pClr ag v) s = .next { s with irq := { s.irq with h2p := m } } ∧ ∀ k, k < 16 → bitAt m k = (bitAt s.irq.h2p k && !(bitAt v k && pm))) ∧
    (∃ m, exec (.dbP2hSet ag v) s = .next { s with irq := { s.irq with p2h := m } } ∧ ∀ k, k < 16 → bitAt m k = (bitAt s.irq.p2h k || (bitAt v k && pm))) ∧
    (∃ m, exec (.dbP2hClr ag v) s = .next { s with irq := { s.irq with p2h := m } } ∧ ∀ k, k < 16 → bitAt m k = (bitAt s.irq.p2h k && !(bitAt v k && host k))) ∧
    exec (.dlSet ag v) s = .next { s with irq := { s.irq with dl := s.irq.dl || (pm && bitAt v 0) } } ∧
    exec (.dlClr ag v) s = .next { s with irq := { s.irq with dl := s.irq.dl && !(pm && bitAt v 0) } }

/-- R362 to R371, R394, R428, R429, R431 to R433: block reset keeps the waiting commands and the latches alone; release samples the straps at block time 0 and starts the self-test; the self-test passes when every due comparator was caught, else halts with code 1; GO counts for host secure in WAIT_GO alone; a good unencrypted record in exchange memory boots, no source halts with code 15; the clocks take what Table 16.3 allows, anything else and DFT outside reset is no supported operation.
The model's own choices in it: log entries 11, 54 to 59, 144, 145 and 151. -/
def Obligations.ResetAndBoot : Prop :=
  ∀ (s : State) (st : Straps) (on : Bool) (caught : BitVec 24) (ag : Agent) (v : W32) (src : List BootSource) (n hz : Nat) (ck : ClockName),
    let due : BitVec 24 := (if s.boot.pmOnly = false ∧ (∃ d, d < s.nDep ∧ s.twin d = true) then 0x00FFFF else 0) ||| (if s.straps.pmTwin then 0xFF0000 else 0)
    let x := s.xchSlot
    let allowed : Prop := match ck with | .eclk => 100000000 ≤ hz ∧ hz ≤ 1200000000 | .fclk => 100000000 ≤ hz ∧ hz ≤ 600000000 | .pclk => 50000000 ≤ hz ∧ hz ≤ 1000000000 | .hclk => 100000000 ≤ hz ∧ hz ≤ 800000000
    (∃ s', exec .blockReset s = .next s' ∧ s'.pwr = State.reset.pwr ∧ s'.inReset = true ∧ s'.sec = State.reset.sec ∧ s'.dbg = State.reset.dbg ∧ s'.deps = [] ∧ s'.clk = State.reset.clk ∧
      s'.xch = State.reset.xch ∧ s'.pm = State.reset.pm ∧ s'.srt = State.reset.srt ∧ s'.seals = State.reset.seals ∧ s'.lan = State.reset.lan ∧ s'.irq = State.reset.irq ∧
      s'.pmk = State.reset.pmk ∧ s'.boot = State.reset.boot ∧ s'.pending = s.pending ∧ (s'.pin n).oe = (s.pin n).oe ∧ (s'.pin n).drv = s.driven n ∧ (s'.pin n).fn = .hold) ∧
    (s.inReset = true → s.dft = false → exec (.blockResetRelease st) s = .next { s with straps := st, inReset := false, clk := {}, pwr := { s.pwr with state := .run }, boot := { s.boot with phase := .selftest } }) ∧
    (s.inReset = false ∨ s.dft = true → exec (.blockResetRelease st) s = .next s) ∧
    (s.inReset = true → exec (.dftMode on) s = .next { s with dft := on }) ∧
    (s.inReset = false → on ≠ s.dft → exec (.dftMode on) s = .fault .unsupportedDft) ∧
    (s.boot.phase = .reset ∨ s.boot.phase = .selftest → s.inReset = false →
      (caught &&& due = due → ∃ s', exec (.bootSelftest caught) s = .next s' ∧ s'.boot = { s.boot with phase := .waitGo } ∧ s'.irq = { s.irq with testDone := true, testBits := due } ∧ s'.pm.sram = [] ∧
        s'.pm.harts = s.pm.harts ∧ s'.deps = s.deps ∧ s'.pins = s.pins) ∧
      (caught &&& due ≠ due → ∃ s', exec (.bootSelftest caught) s = .next s' ∧ s'.boot = { s.boot with phase := .halted, err := 1 } ∧ s'.irq = { s.irq with testDone := true, testBits := caught &&& due } ∧
        s'.sec = { s.sec with romlock := true } ∧ s'.pm = s.pm)) ∧
    (s.boot.phase = .waitGo → s.inReset = false → bitAt v 0 = true → exec (.bootGo .hostS v) s = .next { s with boot := { s.boot with phase := .select, goAt := s.clk.bt } }) ∧
    (ag ≠ .hostS ∨ bitAt v 0 = false ∨ s.boot.phase ≠ .waitGo → exec (.bootGo ag v) s = .next s) ∧
    (s.boot.phase = .select → s.inReset = false → s.straps.bootList.toNat % 16 = 0 → ∃ s', exec (.bootSelect src) s = .next s' ∧ s'.boot = { s.boot with phase := .halted, err := 15 } ∧ s'.sec = { s.sec with romlock := true } ∧ s'.pm = s.pm) ∧
    (s.boot.phase = .select → s.inReset = false → s.straps.bootList.toNat % 16 = 8 → s.headCause x = none → x.bodyErr = false → sigOk x.hdr (slice x.body 0 (hdrLen x.hdr)) = true → hdrEnc x.hdr = false →
      ∃ s', exec (.bootSelect src) s = .next s' ∧ s'.boot.phase = .running ∧ s'.boot.src = 0x80 ∧ s'.boot.seq = BitVec.ofNat 32 (hdrSeq x.hdr) ∧ s'.boot.enc = false ∧ s'.sec = { s.sec with romlock := true } ∧
        (s'.hart 0).pc = BitVec.ofNat 32 (0x10000000 + hdrEntry x.hdr) ∧ (∀ i, i < hdrLen x.hdr → s'.pm.sram.read i = s.xch.mem.read (256 + i)) ∧
        s'.irq.wdogEn = true ∧ s'.irq.wdogLim = 50 ∧ s'.irq.wdogFrom = some s.clk.bt ∧ s'.xch.mem = s.xch.mem ∧ s'.deps = s.deps) ∧
    (s.boot.phase ≠ .select → exec (.bootSelect src) s = .next s) ∧
    (allowed → ∃ s', exec (.clockChange ck hz) s = .next s' ∧
      s'.clk = (match ck with | .eclk => { s.clk with eHz := hz } | .fclk => { s.clk with fHz := hz } | .pclk => { s.clk with pHz := hz } | .hclk => { s.clk with hHz := hz }) ∧ s'.deps = s.deps ∧ s'.xch.mem = s.xch.mem ∧ s'.pins = s.pins) ∧
    (¬ allowed → (hz ≠ 0 ∨ ck = .hclk ∨ s.pwr.state ≠ .hold ∨ s.pwr.retention = false) → exec (.clockChange ck hz) s = .fault .clockContract) ∧
    (hz = 0 → ck ≠ .hclk → s.pwr.state = .hold → s.pwr.retention = true → Runs (.clockChange ck hz) s)

/-- R378 to R380, R434 to R436: depot reset leaves the memories, DEP_STAT and the counter of torn messages; during a freeze it waits; a reset lane is OFF with nothing on the line; a transfer is taken on the conditions of R378 alone, copies the code, freezes when quiet with its guard before the next boundary, and at its end hands threads, memories and pins to the spare.
The model's own choices in it: log entries 31 to 33. -/
def Obligations.TransfersAndResets : Prop :=
  ∀ (s : State) (ag : Agent) (d l : Nat) (v : W32), s.inReset = false →
    let D := s.dep d
    let x := D.xfer
    let sp := v.toNat / 2 ^ 21 % 32
    let good : Prop := s.depRun d = true ∧ s.depRun sp = true ∧ d ≠ sp ∧ (∀ e ∈ (s.dep sp).threads, e.2.state = .idle) ∧ s.twin d = s.twin sp ∧ s.xferActive d = false ∧ s.xferActive sp = false
    let idle : Prop := ∀ f, f < 32 → (s.dep f).xfer.phase = .freeze → f ≠ d ∧ (s.dep f).xfer.spare ≠ d
    let due : Prop := s.quiescent d = true ∧ s.clk.bt + x.guard * s.rotBt ≤ s.nextBoundary x
    (d < s.nDep → D.rst = false → idle → ∃ s', exec (.depReset d) s = .next s' ∧ s'.dep d = { ({} : Depot) with
      edm := D.edm, edmErr := D.edmErr, code := D.code, codeErr := D.codeErr, rst := true, powered := D.powered, torn := satAdd D.torn (D.threads.filter (fun e => e.2.staging != [])).length } ∧
      (∀ f, f < 32 → f ≠ d → (s.dep f).xfer.spare = d → (s.dep f).xfer.phase = .wait → (s'.dep f).xfer.phase = .aborted)) ∧
    (d < s.nDep → D.rst = false → x.phase = .freeze → ∃ s', exec (.depReset d) s = .next s' ∧ s' = { s with deps := s'.deps } ∧ s'.dep d = { D with xfer := { x with rstHeld := true } } ∧ ∀ f, f ≠ d → s'.dep f = s.dep f) ∧
    (s.nDep ≤ d ∨ D.rst = true → exec (.depReset d) s = .next s) ∧
    (d < s.nDep → exec (.depResetRelease d) s = .next (s.setDep d { D with rst := false })) ∧
    (l < s.nLane → (s.lane l).rst = false → (s.lane l).link = true ∨ (s.lane l).tx = none → ∃ s', exec (.laneReset l) s = .next s' ∧ (s'.lane l).state = .off ∧ (s'.lane l).tx = none ∧ (s'.lane l).rst = true ∧ (s'.lane l).link = false ∧
      bitAt (s'.lane l).ctl 31 = false ∧ ((∀ c, (s.lane l).tx = some c → c.copy = false) → (s.lane l).wait = none →
        (∀ m, m ≠ l → s'.lane m = s.lane m) ∧ ((∃ j, j < s.nLane ∧ j ≠ l ∧ (s.lane j).rst = false ∧ bitAt s.pwr.lanePow j = true) → s'.xch.mem = s.xch.mem))) ∧
    (l < s.nLane → exec (.laneResetRelease l) s = .next (s.setLane l { s.lane l with rst := false })) ∧
    (isPm ag = true → s.depUp d = true → good → exec (.xferGo ag d v) s = .next (s.setDep d { D with xfer := { x with spare := sp, guard := v.toNat % 65536, phase := .code } })) ∧
    (isPm ag = true → s.depUp d = true → ¬ good → exec (.xferGo ag d v) s = .next (s.setDep d { D with fstat := setBit D.fstat 5 })) ∧
    (isPm ag = false → exec (.xferGo ag d v) s = .next s ∧ exec (.xferAbort ag d) s = .next s) ∧
    (isPm ag = true → s.depUp d = true → x.phase = .code ∨ x.phase = .wait → exec (.xferAbort ag d) s = .next (s.setDep d { D with xfer := { x with phase := .aborted } })) ∧
    (x.phase ≠ .code → x.phase ≠ .wait → exec (.xferAbort ag d) s = .next s) ∧
    (s.depUp d = true → x.phase = .code → x.spare ≠ d → ∃ s', exec (.xferCodeDone d) s = .next s' ∧ s' = { s with deps := s'.deps } ∧ s'.dep d = { D with xfer := { x with phase := .wait, waitFrom := s.clk.bt } } ∧
      s'.dep x.spare = { s.dep x.spare with code := D.code, codeErr := D.codeErr }) ∧
    (x.phase ≠ .code → exec (.xferCodeDone d) s = .next s) ∧
    (s.depUp d = true → x.phase = .wait → (due → exec (.xferFreeze d) s = .next (s.setDep d { D with xfer := { x with phase := .freeze, t := s.bt64, frzRot := s.rot } })) ∧ (¬ due → exec (.xferFreeze d) s = .next s) ∧
      (x.waitFrom + x.tmo * 9600 ≤ s.clk.bt → exec (.xferTimeout d) s = .next (s.setDep d { D with xfer := { x with phase := .timeout } })) ∧ (s.clk.bt < x.waitFrom + x.tmo * 9600 → exec (.xferTimeout d) s = .next s)) ∧
    (x.phase = .freeze → x.rstHeld = false → (s.dep x.spare).xfer.rstHeld = false → x.spare ≠ d → ∃ s', exec (.xferFreezeEnd d) s = .next s' ∧
      (s'.dep x.spare).threads = D.threads ∧ (s'.dep x.spare).edm = D.edm ∧ (s'.dep x.spare).edmErr = D.edmErr ∧ (s'.dep x.spare).chx = D.chx ∧ (s'.dep x.spare).code = (s.dep x.spare).code ∧
      (s'.dep x.spare).state = (s.dep x.spare).state ∧ (s'.dep d).state = .off ∧ (s'.dep d).en = false ∧ (s'.dep d).redir = BitVec.ofNat 32 (2 ^ 31 + x.spare) ∧ (s'.dep d).xfer.phase = .done ∧
      (s'.dep d).xfer.rots = s.rot - x.frzRot ∧ (s'.dep d).chutes = [] ∧ (∀ p, s.ownsPin d p = true → (s'.pin p).ownKind = 3 ∧ (s'.pin p).ownDep = BitVec.ofNat 5 x.spare) ∧
      (∀ p, s.ownsPin d p = false → s'.pin p = s.pin p)) ∧
    (x.phase ≠ .freeze → exec (.xferFreezeEnd d) s = .next s)

/-- R229, R233 to R242, Table 8.6: what a lane counts of each frame, and where a good frame of no PRP pair goes: with nothing else at the sorter, the ring its entry names takes the bytes without the FCS, the descriptor and the new count, all other words staying; a lane that is off, stopping or has lost its link takes no frame that began after; an enabled ring starts with a zero header, a bad one is refused with ring_err.
The model's own choices in it: log entries 22, 24 to 27, 29, 184, 185, 189 and 190. -/
def Obligations.LaneReception : Prop :=
  ∀ (s : State) (l k idx : Nat) (f : RxFrame) (e : Flow) (ag : Agent) (v : W32),
    let bs := f.bytes
    let len := bs.length
    let x := s.lane l
    let pause : Prop := beBytes bs 12 2 = 0x8808 ∧ beBytes bs 14 2 = 1
    let counted (c : Nat) : State := s.setLane l { x with cnt := x.cnt.set c (satInc (x.cnt.get c 0)) 0 }
    let r := s.fring k
    let b := r.base.toNat
    let n := 2 ^ (r.cfg.toNat / 2 ^ 16 % 16)
    let sz := 256 * 2 ^ (r.cfg.toNat / 2 ^ 20 % 8)
    let i := r.cnt.toNat % n
    let kept := (bs.take (len - 4)).take sz
    let slots := 2 ^ (v.toNat / 2 ^ 16 % 16)
    let w32 (y : State) (a : Nat) : W32 := y.xword (a + 1) ++ y.xword a
    let clear : Prop := s.srt.reqs = [] ∧ s.xch.err.get ((b + 2) / 2) none = none
    let fits : Prop := b % 64 = 0 ∧ 3 ≤ v.toNat / 2 ^ 16 % 16 ∧ v.toNat / 2 ^ 16 % 16 ≤ 10 ∧ v.toNat / 2 ^ 20 % 8 ≤ 6 ∧
      b / 65536 = (b + (64 + 8 * slots + slots * (256 * 2 ^ (v.toNat / 2 ^ 20 % 8)) / 2) - 1) / 65536
    (s.laneOn l = false ∨ x.state = .off ∨ (x.state ≠ .run ∧ x.stopBt < f.ts) ∨ (x.link = false ∧ x.lostBt < f.ts) → exec (.rxFrame l f) s = .next s) ∧
    (s.laneOn l = true → x.state ≠ .off → (x.state = .run ∨ f.ts ≤ x.stopBt) → (x.link = true ∨ f.ts ≤ x.lostBt) →
      (f.fifoFull = true → exec (.rxFrame l f) s = .next ((counted 4).setLane l { (counted 4).lane l with evt := setBit x.evt 2 })) ∧
      (f.fifoFull = false → len < 64 → exec (.rxFrame l f) s = .next (counted 2)) ∧
      (f.fifoFull = false → 64 ≤ len → len ≤ 4096 → f.fcsOk = false ∨ x.link = false → exec (.rxFrame l f) s = .next (counted 1)) ∧
      (f.fifoFull = false → 64 ≤ len → len ≤ 9216 → f.fcsOk = true → x.link = true → pause → exec (.rxFrame l f) s = .next (counted 6)) ∧
      (f.fifoFull = false → 64 ≤ len → len ≤ 9216 → f.fcsOk = true → x.link = true → ¬ pause → (s.prp (l / 2)).en = false →
        (s.classify l bs = none → bitAt x.defRing 31 = false → ∃ s', exec (.rxFrame l f) s = .next s' ∧ (s'.lane l).cnt.get 0 0 = satInc (x.cnt.get 0 0) ∧
          (s'.lane l).cnt.get 5 0 = satInc (x.cnt.get 5 0) ∧ s'.lan.rings = s.lan.rings ∧ s'.xch = s.xch) ∧
        (s.classify l bs = some (idx, e) → e.w3.toNat / 2 ^ 30 ≠ 0 → exec (.rxFrame l f) s = .next (counted 0)) ∧
        (s.classify l bs = some (idx, e) → e.w3.toNat / 2 ^ 30 = 0 → e.w3.toNat % 256 = k → bitAt r.cfg 31 = true → r.cfg.toNat / 2 ^ 26 % 8 = l → b % 64 = 0 → (∀ a, b ≤ a → a < b + 64 + 8 * n + n * (sz / 2) → s.bankHere a = true) → s.bankOn b = true → clear →
          (bitAt r.cfg 30 = true → (r.cnt - (s.xword (b + 3) ++ s.xword (b + 2))).toNat ≠ n) → ∃ s', exec (.rxFrame l f) s = .next s' ∧
            s'.fring k = { r with cnt := r.cnt + 1 } ∧ w32 s' b = r.cnt + 1 ∧
            w32 s' (b + 64 + 8 * i) = BitVec.ofNat 32 ((if sz < len - 4 then 3 else 0) * 2 ^ 28 + l * 2 ^ 25 + b2n (tagged bs) * 2 ^ 24 + kept.length) ∧
            w32 s' (b + 64 + 8 * i + 2) = BitVec.ofNat 32 (r.cnt.toNat % 65536 * 65536 + idx) ∧
            (bitAt r.cfg 29 = false → w32 s' (b + 64 + 8 * i + 6) ++ w32 s' (b + 64 + 8 * i + 4) = BitVec.ofNat 64 (f.ts - x.tsLat.toNat % 65536)) ∧
            (∀ j, j < kept.length → (s'.xword (b + 64 + 8 * n + i * (sz / 2) + j / 2)).toNat / 256 ^ (j % 2) % 256 = (kept[j]?.getD 0).toNat) ∧
            (∀ a, (a < b ∨ b + 64 + 8 * n + n * (sz / 2) ≤ a ∨ (b + 2 ≤ a ∧ a < b + 64)) → s'.xword a = s.xword a)) ∧
        (s.classify l bs = some (idx, e) → e.w3.toNat / 2 ^ 30 = 0 → e.w3.toNat % 256 = k → bitAt r.cfg 31 = false → ∃ s', exec (.rxFrame l f) s = .next s' ∧
          bitAt (s'.lane l).evt 6 = true ∧ (s'.lane l).cnt.get 10 0 = satInc (x.cnt.get 10 0) ∧ s'.xch = s.xch ∧ s'.lan.rings = s.lan.rings) ∧
        (s.classify l bs = some (idx, e) → e.w3.toNat / 2 ^ 30 = 0 → e.w3.toNat % 256 = k → bitAt r.cfg 31 = true → r.cfg.toNat / 2 ^ 26 % 8 = l → s.bankOn b = true → clear →
          bitAt r.cfg 30 = true → (r.cnt - (s.xword (b + 3) ++ s.xword (b + 2))).toNat = n → exec (.rxFrame l f) s = .next ((counted 0).setFring k { r with lost := satInc r.lost })) ∧
        (s.classify l bs = some (idx, e) → e.w3.toNat / 2 ^ 30 = 0 → e.w3.toNat % 256 = k → bitAt r.cfg 31 = true → r.cfg.toNat / 2 ^ 26 % 8 = l → s.bankOn b = false → ∃ s', exec (.rxFrame l f) s = .next s' ∧
          s'.fring k = { r with cfg := clrBit r.cfg 31 } ∧ bitAt (s'.lane l).evt 4 = true ∧ s'.xch = s.xch))) ∧
    (s.globalWriter ag = false → exec (.lanRingEnable ag k v) s = .next s) ∧
    (s.globalWriter ag = true → s.pinRuns = true → k < 256 → bitAt r.cfg 31 = false →
      (fits → s.bankOn b = true → s.srt.reqs = [] → (∀ a, b ≤ a → a < b + 64 → s.bankHere a = true) → ∃ s', exec (.lanRingEnable ag k v) s = .next s' ∧ s'.fring k = { r with cfg := (v &&& 0x7C7F0000) ||| 0x80000000, cnt := 0 } ∧
        s'.xword b = 0 ∧ s'.xword (b + 1) = 0 ∧ (∀ j, 4 ≤ j → j < 64 → s'.xword (b + j) = 0) ∧ (∀ a, a < b ∨ b + 64 ≤ a → s'.xword a = s.xword a) ∧ s'.lan.lanes = s.lan.lanes) ∧
      (¬ fits → ∃ s', exec (.lanRingEnable ag k v) s = .next s' ∧ s'.lan.rings = s.lan.rings ∧ bitAt (s'.lane (v.toNat / 2 ^ 26 % 8)).evt 4 = true ∧ s'.xch = s.xch))

/-- R235, R243 to R251: a lane polls once in its period and takes, with nothing else at the sorter, the producer count of every enabled queue and the descriptor at its head; it launches the eligible head of highest queue while its line is free, holding up to 4,096 bytes of it; a PRP frame goes out on both lanes of its pair with one sequence number; a frame of a bad length ends with LEN_ERR; a frame that ends leaves its bytes and FCS on the line and writes status, timestamp and consumer count; link and lane states; the classifier command registers; a forgotten PRP source.
The model's own choices in it: log entries 28, 29, 183, 186 to 188 and 191. -/
def Obligations.LaneTransmission : Prop :=
  ∀ (s : State) (l q p : Nat) (under : Bool) (ag : Agent) (v : W32) (mac : BitVec 48) (d : TxDesc),
    let x := s.lane l
    let t := x.txq q
    let b := t.base.toNat
    let w32 (y : State) (a : Nat) : W32 := y.xword (a + 1) ++ y.xword a
    let at0 (u : Txq) : Nat := u.base.toNat + 64 + 8 * (u.cons.toNat % 2 ^ (u.cfg.toNat % 16))
    let a := at0 t
    let len := d.w0.toNat % 65536
    let first : Prop := s.eligible l q = true ∧ ∀ j, q < j → j < 8 → s.eligible l j = false
    let start := if bitAt d.w0 21 then Nat.max s.clk.bt d.launch else s.clk.bt
    let fits : Prop := b % 64 = 0 ∧ 3 ≤ v.toNat % 16 ∧ v.toNat % 16 ≤ 10 ∧ b / 65536 = (b + 63 + 8 * 2 ^ (v.toNat % 16)) / 65536
    let writer : Prop := s.globalWriter ag = true ∧ s.pinRuns = true
    let period := 960 * max 1 x.txPoll.toNat
    let due : Prop := ∀ y, x.polled = some y → y / period < s.clk.bt / period
    let clear : Prop := s.srt.reqs = [] ∧ s.xch.err = []
    let takes : Prop := s.laneOn l = true ∧ x.state = .run ∧ x.tx = none ∧ q < 8 ∧ first ∧ t.head = some d
    let held (c : TxCur) : Prop := c.bytes.length = min 4096 len ∧ ∀ j, j < min 4096 len → c.bytes[j]? = some ((s.xword (d.w1.toNat % 2 ^ 22 + j / 2)).extractLsb' (8 * (j % 2)) 8)
    let room : Prop := b % 64 = 0 ∧ s.bankHere b = true ∧ s.bankOn b = true ∧ ∀ j, j < 8 → s.bankHere (a + j) = true
    (s.laneOn l = true → x.state = .run → due → clear → ∃ s', exec (.txPoll l) s = .next s' ∧ (s'.lane l).polled = some s.clk.bt ∧ (∀ m, m ≠ l → s'.lane m = s.lane m) ∧ s'.xch = s.xch ∧
      ∀ j, j < 8 → (s'.lane l).txq j = (let u := x.txq j
        let n := w32 s u.base.toNat
        if bitAt u.cfg 31 = true ∧ s.bankOn u.base.toNat = true then
          { u with prod := n, head := if n = u.cons ∨ u.head.isSome = true then u.head else some { w0 := w32 s (at0 u), w1 := w32 s (at0 u + 2), launch := (w32 s (at0 u + 6) ++ w32 s (at0 u + 4)).toNat } }
        else u)) ∧
    (s.laneOn l = false ∨ x.state ≠ .run → exec (.txPoll l) s = .next s ∧ exec (.txLaunch l q) s = .next s) ∧
    (¬ due → exec (.txPoll l) s = .next s) ∧
    (takes → bitAt d.w0 19 = false → 60 ≤ len → len ≤ 9212 → s.dataOn d.w1 0 (min 4096 len) = true → x.link = true → clear → (bitAt d.w0 21 = false ∨ start ≤ d.launch + 960 * x.txLate.toNat) →
      ∃ s' c, exec (.txLaunch l q) s = .next s' ∧ (s'.lane l).tx = some c ∧ s' = s.setLane l { x with tx := some c } ∧ c.queue = q ∧ c.w0 = d.w0 ∧ c.w1 = d.w1 ∧ c.start = start ∧ c.seq = none ∧ c.copy = false ∧ held c) ∧
    (takes → bitAt d.w0 19 = true → bitAt d.w0 21 = false → (s.prp (l / 2)).en = true → l % 2 = 0 → s.lineUp l = true → s.lineUp (l + 1) = true → (s.lane (l + 1)).tx = none → 60 ≤ len → len ≤ 9206 → s.dataOn d.w1 0 (min 4096 len) = true → clear →
      ∃ s' c e, exec (.txLaunch l q) s = .next s' ∧ (s'.lane l).tx = some c ∧ (s'.lane (l + 1)).tx = some e ∧ c.seq = some (s.prp (l / 2)).seq ∧ e.seq = some (s.prp (l / 2)).seq ∧ c.copy = false ∧ e.copy = true ∧
        held c ∧ held e ∧ (s'.prp (l / 2)).seq = (s.prp (l / 2)).seq + 1 ∧ (s'.lane l).dup = some { queue := q, w0 := d.w0 }) ∧
    (takes → bitAt d.w0 19 = false → len < 60 ∨ 9212 < len → room → s.srt.reqs = [] →
      ∃ s', exec (.txLaunch l q) s = .next s' ∧ (s'.lane l).tx = none ∧ ((s'.lane l).txq q).cons = t.cons + 1 ∧ w32 s' (b + 2) = t.cons + 1 ∧ w32 s' a = ((d.w0 &&& 0x00FFFFFF) ||| 0x50000000)) ∧
    (x.tx.isSome = true ∨ ¬ first → exec (.txLaunch l q) s = .next s) ∧
    (∀ c, x.tx = some c → s.laneOn l = true → c.queue = q → c.seq = none → c.copy = false → x.wait = none → room → s.srt.reqs = [] → c.w0.toNat % 65536 ≤ 4096 →
      ∃ s', exec (.txFrameEnd l under) s = .next s' ∧ (s'.lane l).tx = none ∧ (s'.lane l).cnt.get 7 0 = satInc (x.cnt.get 7 0) ∧ ((s'.lane l).txq q).cons = t.cons + 1 ∧ w32 s' (b + 2) = t.cons + 1 ∧ w32 s' a = ((c.w0 &&& 0x00FFFFFF) ||| 0x10000000) ∧
        (bitAt c.w0 22 = false → (s'.lane l).out = c.bytes ++ numBytes (crc32Of c.bytes).toNat 4) ∧
        (bitAt c.w0 23 = true → bitAt x.ctl 28 = false → w32 s' (a + 6) ++ w32 s' (a + 4) = BitVec.ofNat 64 (c.start + x.tsLat.toNat / 65536)) ∧ (∀ w, w ≠ b + 2 → w ≠ b + 3 → (w < a ∨ a + 8 ≤ w) → s'.xword w = s.xword w)) ∧
    (∀ c, x.tx = some c → s.laneOn l = true → c.queue = q → c.seq = none → c.copy = false → x.wait = none → room → s.srt.reqs = [] → 4096 < c.w0.toNat % 65536 →
      ∃ s', exec (.txFrameEnd l true) s = .next s' ∧ (s'.lane l).tx = none ∧ (s'.lane l).cnt.get 8 0 = satInc (x.cnt.get 8 0) ∧ bitAt (s'.lane l).evt 5 = true ∧ w32 s' a = ((c.w0 &&& 0x00FFFFFF) ||| 0x30000000)) ∧
    (x.tx = none → exec (.txFrameEnd l under) s = .next s) ∧
    (s.laneOn l = true → x.link = true → x.tx = none → ∃ s', exec (.linkDown l) s = .next s' ∧ s'.lane l = { x with link := false, blockLock := false, lostBt := s.clk.bt, evt := setBit x.evt 1 } ∧ (∀ m, m ≠ l → s'.lane m = s.lane m) ∧ s'.deps = s.deps ∧ s'.xch.mem = s.xch.mem) ∧
    (s.laneOn l = true → x.link = false → x.state ≠ .off → ∃ s', exec (.linkUp l) s = .next s' ∧ s'.lane l = { x with link := true, blockLock := true, evt := setBit x.evt 0 } ∧ (∀ m, m ≠ l → s'.lane m = s.lane m) ∧ s'.deps = s.deps ∧ s'.xch.mem = s.xch.mem) ∧
    (x.link = false → exec (.linkDown l) s = .next s) ∧ (x.link = true → exec (.linkUp l) s = .next s) ∧
    (writer → s.laneOn l = true → exec (.laneStart ag l) s = .next (s.setLane l { x with ctl := setBit x.ctl 31, state := if x.state = .off then .run else x.state }) ∧
      exec (.laneStop ag l) s = .next (s.setLane l { x with ctl := clrBit x.ctl 31, stopBt := if x.state = .run then s.clk.bt else x.stopBt, state := if x.state = .run then .stopping else x.state }) ∧
      (q < 8 → fits → exec (.txqEnable ag l q v) s = .next (s.setLane l (x.setTxq q { t with cfg := (v &&& 0xF) ||| 0x80000000, prod := if bitAt t.cfg 31 then t.prod else t.cons, head := none }))) ∧
      (q < 8 → ¬ fits → exec (.txqEnable ag l q v) s = .next (s.setLane l { x with evt := setBit x.evt 4 }))) ∧
    (¬ writer → exec (.laneStart ag l) s = .next s ∧ exec (.laneStop ag l) s = .next s ∧ exec (.txqEnable ag l q v) s = .next s ∧ exec (.clsWrite ag) s = .next s ∧ exec (.clsRead ag) s = .next s) ∧
    (s.laneOn l = true → x.state = .stopping → x.tx = none → x.wait = none → x.dup = none → ∃ s', exec (.laneOff l) s = .next s' ∧ s'.lane l = { x with state := if bitAt x.ctl 31 then .run else .off, txqs := (s'.lane l).txqs } ∧
      (∀ j, (s'.lane l).txq j = { x.txq j with head := none }) ∧ s' = { s with lan := s'.lan } ∧ ∀ m, m ≠ l → s'.lane m = s.lane m) ∧
    (x.state ≠ .stopping ∨ x.tx ≠ none ∨ x.wait ≠ none ∨ x.dup ≠ none → exec (.laneOff l) s = .next s) ∧
    (writer → ∃ s', exec (.clsWrite ag) s = .next s' ∧ s' = { s with lan := { s.lan with flows := s'.lan.flows } } ∧ ∀ j, s'.lan.flows.get j {} = if j = s.lan.clsIdx.toNat then s.lan.cls else s.lan.flows.get j {}) ∧
    (writer → exec (.clsRead ag) s = .next { s with lan := { s.lan with cls := s.lan.flows.get s.lan.clsIdx.toNat {} } }) ∧
    (s.inReset = false → ∃ s', exec (.prpForget p mac) s = .next s' ∧ (∀ o, o ≠ p → s'.prp o = s.prp o) ∧
      ∀ e, e ∈ (s'.prp p).srcs ↔ e ∈ (s.prp p).srcs ∧ ¬ (e.mac = mac ∧ e.last + (s.prp p).forget.toNat * 9600000 ≤ s.clk.bt))

/-- R413 to R417, R423, R424: the ROM lock; the domain registers, whose refused changes set cfg_err alone; the image key in WAIT_GO; the AES engine in machine mode; challenge, response and grant of an unlock token; the start of a zeroisation and its end at level 3. The challenge is a free value of the model.
The model's own choices in it: log entries 48, 49, 51 and 60. -/
def Obligations.SecurityUnit : Prop :=
  ∀ (s : State) (ag : Agent) (v : W32) (i n : Nat) (src : DbgSrc), s.inReset = false →
    let x := s.sec
    let writer : Prop := ag = .pmA ∨ ag = .pmB ∨ ag = .hostS
    let machine : Prop := (ag = .pmA ∧ (s.hart 0).priv = .m) ∨ (ag = .pmB ∧ (s.hart (if s.straps.pmTwin then 0 else 1)).priv = .m)
    let lc := s.straps.lifecycle
    let moved (d : Nat) : Prop := d < s.nDep ∧ bitAt v d ≠ bitAt x.depDom d ∧ (s.dep d).powered = true ∧ (s.dep d).state ≠ .off
    let cfgErr : State := { s with sec := { x with evt := setBit x.evt 1 } }
    let fresh : Prop := x.chalPend = true ∧ s.clk.bt ≤ x.chalT + 60 * 9600000000
    let a := x.aesAddr.toNat % 2 ^ 20
    let len := Nat.min x.aesLen.toNat (0x100000 - a)
    let r := Config.aesGcm x.ikey x.aesIv (s.pm.sram.bytes (x.aesAad.toNat % 2 ^ 20) 32) (s.pm.sram.bytes a len) x.aesTag
    exec (.romLock ag v) s = .next (if isPm ag && bitAt v 0 then { s with sec := { x with romlock := true } } else s) ∧
    (¬ writer → exec (.secDomainWrite ag n v) s = .next s) ∧
    (writer → (∀ d, ¬ moved d) → x.esc = false → exec (.secDomainWrite ag 0x30 v) s = .next { s with sec := { x with depDom := v } }) ∧
    (writer → v ≠ x.depDom → (∃ d, moved d) ∨ x.esc = true → exec (.secDomainWrite ag 0x30 v) s = .next cfgErr) ∧
    (writer → x.esc = false → exec (.secDomainWrite ag 0x34 v) s = .next { s with sec := { x with lbDom := v.extractLsb' 0 16 &&& 0xFFF8 } }) ∧
    (writer → s.nPin ≤ 16 * n → n < 48 → exec (.secDomainWrite ag (0xC0 + 4 * n) v) s = .next s) ∧
    (writer → x.esc = false → 16 * n < s.nPin → n < 48 → (∀ b, b < 16 → bitAt (x.pinDom.get n 0) b = true → bitAt v b = false → (s.pin (16 * n + b)).ownKind ≠ 2 ∧ ((s.pin (16 * n + b)).ownKind = 3 → s.depNormal (s.pin (16 * n + b)).ownDep.toNat = false)) →
      ∃ s', exec (.secDomainWrite ag (0xC0 + 4 * n) v) s = .next s' ∧ s' = { s with sec := { x with pinDom := s'.sec.pinDom } } ∧ ∀ g, s'.sec.pinDom.get g 0 = if g = n then v.extractLsb' 0 16 else x.pinDom.get g 0) ∧
    (s.boot.phase = .waitGo → lc ≠ 3 → i < 8 → ∃ k, exec (.ikeyWrite .hostS i v) s = .next { s with sec := { x with ikey := k, ikeySet := true } } ∧
      ∀ b, b < 256 → bitAt k b = if 32 * i ≤ b ∧ b < 32 * i + 32 then bitAt v (b - 32 * i) else bitAt x.ikey b) ∧
    (ag ≠ .hostS ∨ s.boot.phase ≠ .waitGo ∨ lc = 3 → exec (.ikeyWrite ag i v) s = .next s) ∧
    (machine → x.aesStatus ≠ 1 → exec (.aesGo ag) s = .next { s with sec := { x with aesStatus := 1 } }) ∧
    (¬ machine ∨ x.aesStatus = 1 → exec (.aesGo ag) s = .next s) ∧
    (x.aesStatus = 1 → ∃ s', exec .aesDone s = .next s' ∧ s'.sec = { x with aesStatus := if r.2 then 2 else 3 } ∧ (∀ j, s'.pm.sram.read j = if a ≤ j ∧ j < a + len then r.1[j - a]?.getD 0 else s.pm.sram.read j) ∧ s'.deps = s.deps ∧ s'.xch = s.xch) ∧
    (x.aesStatus ≠ 1 → exec .aesDone s = .next s) ∧
    (src = .pm ∨ src = .tap → bitAt v 31 = true → lc = 1 ∨ lc = 2 → x.dbgLock = false → 2 ≤ v.toNat % 4 → ∃ c s', exec (.dbgChallengeReq src v) s = .next s' ∧
      s' = { s with sec := { x with chal := c, chalPend := true, chalLevel := BitVec.ofNat 2 v.toNat, chalT := s.clk.bt }, free := s'.free }) ∧
    (src = .pm ∨ src = .tap → bitAt v 31 = true → lc = 0 ∨ lc = 3 ∨ x.dbgLock = true → exec (.dbgChallengeReq src v) s = .next cfgErr) ∧
    (src = .hostS ∨ src = .hostN → exec (.dbgChallengeReq src v) s = .next s) ∧
    (src ≠ .hostN → i < 24 → ∃ s', exec (.dbgResponseWrite src i v) s = .next s' ∧ (∀ j, s'.sec.resp.get j 0 = if j = i then v else x.resp.get j 0) ∧ s'.sec.evt = (if i = 23 then setBit x.evt 3 else x.evt) ∧
      s' = { s with sec := { x with resp := s'.sec.resp, evt := s'.sec.evt } }) ∧
    exec (.dbgResponseWrite .hostN i v) s = .next s ∧
    (¬ machine → exec (.dbgGrantOk ag) s = .next s ∧ exec (.dbgGrantFail ag) s = .next s) ∧
    (machine → x.fails.toNat < 4 → let s' : State := { s with sec := { x with chalPend := false, fails := x.fails + 1, dbgLock := x.dbgLock || x.fails == 3, evt := setBit x.evt 4 } };
      exec (.dbgGrantFail ag) s = .next s' ∧ (¬ fresh → exec (.dbgGrantOk ag) s = .next s')) ∧
    (machine → fresh → x.chalLevel = 2 → s.dbg.level.toNat < 2 → exec (.dbgGrantOk ag) s = .next { s with sec := { x with chalPend := false, evt := setBit x.evt 2 }, dbg := { s.dbg with level := 2 } }) ∧
    (machine → fresh → x.chalLevel = 3 → s.dbg.level.toNat < 3 → x.esc = false → ∃ s', exec (.dbgGrantOk ag) s = .next s' ∧ s'.sec.esc = true ∧ s'.sec.chalPend = false ∧ s'.dbg = s.dbg ∧ s'.sec.ikey = 0 ∧ s'.sec.ikeySet = false ∧
      s'.sec.aesStatus = 0 ∧ s'.sec.aesAddr = 0 ∧ s'.sec.aesLen = 0 ∧ s'.sec.aesAad = 0 ∧ s'.sec.aesIv = 0 ∧ s'.sec.aesTag = 0 ∧
      (∀ w k, k < 16 → s.inRegion k w = true → bitAt (x.xregLo.get k 0) 30 = false → bitAt (x.xregLo.get k 0) 29 = true → s'.xword w = 0) ∧
      (∀ w, (∀ k, k < 16 → s.inRegion k w = true → bitAt (x.xregLo.get k 0) 30 = true ∨ bitAt (x.xregLo.get k 0) 29 = false) → s'.xword w = s.xword w) ∧
      (∀ d, d < s.nDep → bitAt x.zdDep d = true → bitAt x.depDom d = false → (s.dep d).powered = true → (s.dep d).state = .off → (s'.dep d).state = .clearing ∧ (s'.dep d).edm = [] ∧ (s'.dep d).code = [])) ∧
    (x.esc = true → x.lowerTo = none → (∀ d, d < s.nDep → bitAt x.zdDeps d = true → (s.dep d).state = .off) → s.dbg.level.toNat < 3 → ∃ s', exec .zeroisationDone s = .next s' ∧ s'.dbg = { s.dbg with level := 3, evt := setBit s.dbg.evt 2 } ∧
      s'.sec = { x with esc := false, zdDeps := 0, zdRegs := 0, evt := setBit x.evt 2 } ∧ (∀ d, d < s.nDep → bitAt x.zdDeps d = true → (s'.dep d).edm = [] ∧ (s'.dep d).code = []) ∧ s'.xch = s.xch ∧ s'.pins = s.pins) ∧
    (x.esc = false → exec .zeroisationDone s = .next s)

/-- R406, R418 to R422, Tables 15.6, 15.12: the debug level; halt, resume and step of threads and harts; the thread registers, the slice and the code store through the window; trace; the TAP. The register and the pc a stepped hart ends with are free values of the model.
The model's own choices in it: log entries 12, 49, 52, 53, 62 and 65. -/
def Obligations.DebugUnit : Prop :=
  ∀ (s : State) (src : DbgSrc) (t : Tid) (h i a : Nat) (v off data : W32) (op : BitVec 2) (q : Reg) (imm : Word), s.inReset = false →
    let lv := if src = .hostS ∨ src = .tap then s.dbg.level.toNat else 0
    let x := v.toNat % 4
    let lc := s.straps.lifecycle
    let D := s.dep (depOf t)
    let u := s.thr t
    let mayThread : Prop := s.depUp (depOf t) = true ∧ (lv = 3 ∨ lv = 2 ∧ s.depNormal (depOf t) = true) ∧ s.follower t = false
    let mayHart : Prop := lv = 3 ∧ h < 2 ∧ s.pwr.state ≠ .hold ∧ s.pwr.state ≠ .off ∧ s.pwr.retention = false
    let halted : Bool := if h = 0 ∨ s.straps.pmTwin = true then s.dbg.haltA else s.dbg.haltB
    let refused : State := { s with dbg := { s.dbg with evt := setBit s.dbg.evt 1 } }
    let withHalt (b : Bool) : Dbg := { s.dbg with haltA := if h = 0 ∨ s.straps.pmTwin = true then b else s.dbg.haltA, haltB := if h = 1 ∨ s.straps.pmTwin = true then b else s.dbg.haltB }
    let recs := 2 ^ (v.toNat / 2 ^ 20 % 16)
    let td := v.toNat / 2 ^ 24 % 32
    let covered : Prop := (lv = 3 ∨ 1 ≤ lv ∧ s.depNormal td = true ∧ s.rangeNormal s.dbg.trcBase.toNat (4 * recs) = true) ∧ v.toNat / 2 ^ 20 % 16 ≤ 12
    let tc := s.dbg.trcCtl
    let w := s.dbg.trcBase.toNat + 4 * (s.dbg.trcIdx % 2 ^ (tc.toNat / 2 ^ 20 % 16))
    let tt := tidOf (tc.toNat / 2 ^ 24 % 32) (s.dbg.trcIdx % 128)
    let caddr := s.dbg.winCtl.toNat / 4096 % 65536
    (src = .pm ∨ src = .hostN → exec (.dbgLevelWrite src v) s = .next s) ∧
    (src = .hostS ∨ src = .tap →
      (x = s.dbg.level.toNat → s.sec.esc = false → exec (.dbgLevelWrite src v) s = .next s) ∧
      (x ≤ s.dbg.level.toNat → s.sec.esc = true → exec (.dbgLevelWrite src v) s = .next { s with sec := { s.sec with lowerTo := some (BitVec.ofNat 2 x) } }) ∧
      (s.dbg.level.toNat < x → s.pwr.state = .hold ∨ ((lc = 1 ∨ lc = 2) ∧ x ≠ 1) → exec (.dbgLevelWrite src v) s = .next refused) ∧
      (s.dbg.level.toNat < x → x ≠ 3 → s.pwr.state ≠ .hold → lc = 0 ∨ lc = 3 ∨ x = 1 → exec (.dbgLevelWrite src v) s = .next { s with dbg := { s.dbg with level := BitVec.ofNat 2 x }, sec := { s.sec with evt := setBit s.sec.evt 2 } }) ∧
      (x < s.dbg.level.toNat → s.sec.esc = false → ∃ s', exec (.dbgLevelWrite src v) s = .next s' ∧ s'.dbg.level = BitVec.ofNat 2 x ∧ s'.sec = { s.sec with evt := setBit s.sec.evt 2 } ∧ s'.dbg.haltA = false ∧ s'.dbg.haltB = false ∧
        (x < 2 → s'.dbg.brkDep = 0) ∧ ((x = 0) → bitAt s'.dbg.trcCtl 31 = false) ∧
        (∀ r, (s.thr r).state = .halted → s'.thr r = (if x = 2 ∧ s.depNormal (depOf r) = true then s.thr r else { s.thr r with state := .running })) ∧ s'.pm = s.pm ∧ s'.xch = s.xch)) ∧
    (2 ≤ lv → s.pwr.state = .hold → exec (.dbgCtlWake src) s = .next { s with pwr := { s.pwr with wakePend := setBit s.pwr.wakePend 3 } }) ∧
    (lv < 2 ∨ (s.pwr.state ≠ .hold ∧ s.pwr.target ≠ some .hold) → exec (.dbgCtlWake src) s = .next s) ∧
    (¬ mayThread → exec (.dbgHalt src t) s = .next s ∧ exec (.dbgResume src t) s = .next s ∧ exec (.dbgStep src t) s = .next s) ∧
    (mayThread → s.frozen t = true → exec (.dbgHalt src t) s = .next refused ∧ exec (.dbgResume src t) s = .next refused ∧ exec (.dbgStep src t) s = .next refused) ∧
    (mayThread → s.frozen t = false →
      (u.state = .running ∨ u.state = .blocked → ∃ s', exec (.dbgHalt src t) s = .next s' ∧ (s'.thr t).state = .stopping ∧ (s'.thr t).stopTo = .halted ∧ (s'.thr t).w = u.w ∧ (s'.thr t).pc = u.pc ∧
        (s'.thr t).pend = (if u.pend.inFlight then u.pend else .none) ∧ (∀ r, r ≠ t → (s'.thr r).state = (s.thr r).state ∧ (s'.thr r).w = (s.thr r).w) ∧ s'.xch = s.xch ∧ s'.dbg = s.dbg) ∧
      (u.state = .halted → exec (.dbgResume src t) s = .next (s.setThr t { u with state := .running })) ∧ (u.state ≠ .halted → exec (.dbgResume src t) s = .next s ∧ exec (.dbgStep src t) s = .next s) ∧
      (u.state = .halted → s.depIssues (depOf t) = true → u.pc.toNat ≤ 0xBFFF → D.codeErr.get u.pc.toNat none = none → decodeEng t (D.codeWord u.pc.toNat) = some (.movi t q imm) → u.ldep = 0 → ∃ s', exec (.dbgStep src t) s = .next s' ∧
        (s'.thr t).state = .halted ∧ (s'.thr t).reg q = imm ∧ (s'.thr t).pc = u.pc + 1 ∧ bitAt s'.dbg.evt 0 = true ∧ ∀ r, r ≠ t → s'.thr r = s.thr r)) ∧
    (mayHart → halted = false → exec (.dbgPmHalt src h) s = .next { s with dbg := { withHalt true with evt := setBit s.dbg.evt 0 } }) ∧
    (mayHart → halted = true → exec (.dbgPmResume src h) s = .next { s with dbg := withHalt false } ∧ ∃ s', exec (.dbgPmStep src h) s = .next s' ∧ bitAt s'.dbg.evt 0 = true ∧ s'.deps = s.deps ∧ s'.xch = s.xch ∧ s'.pm.sram = s.pm.sram ∧
      ∃ r, ∀ j, j ≠ r → (s'.hart (if s.straps.pmTwin then 0 else h)).x.get j 0 = (s.hart (if s.straps.pmTwin then 0 else h)).x.get j 0) ∧
    (¬ mayHart → exec (.dbgPmHalt src h) s = .next s ∧ exec (.dbgPmResume src h) s = .next s ∧ exec (.dbgPmStep src h) s = .next s) ∧
    (t = s.dbg.winCtl.extractLsb' 0 12 →
      (mayThread → u.state = .halted → exec (.dbgTregAccess src i none) s = .next { s with rdata := (u.treg t i).setWidth 32 } ∧ exec (.dbgTregAccess src i (some v)) s = .next (s.setThr t (u.setTreg i (v.extractLsb' 0 16))) ∧
        (i < 16 → u.treg t i = u.reg (BitVec.ofNat 4 i).toFin) ∧ (u.treg t 22 = u.pc) ∧ (u.setTreg 22 (v.extractLsb' 0 16) = { u with pc := v.extractLsb' 0 16 })) ∧
      (mayThread → u.state ≠ .halted → exec (.dbgTregAccess src i none) s = .next { s with rdata := 0, dbg := { s.dbg with evt := setBit s.dbg.evt 1 } } ∧ exec (.dbgTregAccess src i (some v)) s = .next refused) ∧
      (¬ mayThread → exec (.dbgTregAccess src i none) s = .next { s with rdata := 0 } ∧ exec (.dbgTregAccess src i (some v)) s = .next s ∧ exec (.dbgSliceAccess src a none) s = .next { s with rdata := 0 } ∧ exec (.dbgSliceAccess src a (some v)) s = .next s) ∧
      (mayThread → a < sliceSize u.slice → let m := sliceBase (idxOf t) u.slice + a
      (D.edmErr.get m none = none → exec (.dbgSliceAccess src a none) s = .next { s with rdata := (D.word m).setWidth 32 }) ∧
        (D.edmErr.get m none = some .single → exec (.dbgSliceAccess src a none) s = .next { s.setDep (depOf t) { D with eccData := satInc D.eccData, edmErr := D.edmErr.set m none none } with rdata := (D.word m).setWidth 32 }) ∧
        (u.state = .halted ∨ u.state = .idle → ∃ s', exec (.dbgSliceAccess src a (some v)) s = .next s' ∧ StoresWords t s s' [(sliceBase (idxOf t) u.slice + a, v.extractLsb' 0 16)]) ∧
        (u.state ≠ .halted → u.state ≠ .idle → exec (.dbgSliceAccess src a (some v)) s = .next s)) ∧
      (s.depUp (depOf t) = true → lv = 3 ∨ lv = 2 ∧ s.depNormal (depOf t) = true → ∃ s', exec (.dbgCodeDataRead src) s = .next s' ∧ s' = { s with rdata := s'.rdata, dbg := { s.dbg with winCtl := s'.dbg.winCtl } } ∧
        s'.rdata = (if caddr ≤ 0xBFFF then D.codeWord caddr else 0) ∧ s'.dbg.winCtl.toNat = s.dbg.winCtl.toNat % 4096 + (caddr + 1) % 65536 * 4096) ∧
      (lv < 2 → exec (.dbgCodeDataRead src) s = .next { s with rdata := 0 })) ∧
    (lv = 0 → exec (.traceEnable src v) s = .next s) ∧
    (lv ≠ 0 → covered → exec (.traceEnable src v) s = .next { s with dbg := { s.dbg with trcCtl := setBit (v &&& 0x9FF0FFFF) 31, trcIdx := 0, trcNext := s.rot + Nat.max 1 (v.toNat % 65536) } }) ∧
    (lv ≠ 0 → ¬ covered → exec (.traceEnable src v) s = .next { s with dbg := { s.dbg with trcCtl := clrBit (v &&& 0x9FF0FFFF) 31, evt := setBit s.dbg.evt 1 } }) ∧
    (bitAt tc 31 = true → s.dbg.trcNext ≤ s.rot → s.dbg.level = 3 → s.bankOn w = true → s.bankHere w = true → s.dbg.trcBase.toNat % 4 = 0 → s.depUp (tc.toNat / 2 ^ 24 % 32) = true → ∃ s', exec .traceSample s = .next s' ∧
      s'.dbg.trcIdx = s.dbg.trcIdx + 1 ∧ s'.dbg.trcNext = s.dbg.trcNext + Nat.max 1 (tc.toNat % 65536) ∧ s'.xword w = tt.setWidth 16 ∧ s'.xword (w + 1) = (s.tstat tt).extractLsb' 0 16 ∧ s'.xword (w + 2) = (s.tstat tt).extractLsb' 16 16 ∧
      s'.xword (w + 3) = BitVec.ofNat 16 s.clk.bt ∧ (∀ j, j < w ∨ w + 4 ≤ j → s'.xword j = s.xword j) ∧ s'.deps = s.deps) ∧
    (bitAt tc 31 = false ∨ s.rot < s.dbg.trcNext → exec .traceSample s = .next s) ∧
    (op = 0 ∨ s.pwr.state = .off → exec (.tapDbgacc op off data) s = .next { s with dbg := { s.dbg with tapIr := 8 } }) ∧
    (s.pwr.state ≠ .off → busTarget off.toNat = .regs → ∃ s', exec (.tapDbgacc 1 off data) s = .next s' ∧ s'.dbg.tapRes = 0 ∧ s'.dbg.tapIr = 8 ∧ s'.pending = s.pending) ∧
    (s.pwr.state ≠ .off → s.dbg.level.toNat < 2 → off.toNat < 0x800000 → off.toNat % 4 = 0 → s.pwr.state ≠ .hold → s.bankHere (off.toNat / 2) = true → s.wordNormal (off.toNat / 2) = false →
      (∃ s', exec (.tapDbgacc 1 off data) s = .next s' ∧ s'.dbg.tapRes = 1 ∧ s'.xch.mem = s.xch.mem) ∧ ∃ s', exec (.tapDbgacc 2 off data) s = .next s' ∧ s'.dbg.tapRes = 1 ∧ s'.xch.mem = s.xch.mem) ∧
    exec .tapReset s = .next { s with dbg := { s.dbg with tapIr := 0xF } }

/-- R341, R342, R349, R352 to R357, Tables 12.4, 12.6: LR, SC and AMO on Postmaster SRAM at the translated address, and their faults; FENCE.I; writes of mode CSRs and of PMDET, which read back at once and act for the fourth instruction after; PMDCINV; the timer compare; an interrupt, or an exception of a hart in machine mode, saves pc, cause, value and status. The trap layout is that of the RISC-V privileged specification (log entries 14, 53 and 75).
The model's own choices in it: log entries 14, 53, 69, 74 and 75. -/
def Obligations.PostmasterHarts : Prop :=
  ∀ (s : State) (h g c pa k : Nat) (rd : Fin 32) (addr v : W32) (op : AmoOp) (m : ModeCsr) (e : Bool),
    let x := s.hart h
    let o := pa - 0x10000000
    let at' (st : Bool) : Prop := addr.toNat % 4 = 0 ∧ pa % 4 = 0 ∧ xlate s h st addr.toNat = (s, .ok pa e)
    let old := s.pm.sram.read32 o
    let inRam (st : Bool) : Prop := at' st ∧ 0x10000000 ≤ pa ∧ pa < 0x10100000 ∧ s.pm.sramErr.get (o / 4) none = none
    let out (st : Bool) : Prop := at' st ∧ (pa < 0x10000000 ∨ 0x10100000 ≤ pa)
    let ok : Bool := x.resv == some o && decide (x.resvAge ≤ 64)
    let new : W32 := match op with
      | .swap => v | .add => old + v | .xor => old ^^^ v | .and => old &&& v | .or => old ||| v
      | .min => if old.toInt < v.toInt then old else v | .max => if old.toInt < v.toInt then v else old
      | .minu => if old.toNat < v.toNat then old else v | .maxu => if old.toNat < v.toNat then v else old
    let next (y : Hart) : Hart := { y with pc := x.pc + 4, resvAge := x.resvAge + 1 }
    let others (s' : State) : Prop := s' = { s with pm := { s.pm with harts := s'.pm.harts, sram := s'.pm.sram, sramErr := s'.pm.sramErr } }
    let wrote (s' : State) (w : W32) : Prop := s'.pm.sram.read32 o = w ∧ (∀ b, b < o ∨ o + 4 ≤ b → s'.pm.sram.read b = s.pm.sram.read b) ∧ (g < 2 → g ≠ h → (s.hart g).resv = some o → (s'.hart g).resv = none)
    let trapped (y : Hart) (irq : Bool) (cause : Nat) (tval : W32) : Prop :=
      y.csrOf 0x341 = x.pc ∧ y.csrOf 0x342 = BitVec.ofNat 32 (cause + if irq then 2 ^ 31 else 0) ∧ y.csrOf 0x343 = tval ∧ bitAt (y.csrOf 0x300) 7 = bitAt (x.csrOf 0x300) 3 ∧ bitAt (y.csrOf 0x300) 3 = false ∧
      bitAt (y.csrOf 0x300) 11 = true ∧ bitAt (y.csrOf 0x300) 12 = true ∧ y.effOf 0x300 = y.csrOf 0x300 ∧ y.priv = .m ∧ y.resv = none ∧ y.wfi = false ∧ y.x = x.x ∧
      y.pc = (x.effOf 0x305 &&& 0xFFFFFFFC) + (if irq ∧ (x.effOf 0x305).toNat % 4 = 1 then BitVec.ofNat 32 (4 * cause) else 0)
    (s.hartUp h = false → exec (.pmLr h rd addr) s = .next s ∧ exec (.pmSc h rd addr v) s = .next s ∧ exec (.pmAmo h op rd addr v) s = .next s ∧ exec (.pmFenceI h) s = .next s ∧
      exec (.pmModeCsrWrite h m v) s = .next s ∧ exec (.pmdetWrite h v) s = .next s ∧ exec (.pmdcinvWrite h) s = .next s) ∧
    (s.hartUp h = true → x.pendW = [] →
      (inRam false → ∃ s', exec (.pmLr h rd addr) s = .next s' ∧ others s' ∧ s'.hart h = { next (x.setX rd old) with resv := some o, resvAge := 0 } ∧ s'.pm.sram = s.pm.sram ∧ (g ≠ h → s'.hart g = s.hart g)) ∧
      (inRam true → ∃ s', exec (.pmSc h rd addr v) s = .next s' ∧ others s' ∧ s'.hart h = { next (x.setX rd (if ok then 0 else 1)) with resv := none } ∧ (ok = true → wrote s' v) ∧ (ok = false → s'.pm.sram = s.pm.sram ∧ (g ≠ h → s'.hart g = s.hart g))) ∧
      (inRam true → ∃ s', exec (.pmAmo h op rd addr v) s = .next s' ∧ others s' ∧ s'.hart h = next (x.setX rd old) ∧ wrote s' new) ∧
      (x.priv = .m → addr.toNat % 4 ≠ 0 → (∃ s', exec (.pmLr h rd addr) s = .next s' ∧ others s' ∧ s'.pm.sram = s.pm.sram ∧ trapped (s'.hart h) false 4 addr) ∧ (∃ s', exec (.pmSc h rd addr v) s = .next s' ∧ others s' ∧ s'.pm.sram = s.pm.sram ∧ trapped (s'.hart h) false 6 addr) ∧
        ∃ s', exec (.pmAmo h op rd addr v) s = .next s' ∧ others s' ∧ s'.pm.sram = s.pm.sram ∧ trapped (s'.hart h) false 6 addr) ∧
      (x.priv = .m → (out false → ∃ s', exec (.pmLr h rd addr) s = .next s' ∧ others s' ∧ s'.pm.sram = s.pm.sram ∧ trapped (s'.hart h) false 5 addr) ∧
        (out true → (∃ s', exec (.pmSc h rd addr v) s = .next s' ∧ others s' ∧ s'.pm.sram = s.pm.sram ∧ trapped (s'.hart h) false 7 addr) ∧ ∃ s', exec (.pmAmo h op rd addr v) s = .next s' ∧ others s' ∧ s'.pm.sram = s.pm.sram ∧ trapped (s'.hart h) false 7 addr)) ∧
      (x.priv = .m → addr.toNat % 4 = 0 → (xlate s h false addr.toNat = (s, .fault k) → ∃ s', exec (.pmLr h rd addr) s = .next s' ∧ others s' ∧ s'.pm.sram = s.pm.sram ∧ trapped (s'.hart h) false k addr) ∧
        (xlate s h true addr.toNat = (s, .fault k) → (∃ s', exec (.pmSc h rd addr v) s = .next s' ∧ others s' ∧ s'.pm.sram = s.pm.sram ∧ trapped (s'.hart h) false k addr) ∧ ∃ s', exec (.pmAmo h op rd addr v) s = .next s' ∧ others s' ∧ s'.pm.sram = s.pm.sram ∧ trapped (s'.hart h) false k addr)) ∧
      (∃ s', exec (.pmFenceI h) s = .next s' ∧ others s' ∧ s'.hart h = { next x with imem := s.pm.sram } ∧ s'.pm.sram = s.pm.sram ∧ (g ≠ h → s'.hart g = s.hart g)) ∧
      (x.mayWrite m = true → ∃ s' n w, exec (.pmModeCsrWrite h m v) s = .next s' ∧ others s' ∧ (n, w) = x.csrNew (modeCsrNum m) v ∧ (s'.hart h).csrOf n = w ∧ (s'.hart h).eff = x.eff ∧ (s'.hart h).pc = x.pc + 4 ∧ (s'.hart h).x = x.x ∧
        (s'.hart h).retire.retire.effOf n = x.effOf n ∧ (s'.hart h).retire.retire.retire.effOf n = w ∧ (∀ k, k ≠ n → (s'.hart h).csrOf k = x.csrOf k) ∧ (g ≠ h → s'.hart g = s.hart g)) ∧
      (x.priv = .m → (∃ s', exec (.pmdetWrite h v) s = .next s' ∧ others s' ∧ (s'.hart h).csrOf 0x7C0 = v &&& 1 ∧ (s'.hart h).det = x.det ∧ (s'.hart h).retire.retire.det = x.det ∧ (s'.hart h).retire.retire.retire.det = bitAt v 0 ∧
          (bitAt v 0 = true → (s'.hart h).retire.retire.retire.dlines = []) ∧ (s'.hart h).pc = x.pc + 4 ∧ (g ≠ h → s'.hart g = s.hart g)) ∧
        ∃ s', exec (.pmdcinvWrite h) s = .next s' ∧ others s' ∧ s'.hart h = { next x with dlines := [] } ∧ (g ≠ h → s'.hart g = s.hart g)) ∧
      (x.priv ≠ .m → bitAt (x.csrOf 0x302) 2 = false → (∃ s', exec (.pmdetWrite h v) s = .next s' ∧ (s'.hart h).csrOf 0x342 = 2 ∧ (s'.hart h).csrOf 0x341 = x.pc ∧ (s'.hart h).priv = .m ∧ (s'.hart h).det = x.det) ∧
        (∃ s', exec (.pmdcinvWrite h) s = .next s' ∧ (s'.hart h).csrOf 0x342 = 2 ∧ (s'.hart h).priv = .m ∧ (s'.hart h).dlines = x.dlines) ∧ (x.mayWrite m = false → ∃ s', exec (.pmModeCsrWrite h m v) s = .next s' ∧ (s'.hart h).csrOf 0x342 = 2 ∧ (s'.hart h).priv = .m))) ∧
    (h = 0 ∨ h = 1 ∧ s.straps.pmTwin = false → s.inReset = false → s.clk.pHz ≠ 0 → exec (.pmTimerCompare h) s = .next (s.setHart h { x with mtip := decide (x.tcmp.toNat ≤ s.clk.bt / 96 % 2 ^ 64) })) ∧
    (s.clk.pHz = 0 → exec (.pmTimerCompare h) s = .next s) ∧
    (s.irqUp h = true → x.pendW = [] → x.priv = .m → bitAt (x.effOf 0x300) 3 = true → c ∈ [1, 3, 5, 7, 9, 11, 16, 17, 18, 19, 20, 21, 22, 23, 24, 25, 26, 27, 28] → s.mip h &&& x.effOf 0x304 &&& ~~~ x.effOf 0x303 = BitVec.ofNat 32 (2 ^ c) →
      ∃ s', exec (.pmInterrupt h) s = .next s' ∧ trapped (s'.hart h) true c 0 ∧ s'.pm.sram = s.pm.sram ∧ s'.deps = s.deps ∧ (g ≠ h → s'.hart g = s.hart g)) ∧
    (s.mip h &&& x.effOf 0x304 = 0 → exec (.pmInterrupt h) s = .next s) ∧
    (x.priv = .m → bitAt (x.effOf 0x300) 3 = false → exec (.pmInterrupt h) s = .next s) ∧
    (s.irqUp h = false → exec (.pmInterrupt h) s = .next s)

/-- R340, R343, R344, R347 to R349, R440, R441, Table 12.1: a load or store of a hart is translated by Sv32 tables in SRAM, or faults; at the translated address in SRAM, at any alignment, moves its bytes; a split access to an effectful region, or one outside every region, traps and accesses nothing; an access to the host window sends a request, whose response completes it or faults it; a write of HM_WIN drops the cached lines. Whether a word access is a compressed instruction is a free value of the model, and that tables lie in SRAM its choice.
The model's own choices in it: log entries 6, 14, 69 to 72 and 76. -/
def Obligations.PostmasterAccesses : Prop :=
  ∀ (s : State) (h g pa c : Nat) (e : Bool) (a : PmAccess) (id : BitVec 3) (data : List Byte) (q : HmReq) (ag : Agent) (v p0 p1 : W32),
    let x := s.hart h
    let n := a.size
    let va := a.addr.toNat
    let o := pa - 0x10000000
    let mapped : Prop := ∀ p ∈ partsOf va n, xlate s h a.store p.1 = (s, .ok (pa + (p.1 + 2 ^ 32 - va) % 2 ^ 32) e)
    let st := x.effOf 0x300
    let bare : Prop := bitAt (x.effOf 0x180) 31 = false ∨ x.priv = .m ∧ (bitAt st 17 = false ∨ 2 ≤ fld st 11 2)
    let user : Bool := x.priv = .u ∨ x.priv = .m ∧ fld st 11 2 = 0
    let pteAt (b : Nat) (p : W32) : Prop := 0x10000000 ≤ b ∧ b + 4 ≤ 0x10100000 ∧ b % 4 = 0 ∧ s.pm.sramErr.get ((b - 0x10000000) / 4) none = none ∧ s.pm.sram.read32 (b - 0x10000000) = p
    let root := fld (x.effOf 0x180) 0 22 * 4096 + va / 2 ^ 22 * 4
    let second := fld p0 10 22 * 4096 + va / 4096 % 1024 * 4
    let leaf (p : W32) : Prop := bitAt p 0 = true ∧ bitAt p 1 = true ∧ bitAt p 6 = true ∧ (a.store = true → bitAt p 2 = true ∧ bitAt p 7 = true) ∧ (bitAt p 4 = user ∨ user = false ∧ bitAt st 18 = true)
    let branch (p : W32) : Prop := bitAt p 0 = true ∧ bitAt p 1 = false ∧ bitAt p 2 = false ∧ bitAt p 3 = false
    let denied (p : W32) : Prop := bitAt p 0 = false ∨ bitAt p 1 = false ∧ bitAt p 2 = true ∨ bitAt p 1 = true ∧ (bitAt p 6 = false ∨ a.store = true ∧ (bitAt p 2 = false ∨ bitAt p 7 = false) ∨ bitAt p 4 = false ∧ user = true)
    let pageFault : Nat := if a.store then 15 else 13
    let access := xlate s h a.store va
    let sized : Prop := n = 1 ∨ n = 2 ∨ n = 4
    let inRam : Prop := mapped ∧ 0x10000000 ≤ pa ∧ pa + n ≤ 0x10100000 ∧ s.pm.sramErr.get (o / 4) none = none ∧ s.pm.sramErr.get ((o + n - 1) / 4) none = none
    let ext (w : Nat) : W32 := if a.sgn = true ∧ 2 ^ (8 * n - 1) ≤ w then BitVec.ofInt 32 ((w : Int) - 2 ^ (8 * n)) else BitVec.ofNat 32 w
    let retired (y : Hart) : Prop := y.pc = x.pc + 4 ∨ n = 4 ∧ y.pc = x.pc + 2
    let lower (cause : Nat) : Prop := x.priv = .m ∨ bitAt (x.csrOf 0x302) cause = false
    let saved (y : Hart) (cause : Nat) (tval : W32) : Prop := y.csrOf 0x341 = x.pc ∧ y.csrOf 0x342 = BitVec.ofNat 32 cause ∧ y.csrOf 0x343 = tval ∧ y.priv = .m ∧ y.x = x.x ∧ y.pc = x.effOf 0x305 &&& 0xFFFFFFFC
    (s.hartUp h = false ∨ ¬ sized → exec (.pmUnalignedAccess h a) s = .next s) ∧
    (s.hartUp h = true → sized → x.pendW = [] →
      (inRam → a.store = false → ∃ s', exec (.pmUnalignedAccess h a) s = .next s' ∧ retired (s'.hart h) ∧ (∀ r, r < 32 → (s'.hart h).getX r = if r ≠ 0 ∧ r = a.rd.val then ext (s.pm.sram.num o n) else x.getX r) ∧
        s'.pm.sram = s.pm.sram ∧ s'.deps = s.deps ∧ s'.xch = s.xch ∧ (g ≠ h → s'.hart g = s.hart g)) ∧
      (inRam → a.store = true → ∃ s', exec (.pmUnalignedAccess h a) s = .next s' ∧ retired (s'.hart h) ∧ (s'.hart h).x = x.x ∧ (∀ i, i < n → s'.pm.sram.read (o + i) = BitVec.ofNat 8 (a.data.toNat / 256 ^ i)) ∧
        (∀ b, b < o ∨ o + n ≤ b → s'.pm.sram.read b = s.pm.sram.read b) ∧ s'.deps = s.deps ∧ s'.xch = s.xch) ∧
      (bare → lower (if a.store then 6 else 4) → 0x40000000 ≤ va → va < 0x80000000 → va % n ≠ 0 → ∃ s', exec (.pmUnalignedAccess h a) s = .next s' ∧ saved (s'.hart h) (if a.store then 6 else 4) a.addr ∧ s' = { s with pm := { s.pm with harts := s'.pm.harts } }) ∧
      (bare → lower (if a.store then 7 else 5) → 0x30000000 ≤ va → va < 0x3FFFFFF0 → ∃ s', exec (.pmUnalignedAccess h a) s = .next s' ∧ saved (s'.hart h) (if a.store then 7 else 5) a.addr ∧ s' = { s with pm := { s.pm with harts := s'.pm.harts } }) ∧
      (va % n = 0 → access = (s, .fault c) → lower c → ∃ s', exec (.pmUnalignedAccess h a) s = .next s' ∧ saved (s'.hart h) c a.addr ∧ s' = { s with pm := { s.pm with harts := s'.pm.harts } }) ∧
      (va % n = 0 → access = (s, .ok pa e) → 0x80000000 ≤ pa → pa < 2 ^ 32 → x.det = true ∨ e = true → a.store = false → exec (.pmUnalignedAccess h a) s = .next { s with pm := { s.pm with hm := s.pm.hm ++
        [{ id := BitVec.ofNat 3 (4 * h), hart := h, fill := false, host := BitVec.ofNat 40 (s.boot.hmWin.toNat * 2 ^ 31 + pa % 2 ^ 31), part := (pa, n), acc := a, rest := [], got := [] }] } })) ∧
    (bare → access = (s, .ok va false)) ∧
    (¬ bare → pteAt root p0 → leaf p0 → fld p0 10 10 = 0 → access = (s, .ok (fld p0 20 12 * 2 ^ 22 + va % 2 ^ 22) (bitAt p0 8))) ∧
    (¬ bare → pteAt root p0 → branch p0 → pteAt second p1 → leaf p1 → access = (s, .ok (fld p1 10 22 * 4096 + va % 4096) (bitAt p1 8))) ∧
    (¬ bare → pteAt root p0 → denied p0 ∨ leaf p0 ∧ fld p0 10 10 ≠ 0 → access = (s, .fault pageFault)) ∧
    (¬ bare → pteAt root p0 → branch p0 → pteAt second p1 → denied p1 ∨ branch p1 → access = (s, .fault pageFault)) ∧
    (¬ bare → root < 0x10000000 ∨ 0x10100000 ≤ root → access = (s, .fault (if a.store then 7 else 5))) ∧
    ((∀ r ∈ s.pm.hm, r.id ≠ id) → exec (.hmResponse id data false) s = .next s) ∧
    (s.pm.hm = [q] → q.id = id → q.hart = h → q.acc = a → q.rest = [] → q.got = [] → q.fill = false → s.inReset = false → s.irq.pmFrozen = false → x.pendW = [] →
      (a.store = false → q.part.2 = n → ∃ s', exec (.hmResponse id data false) s = .next s' ∧ s'.pm.hm = [] ∧ retired (s'.hart h) ∧ (∀ r, r < 32 → (s'.hart h).getX r = if r ≠ 0 ∧ r = a.rd.val then ext (leNum data 0 n) else x.getX r) ∧ s'.pm.sram = s.pm.sram) ∧
      (a.store = true → ∃ s', exec (.hmResponse id data false) s = .next s' ∧ s'.pm.hm = [] ∧ retired (s'.hart h) ∧ (s'.hart h).x = x.x ∧ s'.pm.sram = s.pm.sram) ∧
      (x.priv = .m → ∃ s', exec (.hmResponse id data true) s = .next s' ∧ s'.pm.hm = [] ∧ saved (s'.hart h) (if a.store then 7 else 5) (a.addr + BitVec.ofNat 32 (n - q.part.2)) ∧ s'.pm.sram = s.pm.sram)) ∧
    (isPm ag = true → s.inReset = false → ∃ s', exec (.hmWinWrite ag v) s = .next s' ∧ s'.boot = { s.boot with hmWin := v.extractLsb' 0 9 } ∧ (s'.hart 0).dlines = [] ∧ (s'.hart 1).dlines = [] ∧ s' = { s with boot := s'.boot, pm := { s.pm with harts := s'.pm.harts } }) ∧
    (isPm ag = false → exec (.hmWinWrite ag v) s = .next s)

/-- R4, R7, R8, R403, R407, Tables 16.5 to 16.7: a register read returns the register's value and changes nothing but an RC field, which it clears; unassigned offsets, absent and unpowered units read 0 or their reset values.
The model's own choices in it: log entries 13, 61 and 62. -/
def Obligations.RegisterReads : Prop :=
  ∀ (s : State) (ag : Agent) (off d n : Nat), s.inReset = false → s.pwr.state ≠ .off → s.pwr.state ≠ .hold → (ag = .dbg → s.dbg.level = 3) →
    let D := s.dep d
    let p := s.pin n
    let l := s.lane n
    exec (.rcRegisterRead ag 0x1000018) s = .next { s with rdata := s.srt.cutCnt, srt := { s.srt with cutCnt := 0 } } ∧
    exec (.rcRegisterRead ag 0x1010014) s = .next { s with rdata := s.pmk.evtLost, pmk := { s.pmk with evtLost := 0 } } ∧
    exec (.rcRegisterRead ag 0x1020008) s = .next { s with rdata := s.pins.msgLost, pins := { s.pins with msgLost := 0 } } ∧
    exec (.rcRegisterRead ag 0x103000C) s = .next { s with rdata := s.seals.fullCnt, seals := { s.seals with fullCnt := 0 } } ∧
    exec (.rcRegisterRead ag 0x1030010) s = .next { s with rdata := s.seals.orphCnt, seals := { s.seals with orphCnt := 0 } } ∧
    exec (.rcRegisterRead ag 0x1030108) s = .next { s with rdata := s.xch.ceCnt, xch := { s.xch with ceCnt := 0 } } ∧
    exec (.rcRegisterRead ag 0x103010C) s = .next { s with rdata := s.xch.dbeCnt, xch := { s.xch with dbeCnt := 0 } } ∧
    exec (.rcRegisterRead ag 0x1040020) s = .next { s with rdata := s.lan.msgLost, lan := { s.lan with msgLost := 0 } } ∧
    exec (.rcRegisterRead ag 0x1050330) s = .next { s with rdata := s.irq.pmCe, irq := { s.irq with pmCe := 0 } } ∧
    (n < s.nPin → n < 768 → exec (.rcRegisterRead ag (0x1025000 + 4 * n)) s = .next { s.setPin n { p with disc := 0, crowd := 0, late := 0, slip := 0 } with
      rdata := BitVec.ofNat 32 (p.disc.toNat * 2 ^ 24 + p.crowd.toNat * 2 ^ 16 + p.late.toNat * 2 ^ 8 + p.slip.toNat) }) ∧
    (n < s.nLane → n < 8 → bitAt s.pwr.lanePow n = true → ∃ s', exec (.rcRegisterRead ag (0x1044040 + 0x400 * n)) s = .next s' ∧ s'.rdata = l.cnt.get 0 0 ∧ (s'.lane n).cnt.get 0 0 = 0 ∧ (∀ c, c ≠ 0 → (s'.lane n).cnt.get c 0 = l.cnt.get c 0) ∧
      s' = { s with rdata := s'.rdata, lan := { s.lan with lanes := s'.lan.lanes } }) ∧
    (d < 32 → s.depUp d = true → exec (.rcRegisterRead ag (0x1100000 + 0x10000 * d + 0x34)) s = .next { s.setDep d { D with eccCode := 0, eccData := 0 } with rdata := D.eccCode ++ D.eccData } ∧
      exec (.rcRegisterRead ag (0x1100000 + 0x10000 * d + 0xB04)) s = .next { s.setDep d { D with dlLost := 0 } with rdata := D.dlLost } ∧
      ∃ s', exec (.rcRegisterRead ag (0x1100000 + 0x10000 * d + 0x40)) s = .next s' ∧ s'.rdata = D.xselLo ∧ (∀ f, s'.dep f = s.dep f) ∧ s' = { s with rdata := D.xselLo, deps := s'.deps }) ∧
    (s.nDep ≤ d → d < 32 → exec (.rcRegisterRead ag (0x1100000 + 0x10000 * d + off % 0x10000)) s = .next { s with rdata := 0 }) ∧
    (d < s.nDep → d < 32 → s.depUp d = false → exec (.rcRegisterRead ag (0x1100000 + 0x10000 * d + 0x14)) s = .next { s with rdata := 0x53 } ∧ exec (.rcRegisterRead ag (0x1100000 + 0x10000 * d + 0x08)) s = .next { s with rdata := 0x1000 } ∧
      exec (.rcRegisterRead ag (0x1100000 + 0x10000 * d + 0x04)) s = .next { s with rdata := if s.twin d then 4 else 0 }) ∧
    exec (.rcRegisterRead ag 0x1090000) s = .next { s with rdata := 0x464C4E44 } ∧
    exec (.rcRegisterRead ag 0x1090060) s = .next { s with rdata := s.straps.twinCfg } ∧
    (∃ v, exec (.rcRegisterRead ag 0x1050000) s = .next { s with rdata := v } ∧ ∀ k, k < 16 → bitAt v k = (bitAt s.irq.p2h k || bitAt s.irq.test k)) ∧
    (∃ v, exec (.rcRegisterRead ag 0x105003C) s = .next { s with rdata := v } ∧ bitAt v 31 = ((s.irq.dl || bitAt s.irq.test 63) && !bitAt s.irq.mask 63)) ∧
    exec (.rcRegisterRead ag 0x1070000) s = .next { s with rdata := BitVec.ofNat 32 ((if s.sec.esc then 2048 else 0) + (if s.sec.dbgLock then 1024 else 0) + (if s.sec.chalPend then 512 else 0) + (if s.sec.ikeySet then 256 else 0) + (if s.sec.romlock then 4 else 0) +
      (if s.straps.lifecycle = 0 then 0 else if s.straps.lifecycle = 3 then 2 else 1)) } ∧
    (∀ i, i < 8 → exec (.rcRegisterRead ag (0x1070200 + 4 * i)) s = .next { s with rdata := 0 }) ∧
    (off < 0x1000000 ∨ off % 4 ≠ 0 ∨ 0x1300000 ≤ off → exec (.rcRegisterRead ag off) s = .next { s with rdata := 0 })

/-- R7, R8, R190, R316, R403, R411, R443: a register write acts by its access code and its writer's rights: RW fields take the value, W1C bits clear, writes of agents without the right, to reserved or unassigned offsets and to absent depots change nothing, and a register with a command of its own acts as that command.
The model's own choices in it: log entries 13, 50, 61, 62 and 64. -/
def Obligations.RegisterWrites : Prop :=
  ∀ (s : State) (ag : Agent) (off d e : Nat) (v : W32), s.inReset = false → s.pwr.state ≠ .off → s.pwr.state ≠ .hold → ag ≠ .dbg →
    let D := s.dep d
    let wr (o : Nat) : Host.Outcome State Fault Refusal := exec (.registerWrite ag o v) s
    let at' := 0x1100000 + 0x10000 * d
    (ag = .hostN → wr 0x1000004 = .next s ∧ wr 0x1000008 = .next s ∧ wr 0x1030004 = .next s ∧ wr 0x1060008 = .next s ∧ wr 0x1070004 = .next s ∧ wr 0x1050300 = .next s ∧ wr 0x1050304 = .next s ∧ wr 0x1020000 = .next s ∧ wr 0x101000C = .next s ∧ wr 0x1080004 = .next s) ∧
    (pmOrHostS ag = true →
      wr 0x1000004 = .next { s with srt := { s.srt with evt := s.srt.evt &&& ~~~ (v.setWidth 3) } } ∧
      wr 0x1000008 = .next { s with srt := { s.srt with evtEn := v.setWidth 3 } } ∧
      (∃ s', wr 0x1000010 = .next s' ∧ s' = { s with srt := { s.srt with starveTh := v.setWidth 16, evt := s'.srt.evt, starve := s'.srt.starve } } ∧
        ∀ c, c < 44 → bitAt s'.srt.starve c = (bitAt s.srt.starve c || decide (v.toNat % 65536 ≠ 0 ∧ v.toNat % 65536 < s.srt.win.get c 0))) ∧
      wr 0x1030004 = .next { s with seals := { s.seals with evt := s.seals.evt &&& ~~~ (v.setWidth 10) }, xch := { s.xch with dbeValid := s.xch.dbeValid && !bitAt v 1, parValid := s.xch.parValid && !bitAt v 2 } } ∧
      wr 0x1030024 = .next { s with seals := { s.seals with leaseAg := v.setWidth 16 } } ∧
      wr 0x1030100 = .next { s with xch := { s.xch with scrubEn := bitAt v 31, scrubPeriod := v.setWidth 8 } } ∧
      wr 0x1050300 = .next { s with irq := { s.irq with safe := s.irq.safe &&& ~~~ (v.setWidth 9) } } ∧
      wr 0x1050310 = .next { s with irq := { s.irq with pmMm := s.irq.pmMm && !bitAt v 1 } } ∧
      wr 0x1060008 = .next { s with pwr := { s.pwr with evt := s.pwr.evt &&& ~~~ (v.setWidth 4) } } ∧
      wr 0x1060014 = .next { s with pwr := { s.pwr with vigilDep := v } } ∧
      wr 0x1060020 = .next { s with pwr := { s.pwr with bankRet := s.pwr.bankRet.extractLsb' 32 32 ++ v } } ∧
      wr 0x106002C = .next { s with pwr := { s.pwr with wakeEn := v.setWidth 4 } } ∧
      wr 0x1070004 = .next { s with sec := { s.sec with evt := s.sec.evt &&& ~~~ (v.setWidth 5), violValid := s.sec.violValid && !bitAt v 0 } } ∧
      wr 0x1080004 = .next { s with dbg := { s.dbg with evt := s.dbg.evt &&& ~~~ (v.setWidth 4) } } ∧
      wr 0x1020004 = .next { s with pins := { s.pins with evtEn := v.setWidth 8 } } ∧
      wr 0x1020010 = .next { s with pins := { s.pins with pmEvt := s.pins.pmEvt &&& ~~~ v } } ∧
      wr 0x101000C = .next { s with pmk := { s.pmk with evtEn := v.setWidth 10 } } ∧
      wr 0x1010010 = .next { s with pmk := { s.pmk with alarm := s.pmk.alarm && !bitAt v 8 } } ∧
      (d < 32 → s.depUp d = true →
        wr (at' + 0x08) = .next (s.setDep d { D with stallLim := v.setWidth 24 }) ∧ wr (at' + 0x0C) = .next (s.setDep d { D with drainTmo := v.setWidth 16 }) ∧
        wr (at' + 0x10) = .next (s.setDep d { D with fstat := D.fstat &&& ~~~ (v.setWidth 7 &&& 0x7E) }) ∧ wr (at' + 0x40) = .next (s.setDep d { D with xselLo := v }) ∧
        (e < 16 → wr (at' + 0x80 + 4 * e) = .next (s.setDep d { D with chx := D.chx.set e (v.setWidth 16) 0 })) ∧
        (e < 128 → wr (at' + 0x700 + 4 * e) = .next (s.setDep d (D.setThr e { D.thr e with prio := v.setWidth 4 })) ∧ wr (at' + 0x900 + 4 * e) = .next (s.setDep d (D.setThr e { D.thr e with tmo := v })))) ∧
      (d < 32 → s.depUp d = false → off < 0x10000 → wr (at' + off) = .next s)) ∧
    (isPm ag = false → d < 32 → 0x58 ≤ off → off < 0x80 → wr (at' + off) = .next s) ∧
    (ag ≠ .hostS → wr 0x1050304 = .next s) ∧ (ag = .hostS → wr 0x1050304 = .next { s with irq := { s.irq with safeEn := v.setWidth 9 } }) ∧
    wr 0x1050204 = exec (.dbH2pSet ag v) s ∧ wr 0x1050208 = exec (.dbH2pClr ag v) s ∧ wr 0x1050214 = exec (.dbP2hSet ag v) s ∧ wr 0x1050218 = exec (.dbP2hClr ag v) s ∧
    wr 0x1050010 = exec (.irqMaskSet ag false v) s ∧ wr 0x1050014 = exec (.irqMaskSet ag true v) s ∧ wr 0x1050018 = exec (.irqMaskClr ag false v) s ∧ wr 0x1050028 = exec (.irqTestSet ag false v) s ∧
    wr 0x1050308 = exec (.irqSafeSw ag v) s ∧ wr 0x1050324 = exec (.irqWdogWrite ag v) s ∧ wr 0x1050328 = exec (.wdogKick ag v) s ∧ wr 0x105032C = exec (.pmRestart ag v) s ∧
    wr 0x1070020 = exec (.romLock ag v) s ∧ wr 0x1070030 = exec (.secDomainWrite ag 0x30 v) s ∧ (e < 8 → wr (0x1070200 + 4 * e) = exec (.ikeyWrite ag e v) s) ∧
    wr 0x1090014 = exec (.bootGo ag v) s ∧ wr 0x10900C0 = exec (.hmWinWrite ag v) s ∧
    (pmOrHostS ag = true → v.toNat % 8 = 0 → wr 0x1060004 = exec (.pwrCmdRun ag) s) ∧ (pmOrHostS ag = true → v.toNat % 8 = 1 → wr 0x1060004 = exec (.pwrCmdTrim ag) s) ∧
    (pmOrHostS ag = true → d < 32 → s.depUp d = true → wr at' = if bitAt v 0 then exec (.depotEnable ag d) s else exec (.depotDrain ag d) s) ∧
    (e < 128 → d < 32 → s.depUp d = true → pmOrHostS ag = true → v.toNat / 2 ^ 28 = 1 → wr (at' + 0x100 + 4 * e) = exec (.start ag (tidOf d e) (v.setWidth 16)) s) ∧
    (off < 0x1000000 ∨ off % 4 ≠ 0 ∨ 0x1300000 ≤ off → wr off = .next s)

/-- R147, R312 to R328, R336, Tables 11.1 to 11.4, 11.11: how letters come and go. A letter is read from its ring, checked and put in service; a reply takes its class, op and tag to the host ring with the header of Table 11.3, the producer index and the doorbell; a refusal names its status; a quiet OK sends nothing; polls, reply timeouts and chute dead letters.
The model's own choices in it: log entries 10 and 77 to 80. -/
def Obligations.LetterRings : Prop :=
  ∀ (s : State) (n k d : Nat) (l : Letter) (o : OutLetter), n < 16 →
    let b := s.box n
    let i := b.prodOut
    let at' := p2hBase n
    let posted (t : State) (stat : Nat) (ws : List W32) : Prop :=
      t.lb32 (ringAddr at' i) = BitVec.ofNat 32 (l.cls * 2 ^ 24 + l.op * 2 ^ 16) ∧ t.lb32 (ringAddr at' (i + 1)) = BitVec.ofNat 32 (l.tag.toNat * 2 ^ 16 + b.seqOut.toNat) ∧
      t.lb32 (ringAddr at' (i + 2)) = BitVec.ofNat 32 ws.length ∧ t.lb32 (ringAddr at' (i + 3)) = BitVec.ofNat 32 (2 ^ 31 + stat) ∧
      (∀ j, j < ws.length → t.lb32 (ringAddr at' (i + 4 + j)) = ws[j]?.getD 0) ∧ t.lb32 at' = BitVec.ofNat 32 ((i + 4 + ws.length) % 504) ∧
      t.box n = { b with svc := none, prodOut := (i + 4 + ws.length) % 504, seqOut := b.seqOut + 1 } ∧ (∀ m, m ≠ n → t.box m = s.box m) ∧ t.irq.p2h = setBit s.irq.p2h n ∧ OnlySheow s t
    let c := b.cons
    let h := s.ringWords (h2pBase n) c 4
    let w (j : Nat) : W32 := h[j]?.getD 0
    let len := (w 2).toNat
    let p := s.h2pProd n
    let avail := (p + 504 - c) % 504
    let good : Prop := fld (w 0) 0 16 = 0 ∧ len ≤ 256 ∧ fld (w 3) 30 2 = 0 ∧ fld (w 3) 0 29 = 0 ∧ 4 + len ≤ avail
    let q := BitVec.ofNat 16 (fld (w 1) 0 16)
    let cls := fld (w 0) 24 8
    let op := fld (w 0) 16 8
    let rung : Prop := s.shUp = true ∧ b.outq = [] ∧ s.mayServe n = true ∧ bitAt s.irq.h2p n = true ∧ p < 504 ∧ c < 504 ∧ c ≠ p ∧ s.xch.lbErr = []
    let D := s.dep d
    (s.InService n 1 2 l → b.outq = [] → l.quiet = false → 4 + l.body.length ≤ s.p2hRoom n → ∃ t : State, exec (.sysPing n) s = .next t ∧ posted t 0 l.body) ∧
    (s.InService n 1 2 l → l.quiet = true → exec (.sysPing n) s = .next (endService s n)) ∧
    (s.InService n 1 2 l → b.outq = [] → l.quiet = false → s.p2hRoom n < 4 + l.body.length → ∃ t : State, exec (.sysPing n) s = .next t ∧ t.xch = s.xch ∧ t.irq = s.irq ∧ (t.box n).svc = none ∧
      (t.box n).outq = [{ cls := l.cls, op := l.op, tag := l.tag, event := false, more := false, status := 0, body := l.body, since := s.clk.bt }] ∧ OnlySheow s t) ∧
    (s.InService n 1 1 l → b.outq = [] → l.body ≠ [] → 5 ≤ s.p2hRoom n → ∃ t : State, exec (.sysIdent n) s = .next t ∧ posted t 5 [0xFFFF0000]) ∧
    (rung → good → q = b.seqIn → knownOp cls op = true → bitAt b.classes cls = true → ∃ (t : State) (x : Letter), exec (.letterServe n) s = .next t ∧
      t.box n = { b with cons := (c + 4 + len) % 504, prodIn := p, badIdx := false, seqIn := q + 1, svc := some x } ∧
      x.cls = cls ∧ x.op = op ∧ x.tag = BitVec.ofNat 16 (fld (w 1) 16 16) ∧ x.quiet = bitAt (w 3) 29 ∧ x.body = s.ringWords (h2pBase n) (c + 4) len ∧ x.begun = false ∧
      t.irq.h2p = clrBit s.irq.h2p n ∧ t.lb32 (h2pBase n + 4) = BitVec.ofNat 32 ((c + 4 + len) % 504) ∧ t.sheow.dlLog = s.sheow.dlLog ∧ ∀ m, m ≠ n → t.box m = s.box m) ∧
    (rung → good → q ≠ b.seqIn → s.sheow.dlLog.length < 512 → knownOp cls op = true → bitAt b.classes cls = true → ∃ (t : State) (e : DlEntry), exec (.letterServe n) s = .next t ∧ ((t.box n).svc.isSome ∧ (t.box n).seqIn = q + 1) ∧ t.irq.dl = true ∧
      t.sheow.dlLog = s.sheow.dlLog ++ [e] ∧ e.e0 = BitVec.ofNat 32 (3 + n * 2 ^ 16) ∧ e.bt = s.bt64 ∧ [e.e3, e.e4, e.e5, e.e6] = h ∧ e.e7 = b.seqIn.setWidth 32) ∧
    (rung → good → q = b.seqIn → s.sheow.dlLog.length < 512 → (knownOp cls op = true ∧ bitAt b.classes cls = false) ∨ knownOp cls op = false → ∃ (t : State) (e : DlEntry), exec (.letterServe n) s = .next t ∧ (t.box n).svc = none ∧ (t.box n).cons = (c + 4 + len) % 504 ∧
      t.sheow.dlLog = s.sheow.dlLog ++ [e] ∧ e.e0 = BitVec.ofNat 32 ((if knownOp cls op then 4 else 1) + n * 2 ^ 16) ∧ e.e7 = if knownOp cls op then 3 else 2) ∧
    (rung → ¬ good → s.sheow.dlLog.length < 512 → ∃ (t : State) (e : DlEntry), exec (.letterServe n) s = .next t ∧ (t.box n).svc = none ∧ (t.box n).cons = p ∧ t.sheow.dlLog = s.sheow.dlLog ++ [e] ∧ e.e0 = BitVec.ofNat 32 (1 + n * 2 ^ 16) ∧ e.e7 = 1) ∧
    (s.shUp = false → exec (.letterServe n) s = .next s ∧ exec .letterPoll s = .next s ∧ exec (.replyTimeout n) s = .next s ∧ exec (.deadLetterMove d) s = .next s) ∧
    (b.outq = [] → b.svc.isSome → exec (.letterServe n) s = .next s) ∧
    (b.outq = [] → n ≠ 2 → s.letterWaits 2 = true ∨ (s.box 2).svc.isSome → exec (.letterServe n) s = .next s) ∧
    (b.outq = [] → n ≠ 2 → k ∈ turnOrder → (s.box k).svc = some l → ¬ (l.cls = 10 ∧ l.op = 1) → exec (.letterServe n) s = .next s) ∧
    (s.shUp = true → s.sheow.lastPoll + s.sheow.pollMs * msBt ≤ s.clk.bt → s.xch.lbErr = [] → (∀ m, m < 16 → (s.box m).outq = [] ∧ s.h2pProd m < 504) →
      ∃ t : State, exec .letterPoll s = .next t ∧ t.sheow.lastPoll = s.clk.bt ∧ (∀ m, m < 16 → t.box m = { s.box m with prodIn := s.h2pProd m, badIdx := false }) ∧ (∀ m, 16 ≤ m → t.box m = s.box m) ∧ t = { s with sheow := { s.sheow with lastPoll := s.clk.bt, boxes := t.sheow.boxes } }) ∧
    (s.clk.bt < s.sheow.lastPoll + s.sheow.pollMs * msBt → exec .letterPoll s = .next s) ∧
    (s.shUp = true → n ≠ 2 → b.outq = [o] → s.p2hRoom n < 4 + o.body.length → s.sheow.dlLog.length < 512 → o.since + s.sheow.replyTmo * msBt ≤ s.clk.bt → ∃ (t : State) (e : DlEntry), exec (.replyTimeout n) s = .next t ∧
      t.box n = { b with outq := [], seqOut := b.seqOut + 1 } ∧ t.sheow.dlLog = s.sheow.dlLog ++ [e] ∧ e.e0 = BitVec.ofNat 32 (5 + n * 2 ^ 16) ∧ e.e7 = BitVec.ofNat 32 (o.cls * 256 + o.op) ∧ t.xch = s.xch) ∧
    (b.outq = [o] → s.p2hRoom n < 4 + o.body.length → s.clk.bt < o.since + s.sheow.replyTmo * msBt → exec (.replyTimeout n) s = .next s) ∧
    exec (.replyTimeout 2) s = .next s ∧
    (s.shUp = true → s.depUp d = true → D.dl ≠ [] → s.sheow.dlLog.length < 512 → D.dlLost = 0 → s.pmk.evtLost = 0 → s.pins.msgLost = 0 → s.lan.msgLost = 0 → ∃ (t : State) (e : DlEntry), exec (.deadLetterMove d) s = .next t ∧
      (t.dep d).dl = D.dl.drop 1 ∧ (∀ m, m ≠ d → t.dep m = s.dep m) ∧ t.sheow.dlLog = s.sheow.dlLog ++ [e] ∧ e.e0 = BitVec.ofNat 32 (6 + 256 + d * 2 ^ 16) ∧ e.bt = s.bt64 ∧
      e.e3 = D.dlHdr ∧ e.e4 = D.dlInfo ∧ e.e5 = D.dlWord 0 ∧ e.e6 = D.dlWord 1 ∧ t.irq.dl = true) ∧
    (s.shUp = true → s.depUp d = true → D.dl ≠ [] → ∃ t : State, exec (.deadLetterMove d) s = .next t ∧ (t.dep d).dlLost = 0 ∧ t.pmk.evtLost = 0 ∧ t.pins.msgLost = 0 ∧ t.lan.msgLost = 0) ∧
    (D.dl = [] → exec (.deadLetterMove d) s = .next s)

/-- R321, R324, R327, R329, R402, R413, Tables 11.6, 11.7: the SYS and CFG letters: identity and ping; the classes and domain of a letterbox; the letterbox of a class's events; a power state change answered when it is complete; the letter parameters set and read; memory regions; the commit that places the threads and enters RUN. Refusals change nothing.
The model's own choices in it: log entries 81 to 87 and 89. -/
def Obligations.SystemLetters : Prop :=
  ∀ (s : State) (n k : Nat) (l : Letter),
    let b (i : Nat) : W32 := l.b i
    let isSys (op : Nat) : Prop := s.InService n 1 op l
    let isCfg (op : Nat) : Prop := s.InService n 2 op l
    let x := fld (b 0) 0 4
    let normal := bitAt (b 0) 8
    let cls := fld (b 0) 0 8
    let rep := fld (b 0) 8 4
    let target := pwrTarget (b 0)
    let kind := fld (b 0) 0 3
    let base := fld (b 1) 0 22
    let len := (b 2).toNat
    let ids := l.body.drop 1
    let obj := fld (b 0) 8 10
    let records (m : SMap Int) : LRes := .ok (ids.map fun w => recWord (recId w) (param m (recId w)))
    let pwr (t : PState) (u : State) : Host.Outcome State Fault Refusal := match t with
      | .run => exec (.pwrCmdRun .pmA) u | .trim => exec (.pwrCmdTrim .pmA) u | .vigil => exec (.pwrCmdVigil .pmA) u | _ => exec (.pwrCmdHold .pmA) u
    let s1 : State := if target = .vigil then { s with pwr := { s.pwr with vigilDep := b 1 } } else s
    let placed := placeZones s
    let u := startServices placed.1
    (s.shUp = false → exec (.sysIdent n) s = .next s ∧ exec (.sysPing n) s = .next s ∧ exec (.sysLbAssign n) s = .next s ∧ exec (.sysReportBox n) s = .next s ∧ exec (.sysPstate n) s = .next s ∧
      exec (.cfgSet n) s = .next s ∧ exec (.cfgGet n) s = .next s ∧ exec (.cfgRegion n) s = .next s ∧ exec (.cfgCommit n) s = .next s) ∧
    ((s.box n).svc = none → exec (.sysIdent n) s = .next s ∧ exec (.cfgCommit n) s = .next s) ∧ (isSys 2 → exec (.sysIdent n) s = .next s) ∧
    (isSys 1 → l.body = [] → Answers (exec (.sysIdent n) s) n l s (.ok [match s.straps.build with | .fl512 => 0x20000203 | .fl256 => 0x10000203 | .fl128 => 0x08000203, BitVec.ofNat 32 (0x05010000 + Config.sheowBuild % 65536),
      BitVec.ofNat 32 (s.sheow.state.code + s.lc * 2 ^ 4 + s.dbg.level.toNat * 2 ^ 8 + s.pwr.state.code * 2 ^ 12), s.sheow.update.runSeq, s.straps.twinCfg, if s.straps.pmTwin then 1 else 0])) ∧
    (isSys 2 → Answers (exec (.sysPing n) s) n l s (.ok l.body)) ∧
    (isSys 3 → l.body.length = 2 → s.secureBox n = true → 3 ≤ x → b 1 &&& ~~~ 0x1FFE#32 = 0 → bitAt (b 1) 10 = false → bitAt (b 1) 12 = false → s.h2pEmpty x = true → normal = bitAt s.sec.lbDom x ∨ s.sec.esc = false →
      ∃ t, Answers (exec (.sysLbAssign n) s) n l t (.ok []) ∧ t.box x = { s.box x with classes := (b 1).setWidth 16 } ∧ (∀ m, m ≠ x → t.box m = s.box m) ∧ bitAt t.sec.lbDom x = normal ∧ (∀ m, 3 ≤ m → m ≠ x → bitAt t.sec.lbDom m = bitAt s.sec.lbDom m)) ∧
    (isSys 3 → l.body.length = 2 → s.secureBox n = true → x < 3 → Answers (exec (.sysLbAssign n) s) n l s (.err .range 0 0)) ∧
    (isSys 3 → l.body.length = 2 → s.secureBox n = true → 3 ≤ x → bitAt (b 1) 10 = true ∨ bitAt (b 1) 12 = true → Answers (exec (.sysLbAssign n) s) n l s (.err .range 1 0)) ∧
    (isSys 3 → l.body.length = 2 → s.secureBox n = true → 3 ≤ x → b 1 &&& ~~~ 0x1FFE#32 = 0 → bitAt (b 1) 10 = false → bitAt (b 1) 12 = false → s.h2pEmpty x = false → Answers (exec (.sysLbAssign n) s) n l s (.err .busy 0 0)) ∧
    (isSys 4 → l.body.length = 1 → 1 ≤ cls → cls ≤ 12 → bitAt (s.box rep).classes cls = true → Answers (exec (.sysReportBox n) s) n l { s with sheow := { s.sheow with reportBox := s.sheow.reportBox.set cls rep 0 } } (.ok [])) ∧
    (isSys 4 → l.body.length = 1 → cls = 0 ∨ 12 < cls → Answers (exec (.sysReportBox n) s) n l s (.err .range 0 0)) ∧
    (isSys 5 → l.body.length = 2 → l.begun = true → s.pwr.busy = true → exec (.sysPstate n) s = .next s) ∧
    (isSys 5 → l.body.length = 2 → l.begun = true → s.pwr.busy = false → Answers (exec (.sysPstate n) s) n l s (.ok [BitVec.ofNat 32 target.code])) ∧
    (isSys 5 → l.body.length = 2 → l.begun = false → target ≠ .off → s.pwr.busy = false → s.pwrListed target = true → s1.powerBlocked target = false → ∃ t, pwr target s1 = .next t ∧
      (t.pwr.busy = true → exec (.sysPstate n) s = .next (beginService t n)) ∧ (t.pwr.busy = false → Answers (exec (.sysPstate n) s) n l t (.ok [BitVec.ofNat 32 target.code]))) ∧
    (isSys 5 → l.body.length = 2 → l.begun = false → target ≠ .off → s.pwr.busy = true ∨ s.pwrListed target = false ∨ s1.powerBlocked target = true → Answers (exec (.sysPstate n) s) n l s (.err .state 0 0)) ∧
    (isCfg 1 → badRec 0x60 0x61 l.body = none → ∃ t, Answers (exec (.cfgSet n) s) n l t (.ok []) ∧ t = { s with sheow := { s.sheow with replyTmo := t.sheow.replyTmo, pollMs := t.sheow.pollMs } } ∧
      (∀ ws w, l.body = ws ++ [w] → (recId w = 0x60 → (t.sheow.replyTmo : Int) = recVal w) ∧ (recId w = 0x61 → (t.sheow.pollMs : Int) = recVal w)) ∧ ((∀ w ∈ l.body, recId w ≠ 0x60) → t.sheow.replyTmo = s.sheow.replyTmo) ∧ ((∀ w ∈ l.body, recId w ≠ 0x61) → t.sheow.pollMs = s.sheow.pollMs)) ∧
    (isCfg 1 → badRec 0x60 0x61 l.body = some k → Answers (exec (.cfgSet n) s) n l s (.err .range k 0)) ∧
    (isCfg 2 → l.body ≠ [] → fld (b 0) 0 2 = 0 → (∀ w ∈ ids, recId w = 0x60 ∨ recId w = 0x61) → Answers (exec (.cfgGet n) s) n l s (.ok (ids.map fun w => recWord (recId w) (if recId w = 0x60 then (s.sheow.replyTmo : Int) else s.sheow.pollMs)))) ∧
    (isCfg 2 → l.body ≠ [] → fld (b 0) 0 2 = 1 → (s.zone obj).declared = false → Answers (exec (.cfgGet n) s) n l s (.err .absent 0 0)) ∧
    (isCfg 2 → l.body ≠ [] → fld (b 0) 0 2 = 1 → (s.zone obj).declared = true → (∀ w ∈ ids, 1 ≤ recId w ∧ recId w ≤ 15) → Answers (exec (.cfgGet n) s) n l s (records (s.zone obj).params)) ∧
    (isCfg 2 → l.body ≠ [] → fld (b 0) 0 2 = 2 → obj < 256 → (s.chan obj).pins ≠ none → (∀ w ∈ ids, 0x20 ≤ recId w ∧ recId w ≤ 0x2B ∨ 0x30 ≤ recId w ∧ recId w ≤ 0x38) → Answers (exec (.cfgGet n) s) n l s (records (s.chan obj).params)) ∧
    (isCfg 2 → l.body ≠ [] → fld (b 0) 0 2 = 3 → obj < 16 → (s.supply obj).pins ≠ none → (∀ w ∈ ids, 0x40 ≤ recId w ∧ recId w ≤ 0x48) → Answers (exec (.cfgGet n) s) n l s (records (s.supply obj).params)) ∧
    (isCfg 2 → l.body ≠ [] → fld (b 0) 0 2 = 2 → 256 ≤ obj ∨ (s.chan obj).pins = none → Answers (exec (.cfgGet n) s) n l s (.err .absent 0 0)) ∧
    (isCfg 3 → l.body.length = 3 → 1 ≤ kind → kind ≤ 5 → 1 ≤ len → base + len ≤ 2 ^ 22 → (kind = 4 → len ≤ 3145728 ∧ s.regionsOf 4 = []) → s.sheow.state = .config → s.banksOn base len = true → s.overlaps base len = false →
      Answers (exec (.cfgRegion n) s) n l { s with sheow := { s.sheow with regions := s.sheow.regions ++ [{ kind := kind, base := base, len := len }] } } (.ok [])) ∧
    (isCfg 3 → l.body.length = 3 → 1 ≤ kind → kind ≤ 5 → 1 ≤ len → base + len ≤ 2 ^ 22 → (kind = 4 → len ≤ 3145728) → (s.sheow.state ≠ .config → Answers (exec (.cfgRegion n) s) n l s (.err .state 0xFFFF 0)) ∧
      (s.sheow.state = .config → s.banksOn base len = false → Answers (exec (.cfgRegion n) s) n l s (.err .absent 1 0)) ∧ (s.sheow.state = .config → s.banksOn base len = true → s.overlaps base len = true → Answers (exec (.cfgRegion n) s) n l s (.err .conflict 1 0))) ∧
    (isCfg 3 → l.body.length = 3 → kind = 0 ∨ 5 < kind → Answers (exec (.cfgRegion n) s) n l s (.err .range 0 0)) ∧
    (isCfg 4 → l.body = [] → s.sheow.state ≠ .config → Answers (exec (.cfgCommit n) s) n l s (.err .state 0xFFFF 0)) ∧
    (isCfg 4 → l.body = [] → s.sheow.state = .config → s.regionsOf 1 = [] ∨ s.regionsOf 2 = [] ∨ s.regionsOf 5 = [] → Answers (exec (.cfgCommit n) s) n l s (.err .absent 0xFFFF 0)) ∧
    (isCfg 4 → l.body = [] → s.sheow.state = .config → s.regionsOf 1 ≠ [] → s.regionsOf 2 ≠ [] → s.regionsOf 5 ≠ [] → (∀ e ∈ u.sheow.zones, e.2.declared = true → e.2.ringLen ≠ 0) → (∀ r, r = 1 ∨ r = 2 ∨ r = 5 → u.regionUse r ≤ u.regionWords r) → placed.2 = [] → u.missing = 0 →
      ∃ t c w, Answers (exec (.cfgCommit n) s) n l t (.ok [c, w]) ∧ t.sheow.state = .run ∧ (∀ m, m < 16 → t.lb32 (p2hBase m + 8) = stateWord t.sheow) ∧ t.sheow.roles = u.sheow.roles ∧ t.sheow.zthreads = u.sheow.zthreads ∧ t.sheow.zones = u.sheow.zones ∧
        t.sheow.regions = s.sheow.regions ∧ t.xch.mem = s.xch.mem)

/-- R282, R329, R334, R335, R374, R375, R378, Table 11.7: the DEPOT and PIN letters: a parcel is copied, checked, relocated and loaded; a customer thread is started from the parcel loaded last, stopped, resumed or aborted; the depots of a service; spares; pins granted, reclaimed and read.
The model's own choices in it: log entries 82, 87 to 90 and 98. -/
def Obligations.DepotAndPinLetters : Prop :=
  ∀ (s : State) (n : Nat) (l : Letter) (img : HostRead) (p : ParcelData) (q : Parcel) (at' e : Nat),
    let b (i : Nat) : W32 := l.b i
    let isDep (op : Nat) : Prop := s.InService n 3 op l
    let isPin (op : Nat) : Prop := s.InService n 8 op l
    let d := fld (b 0) 8 5
    let id := fld (b 0) 0 8
    let len := (b 3).toNat
    let used := ((freeParcels s).sheow.parcels.filter fun r => r.depot == d).map fun r => (r.base, r.count)
    let tid : Tid := (b 0).extractLsb' 0 12
    let D := s.dep (depOf tid)
    let h := s.thr tid
    let op := fld (b 0) 16 2
    let after : Host.Outcome State Fault Refusal := if op = 1 then exec (.stop .pmA tid) s else if op = 2 then exec (.resume .pmA tid) s else exec (.abort .pmA tid) s
    let sv := fld (b 0) 0 4
    let s1 : State := { s with sheow := { s.sheow with place := s.sheow.place.set sv (b 1) 0 } }
    let ds := (List.range 32).filter fun d => bitAt (b 0) d
    let f := fld (b 0) 0 5
    let first := fld (b 0) 0 10
    let count := fld (b 0) 16 10 + 1
    let inPins (m : Nat) : Prop := first ≤ m ∧ m < first + count
    let kind := fld (b 1) 5 2
    let dep := fld (b 1) 0 5
    (s.shUp = false → exec (.depotParcel n img) s = .next s ∧ exec (.depotTstart n) s = .next s ∧ exec (.depotTctl n) s = .next s ∧ exec (.depotPlace n) s = .next s ∧ exec (.depotSpare n) s = .next s ∧ exec (.depotDstatus n) s = .next s ∧
      exec (.pinGrant n) s = .next s ∧ exec (.pinReclaim n) s = .next s ∧ exec (.pinPstat n) s = .next s) ∧
    (isDep 1 → l.body.length = 4 → s.depUp d = true → s.xferActive d = false → img.err = false → len ≤ img.bytes.length → s.parcelOf (slice img.bytes 0 len) = some p → findPlace (Config.choice s.free) 0 0xC000 p.code.length used = some at' →
      ∃ t, Answers (exec (.depotParcel n img) s) n l t (.ok [BitVec.ofNat 32 at', BitVec.ofNat 32 p.code.length]) ∧ (∀ i, i < p.code.length → (t.dep d).codeWord (at' + i) = (p.relocated at')[i]?.getD 0) ∧
        (∀ i, i < at' ∨ at' + p.code.length ≤ i → (t.dep d).codeWord i = (s.dep d).codeWord i) ∧ (∀ g, g ≠ d → t.dep g = s.dep g) ∧ (t.dep d).threads = (s.dep d).threads ∧
        t.sheow.parcels.filter (fun r => r.id == id && r.depot == d && r.current) = [{ id := id, depot := d, base := at', count := p.code.length, entries := p.entries, current := true }]) ∧
    (isDep 1 → l.body.length = 4 → s.nDep ≤ d → Answers (exec (.depotParcel n img) s) n l s (.err .absent 0 0)) ∧
    (isDep 1 → l.body.length = 4 → s.depUp d = true → s.xferActive d = false → img.err = true → Answers (exec (.depotParcel n img) s) n l s (.err .fault 1 0)) ∧
    (isDep 1 → l.body.length = 4 → s.depUp d = true → s.xferActive d = false → img.err = false → len ≤ img.bytes.length → s.parcelOf (slice img.bytes 0 len) = none → Answers (exec (.depotParcel n img) s) n l s (.err .verify 0xFFFF 0)) ∧
    (isDep 2 → l.body.length = 6 → s.depRun (depOf tid) = true → s.frozen tid = false → s.follower tid = false → s.library tid = false → h.state = .idle ∨ h.state = .faulted →
      s.sheow.parcels.find? (fun r => r.id == fld (b 1) 0 8 && r.depot == depOf tid && r.current) = some q → q.entries[fld (b 1) 8 16]? = some e → sliceOk (b 2) = true → bitAt (b 2) 15 = true →
      ∃ t, Answers (exec (.depotTstart n) s) n l t (.ok []) ∧ (t.thr tid).state = .running ∧ (t.thr tid).pc = BitVec.ofNat 16 (q.base + e) ∧ (t.thr tid).slice = b 2 &&& 0x871F ∧ (t.thr tid).prio = (b 3).setWidth 4 ∧ (t.thr tid).tmo = b 4 ∧
        (t.dep (depOf tid)).chx.get (engOf tid) 0 = D.chx.get (engOf tid) 0 ||| (b 5).setWidth 16 ∧ (t.dep (depOf tid)).edm = D.edm ∧ t.role tid = some { service := 0, parcel := q.id, base := q.base, entry := q.base + e } ∧
        (∀ i, i ≠ idxOf tid → (t.dep (depOf tid)).thr i = D.thr i) ∧ ∀ g, g ≠ depOf tid → t.dep g = s.dep g) ∧
    (isDep 2 → l.body.length = 6 → s.depRun (depOf tid) = true → s.frozen tid = false → s.follower tid = false → (s.library tid = true → Answers (exec (.depotTstart n) s) n l s (.err .conflict 0 0)) ∧
      (s.library tid = false → h.state ≠ .idle → h.state ≠ .faulted → Answers (exec (.depotTstart n) s) n l s (.err .state 0 0))) ∧
    (isDep 3 → l.body.length = 1 → depOf tid < s.nDep → 1 ≤ op → s.library tid = false → s.depUp (depOf tid) = true → ∃ t, after = .next t ∧ Answers (exec (.depotTctl n) s) n l (freeParcels t) (.ok [t.tstat tid])) ∧
    (isDep 3 → l.body.length = 1 → depOf tid < s.nDep → 1 ≤ op → s.library tid = true → Answers (exec (.depotTctl n) s) n l s (.err .conflict 0 0)) ∧
    (isDep 4 → l.body.length = 2 → 1 ≤ sv → sv ≤ 9 → s.sheow.state = .config → s.maskAbsent (b 1) = false → b 1 &&& s.sheow.spares = 0 → (s1.threadShort sv = 0 → Answers (exec (.depotPlace n) s) n l s1 (.ok [BitVec.ofNat 32 ((s1.needs sv).1 + (s1.needs sv).2), BitVec.ofNat 32 (s1.freeTids sv false).length])) ∧
      (s1.threadShort sv ≠ 0 → Answers (exec (.depotPlace n) s) n l s (.err .capacity 0xFFFF (s1.threadShort sv)))) ∧
    (isDep 5 → l.body.length = 1 → ds.length ≤ 2 → s.maskAbsent (b 0) = false → (∀ g ∈ ds, s.depBusy g = false ∧ ∀ w ∈ s.sheow.place, bitAt w.2 g = false) → ∃ t, Answers (exec (.depotSpare n) s) n l t (.ok []) ∧ t.sheow = { s.sheow with spares := b 0 } ∧
      (∀ g ∈ ds, s.depUp g = true → (s.dep g).state = .off → s.dueOff g = false → (t.dep g).state = .run) ∧ ∀ g, g ∉ ds → t.dep g = s.dep g) ∧
    (isDep 5 → l.body.length = 1 → 2 < ds.length → Answers (exec (.depotSpare n) s) n l s (.err .range 0 0)) ∧
    (isDep 7 → l.body.length = 1 → s.depUp f = true → Answers (exec (.depotDstatus n) s) n l s (.ok [BitVec.ofNat 32 (((s.dep f).threads.filter fun e => e.2.state != .idle).length * 2 ^ 16 + (if s.twin f then 4 else 0) + (s.dep f).state.code), (s.dep f).fstatWord.setWidth 32,
      if bitAt s.sheow.failed f then 4 else if bitAt s.sheow.spares f then 3 else if s.sheow.roles.any (fun r => r.1 / 128 == f && (match r.2 with | some x => x.service != 0 | none => false)) then 1 else if s.sheow.roles.any (fun r => r.1 / 128 == f && r.2.isSome) then 2 else 0])) ∧
    (isDep 7 → l.body.length = 1 → s.nDep ≤ f → Answers (exec (.depotDstatus n) s) n l s (.err .absent 0 0)) ∧
    (isPin 1 → l.body.length = 2 → first + count ≤ s.nPin → (kind = 1 → s.secureBox n = true) → (kind = 3 → dep < s.nDep) → (∀ m, inPins m → (s.pin m).ownKind = 0 ∧ m ∉ s.libPins) → (kind = 2 ∨ kind = 3 ∧ s.depNormal dep = true → ∀ m, inPins m → s.pinNormal m = true) →
      ∃ t, Answers (exec (.pinGrant n) s) n l t (.ok []) ∧ (∀ m, inPins m → (t.pin m).ownKind.toNat = kind ∧ (kind = 3 → (t.pin m).ownDep.toNat = dep)) ∧ ∀ m, ¬ inPins m → (t.pin m).ownKind = (s.pin m).ownKind ∧ (t.pin m).ownDep = (s.pin m).ownDep) ∧
    (isPin 1 → l.body.length = 2 → first + count ≤ s.nPin → kind = 0 → (∃ m, inPins m ∧ ((s.pin m).ownKind ≠ 0 ∨ m ∈ s.libPins)) → Answers (exec (.pinGrant n) s) n l s (.err .conflict 0 0)) ∧
    (isPin 2 → l.body.length = 1 → first + count ≤ s.nPin → (∀ m, inPins m → m ∉ s.libPins) → ∃ t, Answers (exec (.pinReclaim n) s) n l t (.ok []) ∧ (∀ m, inPins m → (t.pin m).ownKind = 0) ∧ ∀ m, ¬ inPins m → (t.pin m).ownKind = (s.pin m).ownKind) ∧
    (isPin 3 → l.body.length = 1 → first < s.nPin → first < 768 → let reads (o : Nat) : W32 := (regRead s .pmA (o + 4 * first)).rdata; Answers (exec (.pinPstat n) s) n l (s.sampled.setPin first { s.pin first with disc := 0, crowd := 0, late := 0, slip := 0 })
      (.ok [reads 0x1021000, reads 0x1022000, reads 0x1024000, BitVec.ofNat 32 ((s.pin first).disc.toNat * 2 ^ 24 + (s.pin first).crowd.toNat * 2 ^ 16 + (s.pin first).late.toNat * 2 ^ 8 + (s.pin first).slip.toNat)]) ∧ fld (reads 0x1021000) 5 2 = (s.pin first).ownKind.toNat ∧ fld (reads 0x1021000) 0 5 = (s.pin first).ownDep.toNat ∧ reads 0x1022000 = (s.pin first).func) ∧
    (isPin 3 → l.body.length = 1 → s.nPin ≤ first → Answers (exec (.pinPstat n) s) n l s (.err .absent 0 0))

/-- R314, R333, R336, R376, R377, Table 11.10: the UPDATE and DIAG letters: a record is copied, checked and decrypted into the idle bank or the plug-in pool; commit and confirm after their read-back; the swap, which halts Sheow with its seals released and SWAP shown in every letterbox, and then makes the new image the running one, or lets the old one run on, and reports the interruption; the dead-letter log read in order; the counters of a unit.
The model's own choices in it: log entries 40, 98 and 111 to 115. -/
def Obligations.UpdateAndDiagLetters : Prop :=
  ∀ (s : State) (n : Nat) (l : Letter) (img : HostRead) (p : List Byte) (rb : W32) (acc : Bool),
    let b (i : Nat) : W32 := l.b i
    let isU (op : Nat) : Prop := s.InService n 10 op l
    let isD (op : Nat) : Prop := s.InService n 11 op l
    let u := s.sheow.update
    let k := fld (b 0) 0 4
    let len := (b 3).toNat
    let rec' := slice img.bytes 0 len
    let hdr := slice rec' 0 256
    let checked : Prop := l.body.length = 4 ∧ k < 2 ∧ u.stage ≠ 1 ∧ u.stage ≠ 2 ∧ img.err = false ∧ len ≤ img.bytes.length ∧ 384 ≤ len ∧ s.stageBad k rec' = false ∧ (k = 0 → u.runSeq.toNat < hdrSeq hdr)
    let bank : Nat := if u.bankB then 0 else 0x60000
    let halted : Prop := s.sheow.halted = true ∧ ({ s with sheow := { s.sheow with halted := false } } : State).shUp = true ∧ (s.box n).svc = some l ∧ (n = 2 ∨ (s.box 2).svc = none) ∧ l.cls = 10 ∧ l.op = 3
    let alone : Prop := ∀ m, m < 16 → m ≠ n → (s.box m).svc = none
    let w := fld (b 0) 0 5
    let unit := fld (b 0) 0 4
    let idx := fld (b 0) 8 16
    let D := s.dep idx
    let L := s.lane idx
    (s.shUp = false → exec (.updateStage n img) s = .next s ∧ exec (.updateCommit n rb) s = .next s ∧ (s.sheow.halted = false → exec (.updateSwap n acc) s = .next s) ∧ exec (.updateConfirm n rb) s = .next s ∧ exec (.updateUstatus n) s = .next s ∧ exec (.diagDlRead n) s = .next s ∧ exec (.diagCounters n) s = .next s) ∧
    (isU 1 → checked → s.openBody hdr (slice rec' 256 (hdrLen hdr)) = .ok p → k = 0 → ∃ t, Answers (exec (.updateStage n img) s) n l t (.ok [BitVec.ofNat 32 (hdrSeq hdr), if hdrEnc hdr then 1 else 0]) ∧
      t.sheow.update = { u with stage := 1, kind := 0, seq := BitVec.ofNat 32 (hdrSeq hdr), enc := hdrEnc hdr, host := (b 2).setWidth 8 ++ b 1, len := hdrLen hdr, entry := hdrEntry hdr, body := p, key := slice hdr 64 96 } ∧
      (∀ i, i < p.length → t.pm.sram.read (bank + i) = p[i]?.getD 0) ∧ (∀ a, a < bank ∨ bank + p.length ≤ a → t.pm.sram.read a = s.pm.sram.read a) ∧ t.pm.harts = s.pm.harts ∧ t.deps = s.deps) ∧
    (isU 1 → l.body.length = 4 → k < 2 → u.stage = 1 ∨ u.stage = 2 → Answers (exec (.updateStage n img) s) n l s (.err .busy 0xFFFF 0)) ∧
    (isU 1 → l.body.length = 4 → k < 2 → u.stage ≠ 1 → u.stage ≠ 2 → (img.err = true → Answers (exec (.updateStage n img) s) n l s (.err .fault 1 0)) ∧
      (img.err = false → len ≤ img.bytes.length → 384 ≤ len → s.stageBad k rec' = true → Answers (exec (.updateStage n img) s) n l s (.err .verify 0xFFFF 0)) ∧
      (img.err = false → len ≤ img.bytes.length → 384 ≤ len → s.stageBad k rec' = false → k = 0 → hdrSeq hdr ≤ u.runSeq.toNat → Answers (exec (.updateStage n img) s) n l s (.err .state 0xFFFF 0))) ∧
    (isU 2 → l.body = [] → u.stage = 1 → rb = 0x5A3CC3A5 → Answers (exec (.updateCommit n rb) s) n l { s with sheow := { s.sheow with update := { u with stage := 2 } } } (.ok [])) ∧
    (isU 2 → l.body = [] → u.stage = 1 → rb ≠ 0x5A3CC3A5 → Answers (exec (.updateCommit n rb) s) n l s (.err .fault 0xFFFF 0)) ∧
    (isU 2 → l.body = [] → u.stage ≠ 1 → Answers (exec (.updateCommit n rb) s) n l s (.err .state 0xFFFF 0)) ∧
    (isU 3 → l.body = [] → u.stage ≠ 2 → Answers (exec (.updateSwap n acc) s) n l s (.err .state 0xFFFF 0)) ∧
    (isU 3 → l.body = [] → u.stage = 2 → ¬ alone → exec (.updateSwap n acc) s = .next s) ∧
    (isU 3 → l.body = [] → u.stage = 2 → alone → u.kind = 0 → ∃ t, exec (.updateSwap n acc) s = .next t ∧ t.sheow = { s.sheow with halted := true, update := { u with haltAt := s.clk.bt, det := (s.hart 0).det } } ∧
      (∀ m, m < 16 → t.lb32 (p2hBase m + 8) = BitVec.ofNat 32 (2 ^ 31 + 2 ^ 30 + s.sheow.epoch.toNat * 65536 + 3)) ∧ (t.hart 0).det = true ∧ (t.hart 1).det = true ∧ t.pins = s.pins ∧ t.deps = s.deps ∧
      (s.seals.waits = [] → ∀ a x, t.sealAt a = some x → x.owner ≠ agentId .pmA ∧ x.owner ≠ agentId .pmB)) ∧
    (halted → acc = true → u.kind = 0 → ∃ t, Answers (exec (.updateSwap n true) s) n l t (.ok [BitVec.ofNat 32 ((s.clk.bt - u.haltAt) / 9600)]) ∧
      t.sheow = { s.sheow with halted := false, update := { u with stage := 3, bankB := !u.bankB, oldHost := some (u.runHost, u.runLen), runSeq := u.seq, runHost := u.host, runLen := u.len, runKey := u.key } } ∧
      (∀ m, m < 16 → t.lb32 (p2hBase m + 8) = BitVec.ofNat 32 (2 ^ 31 + s.sheow.epoch.toNat * 65536 + s.sheow.state.code)) ∧ (t.hart 0).det = false ∧ (t.hart 1).det = false ∧ t.pins = s.pins ∧ t.seals = s.seals) ∧
    (halted → acc = false → ∃ t, Answers (exec (.updateSwap n false) s) n l t (.err .state 0xFFFF 0) ∧ t.sheow = { s.sheow with halted := false } ∧ (t.hart 0).det = u.det ∧ (t.hart 1).det = u.det ∧ t.pins = s.pins ∧ t.seals = s.seals) ∧
    (isU 3 → l.body = [] → u.stage = 2 → alone → u.kind ≠ 0 → ∃ t, Answers (exec (.updateSwap n acc) s) n l t (.ok [0]) ∧ t.sheow.update = { u with stage := 3, oldHost := some (u.runHost, u.runLen) } ∧ t.seals = s.seals ∧
      ∀ i x, s.plugin i = some x → ∃ y, t.plugin i = some y ∧ y.image = Config.bundleImage u.body i ∧ y.state = .ready) ∧
    (isU 4 → l.body = [] → u.stage = 3 → rb = 0xC3A55A3C → Answers (exec (.updateConfirm n rb) s) n l { s with sheow := { s.sheow with update := { u with stage := 0, oldHost := none } } } (.ok [])) ∧
    (isU 4 → l.body = [] → u.stage = 3 → rb ≠ 0xC3A55A3C → Answers (exec (.updateConfirm n rb) s) n l s (.err .fault 0xFFFF 0)) ∧
    (isU 4 → l.body = [] → u.stage ≠ 3 → Answers (exec (.updateConfirm n rb) s) n l s (.err .state 0xFFFF 0)) ∧
    (isU 5 → l.body = [] → Answers (exec (.updateUstatus n) s) n l s (.ok [BitVec.ofNat 32 u.stage, if u.stage = 0 then u.runSeq else u.seq])) ∧
    (isD 1 → l.body.length = 1 → 1 ≤ w → w ≤ 30 → Answers (exec (.diagDlRead n) s) n l { s with sheow := { s.sheow with dlLog := s.sheow.dlLog.drop w, dlOver := 0 }, irq := { s.irq with dl := s.irq.dl && s.sheow.dlLog.drop w != [] } }
      (.ok ([BitVec.ofNat 32 (Nat.min w s.sheow.dlLog.length), BitVec.ofNat 32 s.sheow.dlOver] ++ (s.sheow.dlLog.take w).flatMap fun (e : DlEntry) => [e.e0, lo32 e.bt, hi32 e.bt, e.e3, e.e4, e.e5, e.e6, e.e7]))) ∧
    (isD 1 → l.body.length = 1 → w = 0 ∨ 30 < w → Answers (exec (.diagDlRead n) s) n l s (.err .range 0 0)) ∧
    (isD 2 → l.body.length = 1 → unit = 0 → idx < 32 → s.depUp idx = true → ∃ t, Answers (exec (.diagCounters n) s) n l t (.ok [D.drainCnt, D.eccCode ++ D.eccData, D.torn, D.dlLost]) ∧ (t.dep idx).drainCnt = 0 ∧ (t.dep idx).eccCode = 0 ∧ (t.dep idx).eccData = 0 ∧ (t.dep idx).torn = 0 ∧ (t.dep idx).dlLost = 0 ∧
      (t.dep idx).threads = D.threads ∧ ∀ g, g ≠ idx → t.dep g = s.dep g) ∧
    (isD 2 → l.body.length = 1 → unit = 1 → idx < s.nLane → idx < 8 → bitAt s.pwr.lanePow idx = true → ∃ t, Answers (exec (.diagCounters n) s) n l t (.ok ((List.range 12).map fun c => L.cnt.get c 0)) ∧ (∀ c, c < 12 → (t.lane idx).cnt.get c 0 = 0) ∧ ∀ m, m ≠ idx → t.lane m = s.lane m) ∧
    (isD 2 → l.body.length = 1 → unit = 2 → idx < s.nPin → idx < 768 → ∃ t, Answers (exec (.diagCounters n) s) n l t (.ok [BitVec.ofNat 32 ((s.pin idx).disc.toNat * 2 ^ 24 + (s.pin idx).crowd.toNat * 2 ^ 16 + (s.pin idx).late.toNat * 2 ^ 8 + (s.pin idx).slip.toNat)]) ∧
      t = s.setPin idx { s.pin idx with disc := 0, crowd := 0, late := 0, slip := 0 }) ∧
    (isD 2 → l.body.length = 1 → unit = 3 → idx = 0 → ∃ t ws, Answers (exec (.diagCounters n) s) n l t (.ok (s.srt.cutCnt :: ws)) ∧ ws.length = 44 ∧ t.srt.cutCnt = 0) ∧
    (isD 2 → l.body.length = 1 → unit = 4 → idx = 0 → Answers (exec (.diagCounters n) s) n l { s with seals := { s.seals with fullCnt := 0, orphCnt := 0 }, xch := { s.xch with ceCnt := 0, dbeCnt := 0 } } (.ok [s.seals.fullCnt, s.seals.orphCnt, s.xch.ceCnt, s.xch.dbeCnt])) ∧
    (isD 2 → l.body.length = 1 → unit = 5 → idx < 16 → Answers (exec (.diagCounters n) s) n l s (.ok [])) ∧
    (isD 2 → l.body.length = 1 → unit = 6 → s.sheow.zthreads = [(idx, s.zth idx)] → Answers (exec (.diagCounters n) s) n l s (.ok [(s.zth idx).overruns])) ∧
    (isD 2 → l.body.length = 1 → unit = 0 ∧ s.nDep ≤ idx ∨ unit = 1 ∧ s.nLane ≤ idx ∨ unit = 2 ∧ s.nPin ≤ idx ∨ unit = 5 ∧ 16 ≤ idx ∨ unit = 6 ∧ s.sheow.zthreads = [] → Answers (exec (.diagCounters n) s) n l s (.err .absent 0 0))

/-- R333, R358, R413, R423, Tables 11.10, 12.8, 15.7: the SEC letters: a key slot, written once; a signed plug-in image with its windows, placed and loaded; domains of depots, exchange regions, letterboxes and pins; the debug challenge, and the response that raises the level or is counted as a failure.
The model's own choices in it: log entries 98, 112 and 116 to 118. -/
def Obligations.SecurityLetters : Prop :=
  ∀ (s : State) (n i at' : Nat) (l : Letter) (img : HostRead) (key : List W32),
    let b (i : Nat) : W32 := l.b i
    let isS (op : Nat) : Prop := s.InService n 12 op l
    let slot := fld (b 0) 0 4
    let len := (b 2).toNat
    let bs := slice img.bytes 0 len
    let code := leNum bs 8 4
    let data := leNum bs 12 4
    let size := code + data + leNum bs 16 4 + leNum bs 20 4
    let wins := pluginWindows bs
    let used := s.sheow.plugins.filterMap fun e => e.2.map fun x => (x.base, x.size)
    let good : Prop := 144 ≤ len ∧ leNum bs 0 4 = 0x57430050 ∧ leNum bs 4 4 < code ∧ 144 + code + data ≤ len ∧ Config.ecdsaOk (keyBytes key) (slice bs 0 (len - 96)) (slice bs (len - 96) 96) = true
    let obj := fld (b 0) 0 2
    let j := (b 1).toNat
    let k := (b 2).toNat
    let v := bitAt (b 3) 0
    let set (o : W32) (m : Nat) : Bool := if j ≤ m ∧ m < j + k then v else bitAt o m
    let lev := fld (b 0) 0 2
    let verified : Prop := (b 0).toNat = s.sec.chalLevel.toNat ∧ Config.ecdsaOk s.sheow.update.runKey (tokenMsg s) (keyBytes (l.body.drop 1)) = true
    let pending : Prop := l.body.length = 25 ∧ l.begun = false ∧ s.sec.chalPend = true ∧ s.clk.bt ≤ s.sec.chalT + 60 * secBt
    (s.shUp = false → exec (.secKey n) s = .next s ∧ exec (.secPlugin n img) s = .next s ∧ exec (.secDomain n) s = .next s ∧ exec (.secDbgChallenge n) s = .next s ∧ exec (.secDbgUnlock n) s = .next s) ∧
    (isS 1 → l.body.length = 25 → (∀ e ∈ s.sheow.keys, e.1 ≠ slot) → Answers (exec (.secKey n) s) n l { s with sheow := { s.sheow with keys := s.sheow.keys.put slot (l.body.drop 1) } } (.ok [])) ∧
    (isS 1 → l.body.length = 25 → (∃ e ∈ s.sheow.keys, e.1 = slot) → Answers (exec (.secKey n) s) n l s (.err .state 0 0)) ∧
    (isS 2 → l.body.length = 3 → (∀ e ∈ s.sheow.keys, e.1 ≠ 0) → Answers (exec (.secPlugin n img) s) n l s (.err .absent 0xFFFF 0)) ∧
    (isS 2 → l.body.length = 3 → s.sheow.keys.find? (fun e => e.1 == 0) = some (0, key) → img.err = false → len ≤ img.bytes.length → good → (∀ w ∈ wins, s.windowShort w = 0) → size ≤ 65536 → (List.range 8).find? (fun i => (s.sheow.plugins.get i none).isNone) = some i → findPlace (Config.choice s.free) 0xC0000 0x100000 size used = some at' →
      ∃ t, Answers (exec (.secPlugin n img) s) n l t (.ok [BitVec.ofNat 32 i]) ∧ t.plugin i = some { base := at', size := size, entry := leNum bs 4 4, codeLen := code, image := slice bs 48 (code + data), windows := wins, state := .ready, a0 := 0, a1 := 0 } ∧
        (∀ m, m ≠ i → t.plugin m = s.plugin m) ∧ (∀ m, m < code + data → t.pm.sram.read (at' + m) = (slice bs 48 (code + data))[m]?.getD 0) ∧ (∀ a, a < at' ∨ at' + size ≤ a → t.pm.sram.read a = s.pm.sram.read a) ∧ t.pm.harts = s.pm.harts) ∧
    (isS 2 → l.body.length = 3 → s.sheow.keys.find? (fun e => e.1 == 0) = some (0, key) → img.err = false → len ≤ img.bytes.length → ¬ good → Answers (exec (.secPlugin n img) s) n l s (.err .verify 0xFFFF 0)) ∧
    (isS 3 → l.body.length = 4 → s.sec.esc = true → Answers (exec (.secDomain n) s) n l s (.err .busy 0xFFFF 0)) ∧
    (isS 3 → l.body.length = 4 → s.sec.esc = false → obj = 0 → j + k ≤ s.nDep → j + k ≤ 32 → (∀ d, j ≤ d → d < j + k → v = bitAt s.sec.depDom d ∨ (s.dep d).powered = false ∨ (s.dep d).state = .off) → ∃ t, Answers (exec (.secDomain n) s) n l t (.ok []) ∧ (∀ d, d < 32 → bitAt t.sec.depDom d = set s.sec.depDom d) ∧ t = { s with sec := { s.sec with depDom := t.sec.depDom } }) ∧
    (isS 3 → l.body.length = 4 → s.sec.esc = false → obj = 0 → j + k ≤ s.nDep → j + k ≤ 32 → (∃ d, j ≤ d ∧ d < j + k ∧ v ≠ bitAt s.sec.depDom d ∧ (s.dep d).powered = true ∧ (s.dep d).state ≠ .off) → Answers (exec (.secDomain n) s) n l s (.err .state 1 0)) ∧
    (isS 3 → l.body.length = 4 → s.sec.esc = false → obj = 1 → j % 2048 = 0 → k % 2048 = 0 → k ≠ 0 → j + k ≤ 2 ^ 22 → s.xregFor (j / 2048) (k / 2048) = some i → ∃ t, Answers (exec (.secDomain n) s) n l t (.ok []) ∧ bitAt (t.sec.xregLo.get i 0) 31 = true ∧ bitAt (t.sec.xregLo.get i 0) 30 = v ∧
      fld (t.sec.xregLo.get i 0) 11 11 = j / 2048 ∧ fld (t.sec.xregHi.get i 0) 0 12 = k / 2048 ∧ ∀ r, r ≠ i → t.sec.xregLo.get r 0 = s.sec.xregLo.get r 0 ∧ t.sec.xregHi.get r 0 = s.sec.xregHi.get r 0) ∧
    (isS 3 → l.body.length = 4 → s.sec.esc = false → obj = 2 → 3 ≤ j → j + k ≤ 16 → (∀ m, j ≤ m → m < j + k → v = bitAt s.sec.lbDom m ∨ s.ringsEmpty m = true) → ∃ t, Answers (exec (.secDomain n) s) n l t (.ok []) ∧ (∀ m, 3 ≤ m → m < 16 → bitAt t.sec.lbDom m = if j ≤ m ∧ m < j + k then v else bitAt s.sec.lbDom m)) ∧
    (isS 3 → l.body.length = 4 → s.sec.esc = false → obj = 2 → 3 ≤ j → j + k ≤ 16 → (∃ m, j ≤ m ∧ m < j + k ∧ v ≠ bitAt s.sec.lbDom m ∧ s.ringsEmpty m = false) → Answers (exec (.secDomain n) s) n l s (.err .busy 1 0)) ∧
    (isS 3 → l.body.length = 4 → s.sec.esc = false → obj = 3 → j + k ≤ s.nPin → j + k ≤ 768 → (∀ m, j ≤ m → m < j + k → v = true ∨ s.pinNormal m = false ∨ (s.pin m).ownKind ≠ 2 ∧ ((s.pin m).ownKind = 3 → s.depNormal (s.pin m).ownDep.toNat = false)) →
      ∃ t, Answers (exec (.secDomain n) s) n l t (.ok []) ∧ ∀ m, m < 768 → bitAt (t.sec.pinDom.get (m / 16) 0) (m % 16) = if j ≤ m ∧ m < j + k then v else bitAt (s.sec.pinDom.get (m / 16) 0) (m % 16)) ∧
    (isS 4 → l.body.length = 1 → 2 ≤ lev → s.lc = 1 → s.sec.dbgLock = false → ∃ t, Answers (exec (.secDbgChallenge n) s) n l t (.ok (chalWords t.sec.chal)) ∧ t.sec = { s.sec with chal := t.sec.chal, chalPend := true, chalLevel := BitVec.ofNat 2 lev, chalT := s.clk.bt } ∧ t = { s with sec := t.sec, free := t.free }) ∧
    (isS 4 → l.body.length = 1 → 2 ≤ lev → s.lc ≠ 1 ∨ s.sec.dbgLock = true → Answers (exec (.secDbgChallenge n) s) n l s (.err .state 0xFFFF 0)) ∧
    (isS 5 → pending → verified → s.sec.chalLevel = 2 → s.dbg.level.toNat < 2 → s.sec.esc = false → ∃ t, Answers (exec (.secDbgUnlock n) s) n l t (.ok [2]) ∧ t.dbg.level = 2 ∧ t.sec.chalPend = false ∧ t.sec.fails = s.sec.fails) ∧
    (isS 5 → pending → verified → s.sec.chalLevel = 3 → s.dbg.level.toNat < 3 → s.sec.esc = false → ∃ t, exec (.secDbgUnlock n) s = .next t ∧ t.sec.esc = true ∧ t.sec.ikeySet = false ∧ t.dbg.level = s.dbg.level ∧ t.sec.chalPend = false ∧ (t.box n).svc = some { l with begun := true }) ∧
    (isS 5 → pending → ¬ verified → s.sec.fails.toNat < 4 → ∃ t, Answers (exec (.secDbgUnlock n) s) n l t (.err .verify 0xFFFF 0) ∧ t.sec.fails = s.sec.fails + 1 ∧ t.sec.chalPend = false ∧ t.sec.dbgLock = (s.sec.dbgLock || s.sec.fails == 3) ∧ t.dbg = s.dbg) ∧
    (isS 5 → l.body.length = 25 → l.begun = false → s.sec.chalPend = false ∨ s.sec.chalT + 60 * secBt < s.clk.bt → Answers (exec (.secDbgUnlock n) s) n l s (.err .state 0xFFFF 0)) ∧
    (isS 5 → l.body.length = 25 → l.begun = true → (s.sec.esc = true → exec (.secDbgUnlock n) s = .next s) ∧ (s.sec.esc = false → Answers (exec (.secDbgUnlock n) s) n l s (.ok [BitVec.ofNat 32 s.dbg.level.toNat])))

/-- R261, R262, R265, R270, R272 to R276, R279, R325, R330, Tables 9.3, 11.8: the ZONE letters: parameters, filters and evacuation map of zones; route slots, all records together; the message store written, sealed and opened; alarms; zone status. A ROUTE letter with a priority-15 record, or an ALARM letter, on another letterbox than LB2 changes no route slot and no alarm. A letter waits while another agent holds a block's seal; a refusal changes nothing.
The model's own choices in it: log entries 93, 100 to 106, 196 and 207. -/
def Obligations.ZoneLetters : Prop :=
  ∀ (s : State) (n z o i k : Nat) (l : Letter) (w : W32) (ws : List W32) (bs : List EqBand) (r : RouteRec) (rs : List RouteRec) (g : Region),
    let b (i : Nat) : W32 := l.b i
    let isZ (op : Nat) : Prop := s.InService n 4 op l
    let z0 := fld (b 0) 0 10
    let recs := l.body.drop 1
    let x := s.zone z0
    let y : Zone := { x with params := setRecs x.params recs }
    let same := y.delay = x.delay
    let t0 := declareZone (s.setZone z0 y) z0
    let t1 := if same then t0 else newDelay t0 z0
    let t2 := declareZone (s.setZone z0 { x with eq := bs }) z0
    let routes := routeRecs l.body
    let zs := (routes.flatMap RouteRec.zones).eraseDups
    let u := routes.foldl putRoute s
    let joined := zs.foldl (fun (p : State × Nat) z => let q := joinThread p.1 z; (q.1, p.2 + q.2)) (u, 0)
    let fits : Prop := (∀ z ∈ zs, (u.zone z).slots15 ≤ 1) ∧ joined.2 = 0 ∧ (∀ i ∈ joined.1.threadsOf zs, (joined.1.instances i).length ≤ 2)
    let mapped := l.body.foldl (fun (t : State) v => let u := t.setZone (fld v 0 10) { t.zone (fld v 0 10) with evac := fld v 16 16 }; if fld v 16 16 = 0 then u else declareZone u (fld v 0 10)) s
    let moved := (l.body.map fun v => fld v 0 10).foldl (fun (p : State × Nat) z => let q := toAlarmPath p.1 z; (q.1, p.2 + q.2)) (mapped, 0)
    let msg := fld (b 1) 0 16
    let id (z : Nat) : Nat := if msg = 0 then (s.zone z).evac else msg
    let slot (t : State) (z i : Nat) : Slot := (t.zone z).slot i
    (s.shUp = false → exec (.zoneZparam n) s = .next s ∧ exec (.zoneRoute n) s = .next s ∧ exec (.zoneEq n) s = .next s ∧ exec (.zoneEvacMap n) s = .next s ∧ exec (.zoneStoreWrite n) s = .next s ∧ exec (.zoneStoreSeal n) s = .next s ∧
      exec (.zoneStoreOpen n) s = .next s ∧ exec (.zoneAlarm n) s = .next s ∧ exec (.zoneZstatus n) s = .next s) ∧
    (isZ 1 → l.body ≠ [] → badRec 1 15 recs = none → (∀ i, i < 8 → y.nSlots ≤ i → (x.slot i).used = false) → same ∨ x.at15 = false ∧ (x.ringLen = 2 ^ ringBits y.delay ∨ (t0.ringPlace z0 y.delay).isSome) → (joinThread t1 z0).2 = 0 →
      (s.blocksFree [z0] = true → ∃ t, ZoneAnswers (exec (.zoneZparam n) s) n l t (.ok []) ∧ (t.zone z0).params = setRecs x.params recs ∧ (t.zone z0).declared = true ∧ (z ≠ z0 → (t.zone z).params = (s.zone z).params) ∧ (same → t.xch.mem = s.xch.mem)) ∧
      (s.blocksFree [z0] = false → exec (.zoneZparam n) s = .next (zoneReports s))) ∧
    (isZ 1 → l.body ≠ [] → badRec 1 15 recs = some k → ZoneAnswers (exec (.zoneZparam n) s) n l s (.err .range (k + 1) 0)) ∧
    (isZ 1 → l.body ≠ [] → badRec 1 15 recs = none → (∃ i, i < 8 ∧ y.nSlots ≤ i ∧ (x.slot i).used = true) ∨ ¬ same ∧ x.at15 = true → ZoneAnswers (exec (.zoneZparam n) s) n l s (.err .state 0xFFFF 0)) ∧
    (isZ 3 → l.body ≠ [] → fld (b 0) 16 4 ≤ 12 → eqBands (fld (b 0) 16 4) recs = some bs → (joinThread t2 z0).2 = 0 → s.blocksFree [z0] = true →
      ∃ t, ZoneAnswers (exec (.zoneEq n) s) n l t (.ok []) ∧ (t.zone z0).eq = bs ∧ (z ≠ z0 → (t.zone z).eq = (s.zone z).eq)) ∧
    (isZ 3 → l.body ≠ [] → fld (b 0) 16 4 ≤ 12 → eqBands (fld (b 0) 16 4) recs = none → ZoneAnswers (exec (.zoneEq n) s) n l s (.err .len 0xFFFF 0)) ∧
    (∀ tag a0 a1 a2 a3 a4 : W32, (bitAt tag 31 = false → eqBands 1 [tag, a0, a1, a2] = some [{ wide := false, halved := bitAt tag 30, coef := [(a0.setWidth 16).toInt, ((a0 >>> 16).setWidth 16).toInt, (a1.setWidth 16).toInt, ((a1 >>> 16).setWidth 16).toInt, (a2.setWidth 16).toInt] }]) ∧
      (bitAt tag 31 = true → eqBands 1 [tag, a0, a1, a2, a3, a4] = some [{ wide := true, halved := bitAt tag 30, coef := [a0.toInt, a1.toInt, a2.toInt, a3.toInt, a4.toInt] }])) ∧
    (isZ 4 → l.body = ws ++ [w] → (∀ v ∈ l.body, fld v 10 6 = 0) → moved.2 = 0 → s.blocksFree (l.body.map fun v => fld v 0 10) = true → ∃ t, ZoneAnswers (exec (.zoneEvacMap n) s) n l t (.ok []) ∧ (t.zone (fld w 0 10)).evac = fld w 16 16 ∧ ((∀ v ∈ l.body, fld v 0 10 ≠ z) → (t.zone z).evac = (s.zone z).evac)) ∧
    (isZ 4 → l.body ≠ [] → (∀ v ∈ l.body, fld v 10 6 = 0) → moved.2 ≠ 0 → ZoneAnswers (exec (.zoneEvacMap n) s) n l s (.err .capacity 0xFFFF moved.2)) ∧
    (isZ 4 → l.body = [w] → fld w 10 6 ≠ 0 → ZoneAnswers (exec (.zoneEvacMap n) s) n l s (.err .range 0 0)) ∧
    (isZ 2 → l.body ≠ [] → l.body.length % 5 = 0 → s.sheow.state = .run → s.routesBad n 0 routes = none → fits → s.blocksFree zs = true → routes = rs ++ [r] → z ∈ r.zones → ∃ t, ZoneAnswers (exec (.zoneRoute n) s) n l t (.ok []) ∧ (slot t z r.slot).saved = none ∧
      (r.kind = 0 → (slot t z r.slot).route = {}) ∧ (r.kind ≠ 0 → (slot t z r.slot).route.src = r.src ∧ (slot t z r.slot).route.prio = r.prio ∧ (slot t z r.slot).route.gain = r.gain ∧ (r.given = true → (slot t z r.slot).route.start = r.start))) ∧
    (isZ 2 → l.body ≠ [] → l.body.length % 5 = 0 → s.sheow.state = .run → s.routesBad n 0 routes = none → fits → s.blocksFree zs = false → exec (.zoneRoute n) s = .next (zoneReports s)) ∧
    (isZ 2 → l.body ≠ [] → l.body.length % 5 = 0 → s.sheow.state ≠ .run → ZoneAnswers (exec (.zoneRoute n) s) n l s (.err .state 0xFFFF 0)) ∧
    (isZ 2 → s.sheow.state = .run → l.body.length % 5 = 0 → routes = r :: rs → r.first + r.count ≤ 1024 → r.kind ≠ 3 → (∀ z ∈ r.zones, r.slot < (s.zone z).nSlots) → r.prio = 15 → n ≠ 2 → exec (.zoneRoute n) s = .next (zoneReports (replyTo (logRefused (endService s n) n l .box) n l (.err .box 1 0)))) ∧
    (isZ 2 → n ≠ 2 → r ∈ routes → r.prio = 15 → ∃ t, exec (.zoneRoute n) s = .next t ∧ (t.zone z).slots = (s.zone z).slots ∧ t.sheow.alarm = s.sheow.alarm) ∧
    (isZ 8 → n ≠ 2 → ∃ t, exec (.zoneAlarm n) s = .next t ∧ (t.zone z).slots = (s.zone z).slots ∧ t.sheow.alarm = s.sheow.alarm) ∧
    (isZ 5 → l.body ≠ [] → s.storeRegion = some g → s.sheow.storeSealed = false → (b 0).toNat = o → o % 4 = 0 → o + 4 * recs.length ≤ 2 * g.len → s.xch.err = [] → s.bankHere (g.base + o / 2 + 2 * i) = true → s.bankHere (g.base + o / 2 + 2 * i + 1) = true → i < recs.length →
      ∃ t, ZoneAnswers (exec (.zoneStoreWrite n) s) n l t (.ok []) ∧ t.xword (g.base + o / 2 + 2 * i) = (recs[i]?.getD 0).setWidth 16 ∧ t.xword (g.base + o / 2 + 2 * i + 1) = ((recs[i]?.getD 0) >>> 16).setWidth 16 ∧
        (∀ a, a < g.base + o / 2 ∨ g.base + o / 2 + 2 * recs.length ≤ a → t.xword a = s.xword a) ∧ t.sheow = s.sheow) ∧
    (isZ 5 → l.body ≠ [] → s.storeRegion = some g → s.sheow.storeSealed = true → ZoneAnswers (exec (.zoneStoreWrite n) s) n l s (.err .state 0xFFFF 0)) ∧
    (isZ 5 → l.body ≠ [] → s.storeRegion = some g → s.sheow.storeSealed = false → (b 0).toNat % 4 ≠ 0 ∨ 2 * g.len < (b 0).toNat + 4 * recs.length → ZoneAnswers (exec (.zoneStoreWrite n) s) n l s (.err .range 0 0)) ∧
    (isZ 6 → l.body = [] → s.storeRegion = some g → ∃ t c m0 m1, ZoneAnswers (exec (.zoneStoreSeal n) s) n l t (.ok [c, m0, m1]) ∧ t = { s with sheow := { s.sheow with store := t.sheow.store, storeSealed := true } } ∧ c = BitVec.ofNat 32 t.sheow.store.length ∧
      (∀ e, e < 64 → let ent := s.xwords (g.base + 8 * e) 8; bitAt (if e < 32 then m0 else m1) (e % 32) = (ent.headD 0 != 0 && (s.entryOk g ent).isNone) ∧ (∀ m, ent.headD 0 ≠ 0 → s.entryOk g ent = some m → m ∈ t.sheow.store)) ∧
      ∀ m ∈ t.sheow.store, ∃ e, e < 64 ∧ s.entryOk g (s.xwords (g.base + 8 * e) 8) = some m) ∧
    (isZ 6 → l.body = [] → s.storeRegion = none → ZoneAnswers (exec (.zoneStoreSeal n) s) n l s (.err .absent 0xFFFF 0)) ∧
    (isZ 7 → l.body = [] → (∀ e ∈ s.sheow.zones, e.2.switched = none ∧ ∀ v ∈ e.2.slots, v.2.onStore = false) → ZoneAnswers (exec (.zoneStoreOpen n) s) n l { s with sheow := { s.sheow with store := [], storeSealed := false } } (.ok [])) ∧
    (isZ 7 → l.body = [] → (∃ e ∈ s.sheow.zones, ∃ v ∈ e.2.slots, v.2.onStore = true) → ZoneAnswers (exec (.zoneStoreOpen n) s) n l s (.err .state 0xFFFF 0)) ∧
    (isZ 8 → l.body.length = 2 → n = 2 → s.sheow.state = .run → bitAt (b 0) 0 = true → s.blocksFree s.mapped = true → ∃ t c, ZoneAnswers (exec (.zoneAlarm n) s) n l t (.ok [BitVec.ofNat 32 s.mapped.length, c]) ∧ t.sheow.alarm = true ∧
      c = BitVec.ofNat 32 (s.mapped.filter fun z => (s.message (id z)).isNone).length ∧
      (z ∈ s.mapped → let a := (s.zone z).alarmSlot; (slot t z a).route.src = .msg (id z) ∧ (slot t z a).route.prio = 15 ∧ (slot t z a).route.start = (s.mediaCycle + 48) % 2 ^ 29 ∧ (slot t z a).saved = some ((slot s z a).saved.getD (slot s z a).route) ∧ ∀ j, j ≠ a → slot t z j = slot s z j)) ∧
    (isZ 8 → l.body.length = 2 → n = 2 → s.sheow.state = .run → bitAt (b 0) 0 = false → s.blocksFree s.taken = true → ∃ t, ZoneAnswers (exec (.zoneAlarm n) s) n l t (.ok [BitVec.ofNat 32 s.taken.length, 0]) ∧ t.sheow.alarm = false ∧
      (∀ q : Route, s.sheow.zones = [(z, s.zone z)] → (s.zone z).slots = [(i, slot s z i)] → (slot s z i).saved = some q → q.src ≠ .none → (slot t z i).route = q ∧ (slot t z i).saved = none)) ∧
    (isZ 8 → l.body.length = 2 → n ≠ 2 → exec (.zoneAlarm n) s = .next (zoneReports (replyTo (logRefused (endService s n) n l .box) n l (.err .box 0xFFFF 0)))) ∧
    (isZ 8 → l.body.length = 2 → n = 2 → s.sheow.state ≠ .run → ZoneAnswers (exec (.zoneAlarm n) s) n l s (.err .state 0xFFFF 0)) ∧
    (isZ 9 → l.body.length = 1 → x.declared = true → ∃ v ov, ZoneAnswers (exec (.zoneZstatus n) s) n l s (.ok [v, x.clips, ov]) ∧ (x.prio < 16 → fld v 0 4 = x.prio) ∧ (x.prio < 16 → ∀ i, i < 8 → bitAt v (8 + i) = (x.slot i).used) ∧ (x.prio < 16 → bitAt v 16 = x.switched.isSome) ∧
      (∀ e : ZThread, s.sheow.zthreads = [(i, e)] → z0 ∈ e.zones → ov = e.overruns)) ∧
    (isZ 9 → l.body.length = 1 → x.declared = false → ZoneAnswers (exec (.zoneZstatus n) s) n l s (.err .absent 0 0))

/-- R256, R258, R264, R330, Tables 8.5, 11.8: the STREAM letters declare inbound and outbound streams with the options of Table 8.5, remove them where no route uses them, and report their counts; what an outbound stream reports beside its packets is a free value of the model.
The model's own choices in it: log entries 91, 104 to 106 and 152. -/
def Obligations.StreamLetters : Prop :=
  ∀ (s : State) (n : Nat) (l : Letter) (x : StreamIn) (y : StreamOut),
    let b (i : Nat) : W32 := l.b i
    let isT (op : Nat) : Prop := s.InService n 5 op l
    let id := fld (b 0) 0 11
    let aaf := bitAt (b 0) 12
    let ring := fld (b 1) 0 8
    let spp := fld (b 1) 24 8
    let link := if aaf then 0 else fld (b 4) 0 13
    let optsOk (w : W32) : Prop := 1 ≤ fld w 16 4 ∧ fld w 16 4 ≤ 8 ∧ 6 ≤ fld w 24 8 ∧ fld w 24 8 ≤ 192 ∧ fld w 16 4 * fld w 24 8 * (if bitAt w 8 then 3 else 2) ≤ 1440
    let need := ringNeed ((spp, link) :: s.onRing ring)
    let slots := frSlots (s.fring ring).cfg
    let new : StreamIn := { aaf := aaf, alarm := bitAt (b 0) 13, ring := ring, l24 := bitAt (b 1) 8, channels := fld (b 1) 16 4, spp := spp, offset := b 2, sid := b 3 ++ b 2, link := link, arrival := s.pmk3Cycle }
    let t0 := s.setSin id (some new)
    let unbound (v : Option StreamIn) : Option StreamIn := v.map fun y => { y with tid := none }
    let oid := fld (b 0) 0 10
    let zs := ((l.body.drop 8).flatMap fun w => [fld w 0 10, fld w 16 10]).take (fld (b 2) 16 4)
    let newOut : StreamOut := { aaf := aaf, lane := fld (b 1) 0 3, queue := fld (b 1) 4 3, prp := bitAt (b 1) 7, l24 := bitAt (b 2) 8, channels := fld (b 2) 16 4, spp := fld (b 2) 24 8, tmpl := fld (b 3) 0 22, tmplLen := (b 4).toNat, txOff := fld (b 5) 0 16, rtpOff := b 6, sid := b 7 ++ b 6, zones := zs, cycle := s.mediaCycle }
    let joined := zs.foldl (fun (p : State × Nat) z => let q := joinThread p.1 z; (q.1, p.2 + q.2)) (zs.foldl declareZone (s.setSout oid (some newOut)), 0)
    let out := bitAt (b 0) 16
    (s.shUp = false → exec (.streamIn n) s = .next s ∧ exec (.streamOut n) s = .next s ∧ exec (.streamRemove n) s = .next s ∧ exec (.streamSstatus n) s = .next s) ∧
    (isT 1 → l.body.length = 5 → ¬ optsOk (b 1) → ZoneAnswers (exec (.streamIn n) s) n l s (.err .unsupported 1 0)) ∧
    (isT 1 → l.body.length = 5 → optsOk (b 1) → s.sin id ≠ none → ZoneAnswers (exec (.streamIn n) s) n l s (.err .conflict 0 0)) ∧
    (isT 1 → l.body.length = 5 → optsOk (b 1) → s.sin id = none → aaf = false → link < 12 ∨ 4800 < link ∨ 30 * spp < link → ZoneAnswers (exec (.streamIn n) s) n l s (.err .range 4 0)) ∧
    (isT 1 → l.body.length = 5 → optsOk (b 1) → s.sin id = none → aaf = true ∨ 12 ≤ link ∧ link ≤ 4800 ∧ link ≤ 30 * spp → (slots < need → ZoneAnswers (exec (.streamIn n) s) n l s (.err .capacity 1 (need - slots))) ∧
      (need ≤ slots → t0.runShort = 0 → ∃ t, ZoneAnswers (exec (.streamIn n) s) n l t (.ok []) ∧ unbound (t.sin id) = some new ∧ (∀ i, i ≠ id → unbound (t.sin i) = unbound (s.sin i) ∧ ((s.sin i).all (fun y => y.tid.isSome) = true → t.sin i = s.sin i)) ∧ (s.sheow.state = .config → t.sin id = some new) ∧ t.sheow.streamsOut = s.sheow.streamsOut ∧ t.xch.mem = s.xch.mem)) ∧
    (isT 2 → l.body.length = 12 → ¬ optsOk (b 2) → ZoneAnswers (exec (.streamOut n) s) n l s (.err .unsupported 2 0)) ∧
    (isT 2 → l.body.length = 12 → optsOk (b 2) → s.nLane ≤ fld (b 1) 0 3 → ZoneAnswers (exec (.streamOut n) s) n l s (.err .absent 1 0)) ∧
    (isT 2 → l.body.length = 12 → optsOk (b 2) → fld (b 1) 0 3 < s.nLane → s.sout oid ≠ none → ZoneAnswers (exec (.streamOut n) s) n l s (.err .conflict 0 0)) ∧
    (isT 2 → l.body.length = 12 → optsOk (b 2) → fld (b 1) 0 3 < s.nLane → s.sout oid = none → joined.2 = 0 → joined.1.runShort = 0 → ∃ t, ZoneAnswers (exec (.streamOut n) s) n l t (.ok []) ∧ t.sout oid = some newOut ∧ (∀ i, i ≠ oid → t.sout i = s.sout i) ∧ (∀ z ∈ zs, (t.zone z).declared = true) ∧ ∀ i, unbound (t.sin i) = unbound (s.sin i)) ∧
    (isT 3 → l.body.length = 1 → out = true → (s.sout id ≠ none → ZoneAnswers (exec (.streamRemove n) s) n l (s.setSout id none) (.ok [])) ∧ (s.sout id = none → ZoneAnswers (exec (.streamRemove n) s) n l s (.err .absent 0 0))) ∧
    (isT 3 → l.body.length = 1 → out = false → (s.sin id ≠ none → s.streamUsed id = false → ZoneAnswers (exec (.streamRemove n) s) n l (s.setSin id none) (.ok [])) ∧ (s.sin id ≠ none → s.streamUsed id = true → ZoneAnswers (exec (.streamRemove n) s) n l s (.err .state 0 0)) ∧
      (s.sin id = none → ZoneAnswers (exec (.streamRemove n) s) n l s (.err .absent 0 0))) ∧
    (isT 4 → l.body.length = 1 → out = false → s.sin id = some x → ZoneAnswers (exec (.streamSstatus n) s) n l s (.ok [x.packets, x.lost, x.late, BitVec.ofNat 32 x.arrival])) ∧
    (isT 4 → l.body.length = 1 → out = true → s.sout id = some y → ∃ t a c d, ZoneAnswers (exec (.streamSstatus n) s) n l t (.ok [y.packets, a, c, d]) ∧ t = { s with free := t.free }) ∧
    (isT 4 → l.body.length = 1 → out = false ∧ s.sin id = none ∨ out = true ∧ s.sout id = none → ZoneAnswers (exec (.streamSstatus n) s) n l s (.err .absent 0 0))

/-- R284, R285, R290 to R292, R296, R299 to R301, R306, R331, R332, Tables 10.1, 11.9: the LINE and POWER letters: mode, zone and parameters of a channel, its pins and baselines, restart of a latched channel, restoring of a changed-over loop, the round asked for and stopped; a supply's parameters, pins and state.
The model's own choices in it: log entries 94, 96, 107, 108, 198 and 205. -/
def Obligations.LineAndPowerLetters : Prop :=
  ∀ (s : State) (n k : Nat) (l : Letter) (p : LinePins) (q : SupPins) (r : Round),
    let b (i : Nat) : W32 := l.b i
    let isL (op : Nat) : Prop := s.InService n 6 op l
    let isP (op : Nat) : Prop := s.InService n 7 op l
    let c := fld (b 0) 0 8
    let x := s.chan c
    let recs := l.body.drop 1
    let z := fld (b 0) 16 10
    let on := bitAt (b 0) 31
    let y : Chan := { x with loop := bitAt (b 0) 8, bridge4 := bitAt (b 0) 9, zone := z, enabled := on, params := setRecs x.params recs }
    let j := joinThread (declareZone (s.setChan c y) z) z
    let pin (i : Nat) : Nat := fld (b i) 0 10
    let mine (m : Nat) : Prop := m < s.nPin ∧ (s.pin m).ownKind = 0
    let shared (m : Nat) : Prop := m < s.nPin ∧ ((s.pin m).ownKind = 0 ∨ m ∈ s.libPins)
    let sense (j : Nat) : Nat := (linkAt (b 3) j).1
    let legNo := fld (b 0) 0 9
    let bc := legNo / 2
    let legB := legNo % 2 == 1
    let leg (t : State) : Leg := (t.chan bc).leg legB
    let kind := fld (b 0) 16 2
    let groups := fld (b 3) 0 4 + 1
    let q0 := (b 0).toNat
    let len := if fld (b 1) 0 16 = 0 then 7200 else fld (b 1) 0 16
    let new : Round := { start := s.secBt4 q0, stop := s.secBt4 (q0 + len), idle := if fld (b 2) 0 16 = 0 then 30 else fld (b 2) 0 16, groups := roundGroups groups (l.body.drop 4), baseline := bitAt (b 1) 31, active := false, group := 0 }
    let kS := fld (b 0) 0 4
    let v := s.supply kS
    let t0 := s.setSupply kS { v with enabled := on, params := setRecs v.params recs }
    (s.shUp = false → exec (.lineChannel n) s = .next s ∧ exec (.linePins n) s = .next s ∧ exec (.lineBaseline n) s = .next s ∧ exec (.lineRestart n) s = .next s ∧ exec (.lineRestore n) s = .next s ∧ exec (.lineRound n) s = .next s ∧ exec (.lineRoundStop n) s = .next s ∧
      exec (.powerSupply n) s = .next s ∧ exec (.powerSupplyPins n) s = .next s ∧ exec (.powerSpstat n) s = .next s) ∧
    (isL 1 → l.body ≠ [] → x.pins = none → Answers (exec (.lineChannel n) s) n l s (.err .state 0 0)) ∧
    (isL 1 → l.body ≠ [] → x.pins = some p → badRec 0x20 0x38 recs = some k → Answers (exec (.lineChannel n) s) n l s (.err .range (k + 1) 0)) ∧
    (isL 1 → l.body ≠ [] → x.pins = some p → badRec 0x20 0x38 recs = none → (∃ e ∈ s.sheow.chans, e.1 ≠ c ∧ e.2.enabled = true ∧ e.2.zone = z) → Answers (exec (.lineChannel n) s) n l s (.err .conflict 0 0)) ∧
    (isL 1 → l.body ≠ [] → x.pins = some p → badRec 0x20 0x38 recs = none → (∀ e ∈ s.sheow.chans, e.1 ≠ c → e.2.enabled = true → e.2.zone ≠ z) → (on = true → bitAt (b 0) 9 = true → x.bridge4 = false → mine p.lowA ∧ mine p.lowB) → j.2 = 0 → j.1.runShort = 0 →
      ∃ t, Answers (exec (.lineChannel n) s) n l t (.ok []) ∧ (t.chan c).loop = bitAt (b 0) 8 ∧ (t.chan c).bridge4 = bitAt (b 0) 9 ∧ (t.chan c).zone = z ∧ (t.chan c).enabled = on ∧ (t.chan c).params = setRecs x.params recs ∧ (t.chan c).pins = some p ∧ (t.zone z).declared = true ∧
        (on = false → x.enabled = true → (t.chan c).stopped = true) ∧ (k ≠ c → (t.chan k).params = (s.chan k).params ∧ (t.chan k).enabled = (s.chan k).enabled)) ∧
    (isL 2 → l.body.length = 7 → mine (pin 1) → mine (fld (b 1) 16 10) → (∀ j, j < 4 → shared (sense j)) → shared (pin 4) → shared (pin 5) → shared (pin 6) → ∃ t, Answers (exec (.linePins n) s) n l t (.ok []) ∧
      (t.chan c).pins = some { gateA := pin 1, gateB := fld (b 1) 16 10, lowA := pin 2, lowB := fld (b 2) 16 10, sense := b 3, status := b 4, relayA := b 5, relayB := b 6 } ∧ (t.chan c).enabled = x.enabled ∧ (t.chan c).params = x.params ∧ (k ≠ c → t.chan k = s.chan k)) ∧
    (isL 2 → l.body.length = 7 → s.nPin ≤ pin 1 → Answers (exec (.linePins n) s) n l s (.err .absent 1 0)) ∧
    (isL 2 → l.body.length = 7 → (∀ i, i = 1 ∨ i = 4 ∨ i = 5 ∨ i = 6 → pin i < s.nPin) → (∀ j, j < 4 → sense j < s.nPin) → fld (b 1) 16 10 < s.nPin → (s.pin (pin 1)).ownKind ≠ 0 → Answers (exec (.linePins n) s) n l s (.err .conflict 1 0)) ∧
    (isL 3 → kind = 0 → l.body.length = 3 → ∃ t, Answers (exec (.lineBaseline n) s) n l t (.ok []) ∧ leg t = { leg s with zb := some (absZ (b 1) (b 2)), fresh := true } ∧ (k ≠ bc → t.chan k = s.chan k)) ∧
    (isL 3 → kind = 1 → l.body.length = 2 → (s.chan bc).loop = true → legB = true → ∃ t, Answers (exec (.lineBaseline n) s) n l t (.ok []) ∧ leg t = { leg s with rhob := some (fld (b 1) 0 16), fresh := true } ∧ (k ≠ bc → t.chan k = s.chan k)) ∧
    (isL 3 → kind = 1 → l.body.length = 2 → (s.chan bc).loop = false ∨ legB = false → Answers (exec (.lineBaseline n) s) n l s (.err .state 0 0)) ∧
    (isL 3 → kind = 2 → l.body.length = 19 → ∃ t, Answers (exec (.lineBaseline n) s) n l t (.ok []) ∧ leg t = { leg s with sweep := (List.range 9).map (fun i => absZ (b (2 * i + 1)) (b (2 * i + 2))), fresh := true }) ∧
    (isL 3 → kind = 3 → l.body.length = 3 → ∃ t, Answers (exec (.lineBaseline n) s) n l t (.ok []) ∧ leg t = { leg s with dc := some ((b 1).toInt.natAbs, (b 2).toInt.natAbs), fresh := true }) ∧
    (isL 4 → l.body.length = 1 → x.latched = true → ∃ t, Answers (exec (.lineRestart n) s) n l t (.ok []) ∧ (t.chan c).latched = false ∧ (t.chan c).stopped = false ∧ (t.chan c).restarts = [] ∧ (t.chan c).rampFrom = some s.clk.bt ∧ (k ≠ c → t.chan k = s.chan k) ∧ t.pins = s.pins) ∧
    (isL 4 → l.body.length = 1 → x.latched = false → Answers (exec (.lineRestart n) s) n l s (.err .state 0xFFFF 0)) ∧
    (isL 5 → l.body.length = 1 → x.loopOpen = true → ∃ t, Answers (exec (.lineRestore n) s) n l t (.ok []) ∧ (t.chan c).loopOpen = false ∧ (x.pins ≠ none → (t.chan c).legB.relay = false) ∧ (t.chan c).legA = x.legA ∧ (k ≠ c → t.chan k = s.chan k)) ∧
    (isL 5 → l.body.length = 1 → x.loopOpen = false → Answers (exec (.lineRestore n) s) n l s (.err .state 0xFFFF 0)) ∧
    (isL 6 → l.body.length = 4 + 4 * groups → s.sheow.round = some r → Answers (exec (.lineRound n) s) n l s (.err .busy 0xFFFF 0)) ∧
    (isL 6 → l.body.length = 4 + 4 * groups → s.sheow.round = none → s.refValid 4 = false → Answers (exec (.lineRound n) s) n l s (.err .state 0xFFFF 0)) ∧
    (isL 6 → l.body.length = 4 + 4 * groups → s.sheow.round = none → s.refValid 4 = true → s.clk.bt < new.stop → Answers (exec (.lineRound n) s) n l { s with sheow := { s.sheow with round := some new } } (.ok [BitVec.ofNat 32 new.chans.length])) ∧
    (isL 6 → l.body.length = 4 + 4 * groups → s.sheow.round = none → s.refValid 4 = true → new.stop ≤ s.clk.bt → ∃ t, Answers (exec (.lineRound n) s) n l t (.ok [BitVec.ofNat 32 new.chans.length]) ∧ t.sheow.round = none) ∧
    (isL 7 → l.body = [] → s.sheow.round = none → Answers (exec (.lineRoundStop n) s) n l s (.ok [0])) ∧
    (isL 7 → l.body = [] → s.sheow.round = some r → ∃ t, Answers (exec (.lineRoundStop n) s) n l t (.ok [BitVec.ofNat 32 (r.chans.filter fun c => (s.chan c).round != some .done).length]) ∧ t.sheow.round = none ∧ ∀ c, c ∈ r.chans → (t.chan c).round = none) ∧
    (isP 1 → l.body ≠ [] → v.pins = none → Answers (exec (.powerSupply n) s) n l s (.err .state 0 0)) ∧
    (isP 1 → l.body ≠ [] → v.pins = some q → badRec 0x40 0x48 recs = some k → Answers (exec (.powerSupply n) s) n l s (.err .range (k + 1) 0)) ∧
    (isP 1 → l.body ≠ [] → v.pins = some q → badRec 0x40 0x48 recs = none → t0.runShort = 0 → ∃ t, Answers (exec (.powerSupply n) s) n l t (.ok []) ∧ (t.supply kS).enabled = on ∧ (t.supply kS).params = setRecs v.params recs ∧ (t.supply kS).pins = some q ∧
      (on = false → v.enabled = true → (t.supply kS).state = .off ∧ (t.supply kS).duty = 0) ∧ (on = true → s.sheow.state = .run → v.state = .off → (t.supply kS).state = .mains) ∧ (on = true → s.sheow.state = .run → v.state ≠ .off → (t.supply kS).state = v.state)) ∧
    (isP 2 → l.body.length = 6 → mine (pin 1) → shared (pin 2) → shared (pin 3) → mine (pin 4) → mine (pin 5) → ∃ t, Answers (exec (.powerSupplyPins n) s) n l t (.ok []) ∧
      t.supply kS = { v with pins := some { gate := pin 1, cur := b 2, volt := b 3, relay := BitVec.ofNat 32 (pin 4), batt := pin 5 } } ∧ (k ≠ kS → t.supply k = s.supply k)) ∧
    (isP 2 → l.body.length = 6 → s.nPin ≤ pin 1 → Answers (exec (.powerSupplyPins n) s) n l s (.err .absent 1 0)) ∧
    (isP 3 → l.body.length = 1 → v.pins = some q → Answers (exec (.powerSpstat n) s) n l s (.ok [match v.state with | .off => 0 | .mains => 1 | .battery => 2 | .returning => 3, BitVec.ofInt 32 v.vBus])) ∧
    (isP 3 → l.body.length = 1 → v.pins = none → Answers (exec (.powerSpstat n) s) n l s (.err .absent 0 0))

/-- R62, R253, R331, R382, Table 11.9: the PMK letters: the registers of a mains tracker and of a user reference, written with en cleared first, the supplies on the tracker's phase having left the mains; the PTP servo and the references it drives; reference status.
The model's own choices in it: log entries 109, 110 and 169. -/
def Obligations.PostmarkLetters : Prop :=
  ∀ (s : State) (n j : Nat) (l : Letter),
    let b (i : Nat) : W32 := l.b i
    let isM (op : Nat) : Prop := s.InService n 9 op l
    let k := fld (b 0) 0 2
    let u := fld (b 0) 0 3
    let en := bitAt (b 0) 31
    let mode := fld (b 1) 26 2
    let p := fld (b 1) 16 10
    let curOk (r : Nat) : Prop := modeOk r (fld (s.ref r).cfg 26 2) = true
    let v : Servo := { en := en, ring := fld (b 0) 0 8, dom := fld (b 0) 8 8, media := bitAt (b 0) 16, pair := fld (b 0) 20 2, pairUsed := bitAt (b 0) 22, lane := fld (b 1) 0 3, queue := fld (b 1) 4 3, tmpl := fld (b 2) 0 22, tmplLen := (b 3).toNat, lastSync := s.clk.bt }
    let inR253 : Prop := fld (b 0) 17 3 = 0 ∧ fld (b 0) 23 8 = 0 ∧ bitAt (b 1) 3 = false ∧ fld (b 1) 7 25 = 0
    (s.shUp = false → exec (.pmkTracker n) s = .next s ∧ exec (.pmkUserref n) s = .next s ∧ exec (.pmkPtp n) s = .next s ∧ exec (.pmkRstat n) s = .next s) ∧
    (isM 1 → l.body.length = 6 → k < 3 → mode = 0 ∨ mode = 1 → p < s.nPin → (s.pin p).ownKind = 0 → curOk k → ∃ t, Answers (exec (.pmkTracker n) s) n l t (.ok []) ∧ (t.ref k).cfg = putBit (b 1) 31 en &&& 0x8FFFE000 ∧ (t.ref k).nom = (if mode = 1 then b 2 &&& 0xFFFF else 0) ∧ (t.ref k).bound = b 3 ∧ (∀ i, (s.supply i).phase = k → s.powThread i ≠ none → (s.supply i).state ≠ .off → (t.supply i).state = .battery) ∧
      (t.ref k).hold = b 4 &&& 0xFFFF ∧ (∀ r, r ≠ k → t.ref r = s.ref r) ∧ t.sec = s.sec) ∧
    (isM 1 → l.body.length = 6 → k = 3 → Answers (exec (.pmkTracker n) s) n l s (.err .range 0 0)) ∧
    (isM 1 → l.body.length = 6 → k < 3 → 1 < mode → Answers (exec (.pmkTracker n) s) n l s (.err .range 1 0)) ∧
    (isM 1 → l.body.length = 6 → k < 3 → mode = 0 ∨ mode = 1 → (s.nPin ≤ p → Answers (exec (.pmkTracker n) s) n l s (.err .absent 1 0)) ∧ (p < s.nPin → (s.pin p).ownKind ≠ 0 → Answers (exec (.pmkTracker n) s) n l s (.err .conflict 1 0))) ∧
    (isM 2 → l.body.length = 3 → u = 6 ∨ u = 7 → mode = 3 → p < s.nPin → (s.pin p).ownKind = 0 → curOk u → ∃ t, Answers (exec (.pmkUserref n) s) n l t (.ok []) ∧ (t.ref u).cfg = putBit (b 1) 31 en &&& 0x8FFFE000 ∧ (t.ref u).nom = b 2 &&& 0x07FFFFFF ∧ (∀ r, r ≠ u → t.ref r = s.ref r)) ∧
    (isM 2 → l.body.length = 3 → u < 6 → Answers (exec (.pmkUserref n) s) n l s (.err .range 0 0)) ∧
    (isM 2 → l.body.length = 3 → u = 6 ∨ u = 7 → mode = 3 → p < s.nPin → (s.pin p).ownKind ≠ 0 → Answers (exec (.pmkUserref n) s) n l s (.err .conflict 1 0)) ∧
    (isM 3 → l.body.length = 4 → inR253 → en = false → Answers (exec (.pmkPtp n) s) n l { s with sheow := { s.sheow with servo := v } } (.ok [])) ∧
    (isM 3 → l.body.length = 4 → inR253 → en = true → curOk 3 → curOk 4 → ∃ t, Answers (exec (.pmkPtp n) s) n l t (.ok []) ∧ t.sheow.servo = v ∧ (t.ref 3).en = true ∧ (t.ref 4).en = true ∧ (∀ r, r ≠ 3 → r ≠ 4 → t.ref r = s.ref r)) ∧
    (isM 3 → l.body.length = 4 → fld (b 0) 17 3 ≠ 0 ∨ fld (b 0) 23 8 ≠ 0 → Answers (exec (.pmkPtp n) s) n l s (.err .unsupported 0 0)) ∧
    (isM 3 → l.body.length = 4 → fld (b 0) 17 3 = 0 → fld (b 0) 23 8 = 0 → bitAt (b 1) 3 = true ∨ fld (b 1) 7 25 ≠ 0 → Answers (exec (.pmkPtp n) s) n l s (.err .unsupported 1 0)) ∧
    (isM 4 → l.body = [] → ∃ ws, Answers (exec (.pmkRstat n) s) n l s (.ok ws) ∧ ws.length = 10 ∧ ws[0]? = some s.pmkStat ∧ (j < 8 → ∃ t, exec (.rcRegisterRead .pmA (0x1010120 + 0x40 * j)) s = .next t ∧ ws[1 + j]? = some t.rdata) ∧ ws[9]? = some (BitVec.ofInt 32 s.sheow.servo.offset))

/-- R359 to R361, Tables 12.8, 12.9: plug-ins: sleep and its end, yield, windows, seals with the hart's agent identity, alarms, the end of a slice; a plug-in that stops restarts after 1 s, and for good stays stopped after the third stop within 60 s. Log entries name what the plug-in is told where the manual gives no code.
The model's own choice in it: log entry 121. -/
def Obligations.PlugIns : Prop :=
  ∀ (s : State) (p i : Nat) (us idx addr start msg : W32) (try' : Bool) (x : Plugin) (y : Seal) (w : Nat × Bool × Nat) (bt : Nat), s.plugin p = some x →
    let up : Prop := s.shUp = true ∧ x.state = .ready
    let a := addr.toNat
    let inWin : Prop := ∃ v ∈ x.windows, v.1 ≤ a ∧ a < v.1 + v.2.2
    let only (t : State) : Prop := t = { s with sheow := { s.sheow with plugins := t.sheow.plugins, plTurn := t.sheow.plTurn } } ∧ ∀ j, j ≠ p → t.plugin j = s.plugin j
    let kept (t : State) : Prop := only t ∧ t.sheow.plTurn = s.sheow.plTurn
    let ids (t : State) : List Nat := t.sheow.plugins.map (·.1)
    let turned (t : State) : Prop := t.sheow.plTurn = ((ids t).find? fun i => decide (p < i)).getD ((ids t).headD 0)
    let stops := s.clk.bt :: x.stops.filter fun t => decide (s.clk.bt < t + 60 * secBt)
    let mine := if s.straps.pmTwin then agentId .pmA else agentId .pmB
    let id (z : Nat) : Nat := if msg = 0 then (s.zone z).evac else msg.toNat
    let calls : List Instr := [.piSleep p us, .piYield p, .piWindow p idx, .piSealAcq p addr try', .piSealRel p addr, .piAlarm p start msg, .piSliceEnd p, .pluginStop p]
    (s.shUp = false → (∀ c ∈ calls, exec c s = .next s) ∧ exec (.piSleepEnd p) s = .next s ∧ exec (.pluginRestart p) s = .next s) ∧
    (x.state = .dead → (∀ c ∈ calls, exec c s = .next s) ∧ exec (.piSleepEnd p) s = .next s ∧ exec (.pluginRestart p) s = .next s) ∧
    (up → 1 ≤ us.toNat → us.toNat ≤ 1000000 → ∃ t, exec (.piSleep p us) s = .next t ∧ only t ∧ turned t ∧ t.plugin p = some { x with state := .sleeping (s.clk.bt + us.toNat * 9600) }) ∧
    (up → us.toNat = 0 ∨ 1000000 < us.toNat → ∃ t, exec (.piSleep p us) s = .next t ∧ kept t ∧ t.plugin p = some { x with a0 := 0xFFFFFFFE }) ∧
    (s.shUp = true → x.state = .sleeping bt → bt ≤ s.clk.bt → ∃ t, exec (.piSleepEnd p) s = .next t ∧ kept t ∧ t.plugin p = some { x with state := .ready, a0 := 0 }) ∧
    (x.state = .sleeping bt → s.clk.bt < bt → exec (.piSleepEnd p) s = .next s) ∧
    (up → ∃ t, exec (.piYield p) s = .next t ∧ only t ∧ turned t ∧ t.plugin p = some { x with a0 := 0 }) ∧
    (up → x.windows[idx.toNat]? = some w → w.2.2 ≠ 0 → ∃ t, exec (.piWindow p idx) s = .next t ∧ kept t ∧ t.plugin p = some { x with a0 := BitVec.ofNat 32 w.1, a1 := BitVec.ofNat 32 w.2.2 }) ∧
    (up → (∀ v, x.windows[idx.toNat]? = some v → v.2.2 = 0) → ∃ t, exec (.piWindow p idx) s = .next t ∧ kept t ∧ t.plugin p = some { x with a0 := 0xFFFFFFFE }) ∧
    (up → ¬ inWin → ∃ t, exec (.piSealAcq p addr try') s = .next t ∧ kept t ∧ t.plugin p = some { x with a0 := 0xFFFFFFFE }) ∧
    (up → inWin → s.sealAt a = none → s.seals.held.length < 1024 → ∃ t z, exec (.piSealAcq p addr try') s = .next t ∧ t.sealAt a = some z ∧ z.owner = mine ∧ z.expiry = (if s.seals.leaseAg = 0 then none else some (s.usTick + s.seals.leaseAg.toNat + 1)) ∧
      t.plugin p = some { x with state := .ready, a0 := (sealWord z).setWidth 32 } ∧ (∀ b, b ≠ a → t.sealAt b = s.sealAt b) ∧ t.deps = s.deps) ∧
    (up → inWin → s.sealAt a = some y → y.owner ≠ mine → (∃ t, exec (.piSealAcq p addr true) s = .next t ∧ kept t ∧ t.plugin p = some { x with state := .ready, a0 := 0xFFFFFFFD }) ∧
      ∃ t, exec (.piSealAcq p addr false) s = .next t ∧ only t ∧ turned t ∧ t.plugin p = some { x with state := .sealWait a }) ∧
    (s.shUp = true → x.state = .sealWait a → s.sealAt a = none → s.seals.held.length < 1024 → ∃ t z, exec (.piSealAcq p addr try') s = .next t ∧ t.sealAt a = some z ∧ z.owner = mine ∧ t.plugin p = some { x with state := .ready, a0 := (sealWord z).setWidth 32 }) ∧
    (up → s.sealAt a = some y → y.owner = mine → s.seals.waits = [] → ∃ t, exec (.piSealRel p addr) s = .next t ∧ t.sealAt a = none ∧ t.plugin p = some { x with a0 := 0 } ∧ (∀ b, b ≠ a → t.sealAt b = s.sealAt b)) ∧
    (up → (∀ z, s.sealAt a = some z → z.owner ≠ mine) → ∃ t, exec (.piSealRel p addr) s = .next t ∧ kept t ∧ t.plugin p = some { x with a0 := 0xFFFFFFFF }) ∧
    (up → 1 < start.toNat ∨ 65535 < msg.toNat → ∃ t, exec (.piAlarm p start msg) s = .next t ∧ kept t ∧ t.plugin p = some { x with a0 := 0xFFFFFFFE }) ∧
    (up → start.toNat ≤ 1 → msg.toNat ≤ 65535 → s.sheow.state ≠ .run → ∃ t, exec (.piAlarm p start msg) s = .next t ∧ kept t ∧ t.plugin p = some { x with a0 := 0xFFFFFFFF }) ∧
    (up → start = 1 → msg.toNat ≤ 65535 → s.sheow.state = .run → s.blocksFree s.mapped = false → ∃ t, exec (.piAlarm p start msg) s = .next t ∧ kept t ∧ t.plugin p = some { x with a0 := 0xFFFFFFFD }) ∧
    (up → start = 1 → msg.toNat ≤ 65535 → s.sheow.state = .run → s.blocksFree s.mapped = true → ∃ t, exec (.piAlarm p start msg) s = .next t ∧ t.plugin p = some { x with a0 := BitVec.ofNat 32 s.mapped.length } ∧ t.sheow.alarm = true ∧
      ∀ z ∈ s.mapped, ((t.zone z).slot (s.zone z).alarmSlot).route.src = .msg (id z) ∧ ((t.zone z).slot (s.zone z).alarmSlot).route.prio = 15) ∧
    (up → start = 0 → msg.toNat ≤ 65535 → s.sheow.state = .run → s.blocksFree s.taken = true → ∃ t, exec (.piAlarm p start msg) s = .next t ∧ t.plugin p = some { x with a0 := BitVec.ofNat 32 s.taken.length } ∧ t.sheow.alarm = false) ∧
    (up → ∃ t, exec (.piSliceEnd p) s = .next t ∧ only t ∧ turned t ∧ t.plugin p = some x) ∧
    (up → ∃ t, exec (.pluginStop p) s = .next t ∧ only t ∧ turned t ∧ t.plugin p = some { x with state := if 3 ≤ stops.length then .dead else .stopped s.clk.bt, stops := stops }) ∧
    (s.shUp = true → x.state = .stopped bt → bt + secBt ≤ s.clk.bt → ∃ t, exec (.pluginRestart p) s = .next t ∧ t.plugin p = some { x with state := .ready, a0 := 0, a1 := 0 } ∧ t.seals = s.seals ∧
      (i < x.image.length → t.pm.sram.read (x.base + i) = x.image[i]?.getD 0) ∧ (x.image.length ≤ i → i < x.size → t.pm.sram.read (x.base + i) = 0) ∧ (x.image.length ≤ x.size → i < x.base ∨ x.base + x.size ≤ i → t.pm.sram.read i = s.pm.sram.read i)) ∧
    (x.state = .stopped bt → s.clk.bt < bt + secBt → exec (.pluginRestart p) s = .next s)

/-- R25, R26, R28, R256 to R258, R263, R265, R269, R271, R272, R275, R276, R278, R281: the zone service. A zone thread that wakes in the cycle it waits for plays its sources, writes the ring and takes routes over; one that wakes later has missed the periods passed, writes the last sample again and counts an overrun; a bank that is off faults the thread. An ANG window that has lasted 250 ms without masking moves the boost by its slew and sends it to the zone's thread. The receive thread of a stream fills its state block, ignores a number it has had, and counts what it missed. An outbound packet is framed and posted with its launch time; a stream without valid PTP or a lane stops, and goes on at the next boundary. What a gain in decibels rounds to is a free value of the model, but for 0 dB.
The model's own choices in it: log entries 99, 119, 122 to 126, 152 and 192 to 197. -/
def Obligations.ZoneService : Prop :=
  ∀ (s : State) (zt z i id msg : Nat) (v : Slot) (y : Seal) (level : Int) (w : Nat) (at4 : Tid) (p : AudioPacket) (x : StreamIn) (rt : Tid) (o : StreamOut) (a : Nat), gridStep s = s →
    let h := s.zth zt
    let Z := s.zone z
    let c := s.mediaCycle
    let ran : Prop := s.libRuns h.tid = true ∧ h.zones = [z] ∧ s.cycleDue h.cycle = true
    let quiet : Prop := s.zoneBanks [z] = true ∧ s.xch.err = [] ∧ s.srt.reqs = []
    let per : Host.Outcome State Fault Refusal := exec (.zonePeriod zt h.cycle) s
    let par (k : Nat) : Int := Z.par k
    let window := 2400000000
    let sensed : Int := if bitAt (BitVec.ofInt 32 (par 7)) 1 then level else rmsLevel Z.angSq Z.angN
    let target := max 0 (min (40 * par 0x0A) ((sensed - 5 * par 8) * par 9))
    let slew := if Z.boostDb < target then 2 * par 0x0B else 2 * par 0x0C
    let boost := if target < Z.boostDb - slew then Z.boostDb - slew else if Z.boostDb + slew < target then Z.boostDb + slew else target
    let fresh : Zone := { Z with angBt := s.clk.bt - s.clk.bt % window, angN := 0, angSq := 0, outSq := 0 }
    let angOn : Prop := Z.angOn = true ∧ Z.declared = true ∧ (∃ r, s.role at4 = some r ∧ r.service = 4) ∧ s.libRuns at4 = true ∧ Z.angBt + window ≤ s.clk.bt
    let rx := exec (.receivePacket id p) s
    let serves : Prop := s.sin id = some x ∧ x.tid = some rt ∧ s.libRuns rt = true
    let now := s.ptpNow / 844424930131968
    let late (f : Nat) : Nat := let d := (c + 1 + 2 ^ 29 - (f + x.link) % 2 ^ 29) % 2 ^ 29; if d < 2 ^ 28 then min d p.n else 0
    let taken (f : Nat) (last : Word) (lost : Nat) : State := s.setSin id (some { x with
      block := ((p.slot, f, p.n, late f) :: x.block).take 32, arrival := c, lastSeq := some last, seqs := (p.seq :: x.seqs).take 32, packets := satInc x.packets
      lost := satAdd x.lost (lost * x.spp), late := satAdd x.late (late f), silent := false })
    let first := (p.ts - x.offset).toNat % 2 ^ 29
    let L := if o.prp then o.lane / 2 * 2 else o.lane
    let q := (s.lane L).txq o.queue
    let w32 (u : State) (b : Nat) : W32 := u.xword (b + 1) ++ u.xword b
    let cnt := w32 s q.base.toNat
    let bytes := s.frameOut o
    let launch := s.mediaBt ((o.cycle + 1) % 2 ^ 29) + o.txOff * 960
    let sends : Prop := s.refValid 3 = true ∧ ∃ l ∈ o.lanes, (s.lane l).link = true
    (s.libRuns h.tid = false ∨ h.zones = [] ∨ w ≠ h.cycle ∨ s.cycleDue h.cycle = false → exec (.zonePeriod zt w) s = .next (zoneReports s)) ∧
    (ran → s.zoneBanks [z] = false → ∃ t, per = .next t ∧ (t.thr h.tid).state = .faulted ∧ (t.thr h.tid).tfault = .xbus ∧ (t.thr h.tid).pc = (s.thr h.tid).pc) ∧
    (ran → quiet → ∃ t, per = .next t ∧ (t.zth zt).cycle = (c + 1) % 2 ^ 29 ∧ (t.zth zt).overruns = (if c = h.cycle then h.overruns else if h.overruns = 0xFFFFFFFF then h.overruns else h.overruns + 1) ∧
      (c = h.cycle → (t.zone z).ringLen ≠ 0 → s.bankHere ((t.zone z).ringBase + c % (t.zone z).ringLen) = true → t.xword ((t.zone z).ringBase + c % (t.zone z).ringLen) = (t.zone z).lastOut) ∧
      (c ≠ h.cycle → (t.zone z).lastOut = Z.lastOut) ∧ ∀ k, k ≠ zt → t.zth k = s.zth k) ∧
    (ran → quiet → c = h.cycle → s.seals.held = [] → s.seals.waits = [] → h.gen ≠ h.liveGen → ∃ t, per = .next t ∧ (t.zth zt).liveGen = h.gen ∧ (t.zone z).live = Z.params ∧ (t.zone z).liveEvac = Z.evac ∧ (∀ k, ((t.zone z).slot k).live = (Z.slot k).route) ∧ t.seals.held = []) ∧
    (ran → quiet → c = h.cycle → s.sealAt h.sealAddr = some y → y.owner ≠ h.tid.setWidth 13 → s.sheow.chans = [] → Z.liveEq = [] → Z.slots = [(i, v)] → v.live.src = .msg msg → v.live.prio < 15 → v.live.gain = 0 → v.active = true → v.g = { cur := 0x8000, start := 0x8000, target := 0x8000 } →
      Z.vol = { cur := 0x8000, start := 0x8000, target := 0x8000 } → param Z.live 2 = 0 → param Z.live 7 % 2 = 0 → -32768 ≤ s.play msg v.live.start c → s.play msg v.live.start c ≤ 32767 →
      ∃ t, per = .next t ∧ (t.zone z).lastOut = BitVec.ofInt 16 (s.play msg v.live.start c) ∧ (t.zone z).clips = Z.clips) ∧
    (ran → quiet → c = h.cycle → s.sealAt h.sealAddr = some y → y.owner ≠ h.tid.setWidth 13 → Z.liveEq = [] → Z.slots = [] → ∃ t, per = .next t ∧ (t.zone z).lastOut = 0) ∧
    (angOn → 0 ≤ slew → aboveLevel Z.outSq Z.angN (par 0x0D) = false → ∃ t, exec (.angWindow z at4 level) s = .next t ∧ t.zone z = { fresh with boostDb := boost } ∧ (∀ k, k ≠ z → t.zone k = s.zone k) ∧
      (∀ k, k ∈ s.threadsOf [z] → (t.zth k).msgs = (s.zth k).msgs ++ [(z, boostOf boost)]) ∧ boostOf 0 = 0x4000) ∧
    (angOn → aboveLevel Z.outSq Z.angN (par 0x0D) = true → exec (.angWindow z at4 level) s = .next (s.setZone z fresh)) ∧
    (¬ angOn → exec (.angWindow z at4 level) s = .next s) ∧
    (s.sin id = none ∨ (s.sin id = some x ∧ (x.tid = none ∨ (x.tid = some rt ∧ s.libRuns rt = false))) → rx = .next (zoneReports s)) ∧
    (serves → x.aaf = true → p.tv = false → rx = .next (zoneReports (s.setSin id (some { x with tvLost := satInc x.tvLost })))) ∧
    (serves → x.aaf = false → p.seq ∈ x.seqs → rx = .next (zoneReports s)) ∧
    (serves → x.aaf = false → p.seq ∉ x.seqs → (x.lastSeq = some (p.seq - 1) ∨ x.lastSeq = none → rx = .next (zoneReports (taken first p.seq 0))) ∧
      (∀ k : Nat, 0 < k → k < 32767 → x.lastSeq = some (p.seq - 1 - BitVec.ofNat 16 k) → rx = .next (zoneReports (taken first p.seq k))) ∧
      (∀ k : Nat, 0 < k → k < 32767 → x.lastSeq = some (p.seq + BitVec.ofNat 16 k) → rx = .next (zoneReports (taken first (p.seq + BitVec.ofNat 16 k) 0)))) ∧
    (∀ T : Nat, serves → x.aaf = true → p.tv = true → p.seq ∉ x.seqs → x.lastSeq = none → T % 2 ^ 32 = p.ts.toNat → now ≤ T + 2 ^ 31 → T < now + 2 ^ 31 → rx = .next (zoneReports (taken ((T * 96000 + 1000000000) / 2000000000 % 2 ^ 29) p.seq 0))) ∧
    (s.sout id = none ∨ s.serviceRuns 3 = false → exec (.outboundPacket id) s = .next s) ∧
    (s.sout id = some o → s.serviceRuns 3 = true → (¬ sends → exec (.outboundPacket id) s = .next (s.setSout id (some { o with down := true }))) ∧
      (sends → o.down = true → exec (.outboundPacket id) s = .next (s.setSout id (some { o with down := false, cycle := (c + 1) % 2 ^ 29 }))) ∧
      (sends → o.down = false → s.cycleDue ((o.cycle + o.spp) % 2 ^ 29) = false ∨ bitAt q.cfg 31 = false → exec (.outboundPacket id) s = .next s)) ∧
    (s.sout id = some o → s.serviceRuns 3 = true → sends → o.down = false → s.cycleDue ((o.cycle + o.spp) % 2 ^ 29) = true → bitAt q.cfg 31 = true → (cnt - q.cons).toNat < 2 ^ (q.cfg.toNat % 16) → s.bankOn q.base.toNat = true → s.framePlace ((bytes.length + 1) / 2) = some a → s.xch.err = [] → s.srt.reqs = [] → s.bankHere q.base.toNat = true → s.bankHere (q.base.toNat + 1) = true → a + (bytes.length + 1) / 2 ≤ q.base.toNat ∨ q.base.toNat + 2 ≤ a →
      ∃ t, exec (.outboundPacket id) s = .next t ∧ t.sout id = some { o with seq := o.seq + 1, cycle := (o.cycle + o.spp) % 2 ^ 29, packets := satInc o.packets } ∧ w32 t q.base.toNat = cnt + 1 ∧ (∀ j, j ≠ id → t.sout j = s.sout j) ∧ t.deps = s.deps ∧
        ((∀ j, j < 8 → s.bankHere (q.desc cnt.toNat + j) = true) → w32 t (q.desc cnt.toNat) = BitVec.ofNat 32 (bytes.length + (if o.prp then 2 ^ 19 else 0) + 2 ^ 21) ∧ w32 t (q.desc cnt.toNat + 2) = BitVec.ofNat 32 a ∧
          w32 t (q.desc cnt.toNat + 4) = BitVec.ofNat 32 launch ∧ w32 t (q.desc cnt.toNat + 6) = BitVec.ofNat 32 (launch / 2 ^ 32)))

/-- R287, R289 to R293, R295 to R300, R328: the line service: a switching period posts the complementary pulses of both half-bridges, within the shortest pulse; late edges of the gates are reported; a status stop, a gate mismatch and an overload stop a channel, latch it where they must, and a restart ramps it up again; the limiter, each 100 ms where the currents are there; fast windows, one for each 96 cycles, judge legs, loop and earth, slow windows of 5,000 judge drift; a window that meets a stop or a relay change judges nothing; a stuck stream suspends what needs it; a loop fed from both ends is judged for SHORT on the sum of its currents; parameters of a letter act from a later period.
The model's own choices in it: log entries 97, 127 to 133, 136, 200 to 203 and 205. -/
def Obligations.LineService : Prop :=
  ∀ (s : State) (c k mA : Nat) (j b : Nat) (t0 : Tid) (p : LinePins) (m : LineMeas) (up dn upB dnB : W64),
    let x := s.chan c
    let n := x.parN 0x20
    let cc := s.perCycle n k
    let len := perLen n k
    let same (t : State) : Prop := ∀ j, j ≠ c → t.chan j = s.chan j
    let gates := p.gates x.bridge4
    let settled : Prop := x.live = x.params ∨ x.setCyc = s.mediaCycle
    let works : Prop := settled ∧ x.tid = some t0 ∧ x.enabled = true ∧ s.libRuns t0 = true
    let low (t : State) : Prop := ∀ g ∈ gates, (t.pin g).eq = [] ∧ (t.pin g).eqX = [(s.bt64 + 9600, false)]
    let recent := x.restarts.filter fun b => decide (s.clk.bt < b + 10 * secBt)
    let stop (w : StopCause) : Host.Outcome State Fault Refusal := exec (.channelStop c w) s
    let lim := -10 * x.par 0x29
    let lim' := if x.par 0x28 < mA then max lim (x.gLim - 10) else if 10 * (mA : Int) < 9 * x.par 0x28 then min 0 (x.gLim + 1) else x.gLim
    let watch := exec (.supervisionWindow c m) s
    let fast := s.mediaCycle / 96
    let sup : Prop := gridStep s = s ∧ settled ∧ x.enabled = true ∧ s.serviceRuns 7 = true ∧ x.fastWin ≠ some fast
    let clean : Prop := m.stuck = 0 ∧ ∀ i, i < 4 → s.streamStuck c i = false
    let quiet : Prop := sup ∧ clean ∧ x.sense = [] ∧ s.windowLost c = false ∧ x.round = none
    let open' : Prop := quiet ∧ s.mediaCycle / 48000 = x.earthWin
    let A := x.legA
    let za := measZ m false
    let sv : Int × Int := (x.slowV.1 + m.v.1, x.slowV.2 + m.v.2)
    let sa : Int × Int := (x.slowA.1 + m.a.1, x.slowA.2 + m.a.2)
    let mp := (x.parN 0x22 * 65536 + 199999) / 200000
    (gridStep s = s → settled → s.lateEdges x = x.modLate → s.modulates c = none → exec (.switchingPeriod c k) s = .next s) ∧
    (gridStep s = s → settled → x.modLate < s.lateEdges x → s.modulates c = none → exec (.switchingPeriod c k) s = .next (lineRec (s.setChan c { x with modLate := s.lateEdges x }) 12 2 1 c (s.lateEdges x - x.modLate : Nat) 0)) ∧
    (gridStep s = s → settled → s.lateEdges x = x.modLate → s.modulates c = some t0 → x.pins = some p → x.bridge4 = false → p.gateA ≠ p.gateB → k < n → 4 ≤ n → n ≤ 16 → x.parN 0x22 ≤ 960 → x.lastPer ≠ some (cc, k) → (∀ g ∈ gates, (s.pin g).eq.length + (s.pin g).eqX.length ≤ 2) →
      ∃ t w, exec (.switchingPeriod c k) s = .next t ∧ mp ≤ w ∧ w + mp ≤ len ∧ (t.chan c).lastPer = some (cc, k) ∧ same t ∧
        (s.perBt cc n k ((len - w) / 2) = some up → s.perBt cc n k ((len - w) / 2 + w) = some dn → (t.pin p.gateA).eqX = (s.pin p.gateA).eqX ++ [(up, true), (dn, false)]) ∧
        (s.perBt cc n k (w / 2) = some upB → s.perBt cc n k (w / 2 + (len - w)) = some dnB → (t.pin p.gateB).eqX = (s.pin p.gateB).eqX ++ [(upB, true), (dnB, false)])) ∧
    (gridStep s = s → settled → s.lateEdges x = x.modLate → n ≤ k ∨ x.lastPer = some (cc, k) → exec (.switchingPeriod c k) s = .next s) ∧
    (works → x.pins = some p → gates.Nodup → x.stopped = false → s.chanPrio c = 15 ∨ recent.length < x.parN 0x2A → ∃ t, stop .status = .next t ∧ low t ∧ same t ∧ (t.chan c).stopped = true ∧ (t.chan c).stopAt = s.clk.bt ∧ (t.chan c).restarts = recent ∧ (t.chan c).trip = x.trip) ∧
    (works → x.stopped = false → s.chanPrio c ≠ 15 → x.parN 0x2A ≤ recent.length → ∃ t, stop .status = .next t ∧ same t ∧ (t.chan c).stopped = true ∧ (t.chan c).trip = true) ∧
    (works → x.pins = some p → (∃ g ∈ gates, bitAt (s.mmOf (g / 16)) (g % 16) = true) → x.gate = false → ∃ t, stop .gate = .next t ∧ same t ∧ (t.chan c).stopped = true ∧ (t.chan c).gate = true) ∧
    (works → (∀ q, x.pins = some q → ∀ g ∈ q.gates x.bridge4, bitAt (s.mmOf (g / 16)) (g % 16) = false) → stop .gate = .next s) ∧
    (∀ b, works → x.limDeep = some b → b + 10 * secBt ≤ s.clk.bt → s.chanPrio c ≠ 15 → x.ovlTrip = false → x.stopped = false → ∃ t, stop .overload = .next t ∧ exec (.ovlTrip c) s = .next t ∧ same t ∧ (t.chan c).stopped = true ∧ (t.chan c).ovlTrip = true ∧ (t.chan c).limDeep = none) ∧
    (settled → s.chanPrio c = 15 ∨ x.limDeep = none ∨ x.enabled = false → exec (.ovlTrip c) s = .next s ∧ stop .overload = .next s) ∧
    (works → x.stopped = true → x.latched = false → x.stopAt + x.parN 0x2B * msBt ≤ s.clk.bt → ∃ t, exec (.channelRestart c) s = .next t ∧ same t ∧ (t.chan c).stopped = false ∧ (t.chan c).restarts = s.clk.bt :: x.restarts ∧ (t.chan c).rampFrom = some s.clk.bt ∧ (t.chan c).gLim = x.gLim) ∧
    (x.live ≠ x.params → x.setCyc ≠ s.mediaCycle → s.modulates c = none → x.stopped = false → exec (.channelRestart c) s = .next (s.setChan c { x with live := x.params })) ∧
    (x.live ≠ x.params → s.modulates c = some t0 → exec (.channelRestart c) s = .next s) ∧
    (settled → x.stopped = false ∨ x.latched = true ∨ s.clk.bt < x.stopAt + x.parN 0x2B * msBt → exec (.channelRestart c) s = .next s) ∧
    (works → x.stopped = false → x.hasCurrents = true → x.limAt = none ∨ x.limAt = some b ∧ b + 100 * msBt ≤ s.clk.bt → ∃ t, exec (.limiterUpdate c mA) s = .next t ∧ same t ∧ (t.chan c).gLim = lim' ∧ (t.chan c).overload = decide (lim' < 0) ∧ (t.chan c).limAt = some s.clk.bt ∧ (t.chan c).limDeep = (if lim' = lim ∧ x.par 0x28 < mA then some (x.limDeep.getD s.clk.bt) else none) ∧ (t.chan c).stopped = false) ∧
    (settled → x.stopped = true ∨ x.enabled = false ∨ x.hasCurrents = false ∨ x.limAt = some b ∧ s.clk.bt < b + 100 * msBt → exec (.limiterUpdate c mA) s = .next s) ∧
    (gridStep s = s → settled → x.enabled = false ∨ s.serviceRuns 7 = false ∨ x.fastWin = some fast → watch = .next s) ∧
    (sup → j < 4 → m.stuck.testBit j = true ∨ s.streamStuck c j = true → x.round = none → ∃ t, watch = .next t ∧ same t ∧ (t.chan c).fastWin = some fast ∧ (j, none) ∈ (t.chan c).sense ∧ (j = 0 → (t.chan c).legA = A ∧ (t.chan c).legB = x.legB ∧ (t.chan c).loopOpen = x.loopOpen) ∧
      (j = 1 → (t.chan c).legA.cls = A.cls) ∧ (j = 2 → (t.chan c).legB.cls = x.legB.cls ∧ (t.chan c).loopOpen = x.loopOpen) ∧ (j = 3 → (t.chan c).earth = x.earth)) ∧
    (sup → clean → j < 4 → x.sense = [(j, none)] ∨ x.sense = [(j, some b)] ∧ s.clk.bt < b + secBt → ∃ t, watch = .next t ∧ ∃ a, (t.chan c).sense = [(j, some a)]) ∧
    (sup → clean → j < 4 → x.sense = [(j, some b)] → b + secBt ≤ s.clk.bt → ∃ t, watch = .next t ∧ (t.chan c).sense = []) ∧
    (sup → clean → x.sense = [] → s.windowLost c = true → ∃ t, watch = .next t ∧ same t ∧ (t.chan c).fastWin = some fast ∧ (t.chan c).legA = A ∧ (t.chan c).legB = x.legB ∧ (t.chan c).loopOpen = x.loopOpen ∧ (t.chan c).earth = x.earth ∧ (x.slowN < 4999 → (t.chan c).slowN = x.slowN + 1 ∧ (t.chan c).slowBad % 4 = 3) ∧
      (s.mediaCycle / 48000 = x.earthWin → (t.chan c).earthBad = true)) ∧
    (open' → x.slowN < 4999 → ∃ t, watch = .next t ∧ (t.chan c).slowN = x.slowN + 1 ∧ (t.chan c).slowV = sv ∧ (t.chan c).slowA = sa) ∧
    (open' → x.slowN < 4999 → x.loop = false → A.cls = none → A.failShort = 2 → x.isShort A.zb za = true → ∃ t, watch = .next t ∧ same t ∧ (t.chan c).legA.cls = some .short ∧ (x.pins ≠ none → (t.chan c).legA.relay = true)) ∧
    (open' → x.slowN < 4999 → x.loop = false → A.cls = none → A.failShort = 0 → A.failOpen = 0 → A.fresh = false → x.isShort A.zb za = true → x.isOpen A.zb za = false → ∃ t, watch = .next t ∧ same t ∧ (t.chan c).legA.cls = none ∧ (t.chan c).legA.failShort = 1) ∧
    (open' → x.slowN < 4999 → x.loop = false → A.cls = none → A.failOpen = 1 → x.isShort A.zb za = false → x.isOpen A.zb za = true → ∃ t, watch = .next t ∧ (t.chan c).legA.cls = some .opened) ∧
    (open' → x.slowN < 4999 → x.loop = false → A.cls = some .short → A.okFrom = some b → b + 5 * secBt ≤ s.clk.bt → A.failOpen = 0 → x.isShort A.zb za = false → x.shortOver A.zb za = true → x.isOpen A.zb za = false → ∃ t, watch = .next t ∧ (t.chan c).legA.cls = none) ∧
    (open' → x.slowN = 4999 → x.slowBad = 0 → x.loop = false → A.cls = none → A.fresh = false → A.zb = some b → A.failDrift = 5 → x.isShort A.zb za = false → x.isOpen A.zb za = false → beyond (x.parN 0x35) (zOf sv sa) b = true → ∃ t, watch = .next t ∧ (t.chan c).legA.cls = some .drift ∧ (t.chan c).slowN = 0 ∧ (t.chan c).slowV = (0, 0)) ∧
    (quiet → s.mediaCycle / 48000 ≠ x.earthWin → x.earthBad = false → x.earth = false → x.failEarth = 4 → m.insul < x.parN 0x33 → ∃ t, watch = .next t ∧ same t ∧ (t.chan c).earth = true ∧ (t.chan c).failEarth = 5 ∧ (t.chan c).earthWin = s.mediaCycle / 48000) ∧
    (quiet → s.mediaCycle / 48000 ≠ x.earthWin → x.earthBad = true → ∃ t, watch = .next t ∧ (t.chan c).earth = x.earth ∧ (t.chan c).failEarth = x.failEarth ∧ (t.chan c).earthWin = s.mediaCycle / 48000 ∧ (t.chan c).earthBad = false) ∧
    (∀ r, open' → x.slowN < 4999 → x.loop = true → x.loopOpen = false → A.cls = none → A.failShort = 0 → A.failOpen = 0 → x.isShort A.zb za = false → x.isOpen A.zb za = false → x.legB.rhob = some r → 100 * measRho m < x.parN 0x32 * r → x.failLoop = 1 →
      ∃ t, watch = .next t ∧ (t.chan c).loopOpen = true ∧ (x.pins ≠ none → (t.chan c).legB.relay = true) ∧ (t.chan c).legA.relay = A.relay) ∧
    (open' → x.slowN < 4999 → x.loop = true → x.loopOpen = true → A.cls = none → A.failShort = 2 → x.isShort A.zb (measSum m) = true → ∃ t, watch = .next t ∧ (t.chan c).legA.cls = some .short ∧ (t.chan c).legB.cls = x.legB.cls ∧ (t.chan c).loopOpen = true) ∧
    (open' → x.slowN < 4999 → x.loop = true → x.loopOpen = true → A.cls = none → A.failShort = 0 → x.isShort A.zb (measSum m) = false → x.isOpen A.zb (measSum m) = true → ∃ t, watch = .next t ∧ (t.chan c).legA.cls = none)

/-- R291, R301, R302, R305, R311, Table 10.5: the night round: it starts in its window with the first group, tests a channel that is idle and not stopped step by step, judging the tones on the legs whose streams are there, ends the test of a channel that stops, retries after 60 s what could not be tested, and ends at its time; a SPUR channel whose relays must follow a fault waits 50 ms for it; the records held back go out at the end of the second.
The model's own choices in it: log entries 134 to 137, 141, 204 and 206. -/
def Obligations.RoundsAndRecords : Prop :=
  ∀ (s : State) (c i nxt b : Nat) (bf : Bool) (m : LineMeas) (r : Round) (e : Rec),
    let x := s.chan c
    let group := r.groups[0]?.getD []
    let z := s.zone x.zone
    let idle : Prop := x.enabled = true ∧ x.stopped = false ∧ x.loopOpen = false ∧ z.anyActive = false ∧ z.idleFrom + r.idle * secBt ≤ s.clk.bt
    let step := exec (.roundStep c m) s
    let settled : Prop := x.live = x.params ∨ x.setCyc = s.mediaCycle
    let testing (t : State) (f : Bool) (j at' : Nat) : Prop := (t.chan c).round = some (.testing f j at')
    let same (t : State) : Prop := ∀ j, j ≠ c → t.chan j = s.chan j
    let sec := s.clk.bt / secBt
    let stays : Prop := r.active = false ∨ c ∈ r.groups[r.group]?.getD []
    let waits : Prop := r.active = false ∨ ∃ d ∈ r.groups[r.group]?.getD [], d ≠ c ∧ (s.chan d).testing = true
    (s.sheow.round = none → exec .nightRoundStart s = .next s ∧ (settled → step = .next s) ∧ exec (.roundRetry c) s = .next s ∧ exec .roundEnd s = .next s) ∧
    (s.sheow.round = some r → r.active = true ∨ s.clk.bt < r.start ∨ r.stop ≤ s.clk.bt ∨ s.serviceRuns 7 = false → exec .nightRoundStart s = .next s) ∧
    (s.sheow.round = some r → r.active = false → r.start ≤ s.clk.bt → s.clk.bt < r.stop → s.serviceRuns 7 = true → group = [c] → idle → ∃ t, exec .nightRoundStart s = .next t ∧ t.sheow.round = some { r with active := true, group := 0 } ∧ testing t false 0 (s.clk.bt + 200 * msBt) ∧ same t ∧ t.pins = s.pins) ∧
    (s.sheow.round = some r → r.active = false → r.start ≤ s.clk.bt → s.clk.bt < r.stop → s.serviceRuns 7 = true → r.groups = [[c]] → ¬ idle → ∃ t, exec .nightRoundStart s = .next t ∧ t.sheow.round = some { r with active := true, group := 0 } ∧ (t.chan c).round = some (.waiting s.clk.bt) ∧ same t) ∧
    (settled → s.sheow.round = some r → x.round = some (.testing bf i nxt) → s.clk.bt < nxt ∨ s.serviceRuns 7 = false → step = .next s) ∧
    (settled → x.round = none ∨ x.round = some .done ∨ x.round = some (.waiting b) → step = .next s) ∧
    (settled → s.sheow.round = some r → x.round = some (.testing bf i nxt) → nxt ≤ s.clk.bt → s.serviceRuns 7 = true → x.stopped = true → waits → ∃ t, step = .next t ∧ (t.chan c).round = some (.waiting s.clk.bt) ∧ (t.chan c).fade = some (i, nxt - stepBt i, s.clk.bt) ∧ same t) ∧
    (settled → s.sheow.round = some r → x.round = some (.testing bf i nxt) → nxt ≤ s.clk.bt → s.serviceRuns 7 = true → x.stopped = false →
      (i = 0 ∨ 10 ≤ i ∧ i ≤ 13 → ∃ t, step = .next t ∧ testing t bf (i + 1) (nxt + stepBt (i + 1)) ∧ same t ∧ t.pins = s.pins) ∧
      (1 ≤ i → i ≤ 9 → r.baseline = true → stays → ∃ t, step = .next t ∧ testing t bf (i + 1) (nxt + stepBt (i + 1)) ∧ same t ∧ (t.chan c).legA = x.legA ∧ (t.chan c).legB = x.legB) ∧
      (1 ≤ i → i ≤ 9 → r.baseline = false → stays → x.loop = false → x.sense = [] → x.isShort (x.legA.sweep[i - 1]?) (measZ m false) = true → x.legA.cls = none → x.legB.cls = none → x.isShort (x.legB.sweep[i - 1]?) (measZ m true) = false → x.isOpen (x.legB.sweep[i - 1]?) (measZ m true) = false → ∃ t, step = .next t ∧ (t.chan c).legA.cls = some .short ∧ (t.chan c).legB.cls = none ∧ same t) ∧
      (i = 14 → r.baseline = true → x.loop = true → ∃ t, step = .next t ∧ testing t bf 15 (nxt + 50 * msBt) ∧ (t.chan c).legA = x.legA ∧ (t.chan c).legB = x.legB ∧ same t) ∧
      (1 ≤ i → i ≤ 9 → r.baseline = false → stays → x.loop = false → (0, none) ∈ x.sense → ∃ t, step = .next t ∧ testing t bf (i + 1) (nxt + stepBt (i + 1)) ∧ same t ∧ (t.chan c).legA = x.legA ∧ (t.chan c).legB = x.legB) ∧
      (i = 14 → r.baseline = true → x.loop = false → x.relaysNormal = false → ∃ t, step = .next t ∧ testing t bf 15 (nxt + 50 * msBt) ∧ (t.chan c).legA = x.legA ∧ (t.chan c).legB = x.legB ∧ same t) ∧
      (i = 14 → r.baseline = true → waits → x.loop = false → x.relaysNormal = true → ∃ t, step = .next t ∧ (t.chan c).round = some .done ∧ (t.chan c).legA = x.legA ∧ same t) ∧
      (i = 14 → r.baseline = true → r.active = true → r.groups = [[c]] → r.group = 0 → x.loop = false → x.relaysNormal = true → ∃ t, step = .next t ∧ t.sheow.round = none ∧ (t.chan c).round = none ∧ (t.chan c).legA = x.legA ∧ same t) ∧
      (i = 15 → waits → x.loop = false → ∃ t, step = .next t ∧ (t.chan c).round = some .done ∧ (x.pins ≠ none → (t.chan c).legA.relay = x.normalRelay false ∧ (t.chan c).legB.relay = x.normalRelay true) ∧ same t) ∧
      (i = 15 → x.loop = true → bf = false → x.pins ≠ none → ∃ t, step = .next t ∧ testing t false 16 (nxt + 50 * msBt) ∧ (t.chan c).legA.relay = true ∧ (t.chan c).legB.relay = true ∧ same t) ∧
      (i = 16 → bf = false → ∃ t, step = .next t ∧ testing t true 0 (nxt + 200 * msBt) ∧ same t) ∧ (i = 16 → bf = true → waits → ∃ t, step = .next t ∧ (t.chan c).round = some .done ∧ same t)) ∧
    (s.sheow.round = some r → x.round = some (.waiting b) → b + 60 * secBt ≤ s.clk.bt → s.clk.bt < r.stop → s.serviceRuns 7 = true → (idle → ∃ t, exec (.roundRetry c) s = .next t ∧ testing t false 0 (s.clk.bt + 200 * msBt) ∧ same t) ∧
      (¬ idle → ∃ t, exec (.roundRetry c) s = .next t ∧ (t.chan c).round = some (.waiting s.clk.bt) ∧ same t)) ∧
    (x.round = some (.waiting b) → s.clk.bt < b + 60 * secBt → exec (.roundRetry c) s = .next s) ∧
    (s.sheow.round = some r → s.clk.bt < r.stop → exec .roundEnd s = .next s) ∧
    (s.sheow.round = some r → r.stop ≤ s.clk.bt → ∃ t, exec .roundEnd s = .next t ∧ t.sheow.round = none ∧ (∀ d, d ∈ r.chans → (t.chan d).round = none) ∧ ∀ d, d ∉ r.chans → t.chan d = s.chan d) ∧
    (s.shUp = false ∨ sec ≤ s.sheow.flushSec → exec .recordFlush s = .next s) ∧
    (s.shUp = true → s.sheow.flushSec < sec → s.sheow.recDropped = 0 → s.sheow.records = [] → exec .recordFlush s = .next { s with sheow := { s.sheow with records := [], recDropped := 0, sentNow := [], flushSec := sec } }) ∧
    (s.shUp = true → s.sheow.flushSec < sec → s.sheow.recDropped = 0 → s.sheow.records = [e] → s.recRoom e = false → ∃ t, exec .recordFlush s = .next t ∧ t.sheow.records = [e] ∧ t.xch = s.xch ∧ t.irq = s.irq) ∧
    (s.shUp = true → s.sheow.flushSec < sec → s.sheow.recDropped = 0 → s.sheow.records = [e] → s.recRoom e = true → e.box < 16 → e.body.length = 8 → ∃ t, exec .recordFlush s = .next t ∧ t.sheow.records = [] ∧ bitAt t.irq.p2h e.box = true ∧ (t.box e.box).prodOut = ((s.box e.box).prodOut + 12) % 504 ∧
      t.lb32 (ringAddr (p2hBase e.box) (s.box e.box).prodOut) = BitVec.ofNat 32 (e.lcls * 2 ^ 24 + 0x80 * 2 ^ 16) ∧ (∀ j, j < 8 → t.lb32 (ringAddr (p2hBase e.box) ((s.box e.box).prodOut + 4 + j)) = e.body[j]?.getD 0)) ∧
    (s.shUp = true → s.sheow.flushSec < sec → s.sheow.recDropped ≠ 0 → s.sheow.records = [] → s.sheow.dlLog.length < 512 → ∃ t d, exec .recordFlush s = .next t ∧ t.sheow.dlLog = s.sheow.dlLog ++ [d] ∧ d.e0 = BitVec.ofNat 32 (9 + 2 * 256) ∧ d.e7 = BitVec.ofNat 32 s.sheow.recDropped ∧ t.sheow.recDropped = 0 ∧ t.irq.dl = true)

/-- R306 to R309, Tables 10.6, 10.7: the supplies: the current and voltage loops, the answers to the events of the mains tracker, the change to battery in one step, and the return to mains step by step; parameters of a letter act at a later period. The loop outputs and the coil lead are free values of the model.
The model's own choices in it: log entries 130 and 138 to 140. -/
def Obligations.SupplyService : Prop :=
  ∀ (s : State) (k v0 v1 b : Nat) (iL vBus : Int) (ev : Fin 10) (t0 : Tid) (p : SupPins),
    let x := s.supply k
    let r := s.ref x.phase
    let works : Prop := x.live = x.params ∧ x.tid = some t0 ∧ x.enabled = true ∧ x.pins = some p ∧ s.libRuns t0 = true
    let idle : Prop := x.live = x.params ∧ (x.enabled = false ∨ x.tid = none ∨ x.pins = none)
    let low (v : Nat) : Prop := 100 * (v : Int) < x.par 0x45 * x.par 0x42
    let onBattery (t : State) : Prop := (t.supply k).state = .battery ∧ (t.supply k).relay = false ∧ (t.supply k).batt = true ∧ (t.supply k).duty = 0 ∧ (t.supply k).params = x.params ∧ ∀ j, j ≠ k → t.supply j = s.supply j
    let m := exec (.mainsEventResponse k ev) s
    let back := exec (.mainsReturn k v0) s
    let new := { x with vBus := (v0 : Int) }
    (idle → exec (.pfcCurrentStep k iL vBus) s = .next s ∧ exec (.pfcVoltageUpdate k vBus) s = .next s ∧ m = .next s ∧ exec (.batteryChangeover k v0 v1) s = .next s ∧ back = .next s) ∧
    (x.live ≠ x.params → x.enabled = false → exec (.pfcVoltageUpdate k vBus) s = .next (if x.setCyc = s.mediaCycle then s else s.setSupply k { x with live := x.params })) ∧
    (works → x.pfcOn = false → exec (.pfcCurrentStep k iL vBus) s = .next (s.setSupply k { x with vBus := vBus })) ∧
    (works → x.pfcOn = true → ∃ t, exec (.pfcCurrentStep k iL vBus) s = .next t ∧ (t.supply k).vBus = vBus ∧ (t.supply k).duty ≤ 65535 ∧ (t.supply k).state = x.state ∧ (t.supply k).iv = x.iv ∧ x.lastPer ≤ (t.supply k).lastPer ∧ (∀ j, j ≠ k → t.supply j = s.supply j) ∧ (∀ g, g ≠ p.gate → t.pin g = s.pin g)) ∧
    (works → r.state.valid = false → exec (.pfcVoltageUpdate k vBus) s = .next s) ∧
    (works → r.state.valid = true → ∃ t, exec (.pfcVoltageUpdate k vBus) s = .next t ∧ (0 ≤ x.limit s.clk.bt → x.sag = false → 0 ≤ (t.supply k).iv ∧ (t.supply k).iv ≤ x.limit s.clk.bt) ∧ (t.supply k).missed = false ∧ (t.supply k).sag = (x.sag && r.sagged) ∧ (t.supply k).swell = (x.swell && r.swelled) ∧ (t.supply k).vBus = vBus ∧
      (t.supply k).state = x.state ∧ t = { s with sheow := { s.sheow with supplies := t.sheow.supplies } } ∧ ∀ j, j ≠ k → t.supply j = s.supply j) ∧
    (works → x.state = .mains → (ev = 1 → m = .next (s.setSupply k { x with sag := true })) ∧ (ev = 2 → m = .next (s.setSupply k { x with swell := true })) ∧ (ev = 5 → m = .next (s.setSupply k { x with missed := true })) ∧ (ev = 0 ∨ ev = 3 ∨ ev = 4 ∨ ev = 8 ∨ ev = 9 → m = .next s) ∧
      (ev = 6 ∨ ev = 7 → ∃ t, m = .next t ∧ onBattery t)) ∧
    (works → x.state = .battery → (ev = 0 ∨ ev = 8 → m = .next (s.setSupply k { x with stableFrom := some s.clk.bt })) ∧ (ev = 6 ∨ ev = 7 → m = .next (s.setSupply k { x with stableFrom := none }))) ∧
    (works → x.state = .returning → ev = 4 ∨ ev = 6 ∨ ev = 7 → ∃ t, m = .next t ∧ onBattery t ∧ (t.supply k).retStep = 0) ∧
    (works → x.state = .mains → low v0 → low v1 → p.gate ≠ p.batt → fld p.relay 0 10 ≠ p.batt → fld p.relay 0 10 ≠ p.gate → bitAt p.relay 16 = false → (s.pin p.batt).eqFull = false → (s.pin (fld p.relay 0 10)).eqFull = false → ∃ t, exec (.batteryChangeover k v0 v1) s = .next t ∧ onBattery t ∧ (t.supply k).vBus = v1 ∧
      (t.pin p.batt).eqX = (s.pin p.batt).eqX ++ [(s.bt64 + 9600, true)] ∧ (t.pin (fld p.relay 0 10)).eqX = (s.pin (fld p.relay 0 10)).eqX ++ [(s.bt64 + 9600, false)] ∧ (t.pin p.gate).eq = []) ∧
    (works → x.state ≠ .mains ∨ ¬ low v0 ∨ ¬ low v1 → exec (.batteryChangeover k v0 v1) s = .next s) ∧
    (works → x.state = .battery → x.stableFrom = some b → b + x.parN 0x46 * secBt ≤ s.clk.bt → r.state = .locked → ∃ t, back = .next t ∧ (t.supply k).state = .returning ∧ (t.supply k).relay = true ∧ (t.supply k).retStep = 1 ∧ s.clk.bt ≤ (t.supply k).retBt ∧ (t.supply k).batt = x.batt ∧ ∀ j, j ≠ k → t.supply j = s.supply j) ∧
    (works → x.state = .battery → x.stableFrom = none → back = .next (s.setSupply k new)) ∧
    (works → x.state = .battery → x.stableFrom = some b → s.clk.bt < b + x.parN 0x46 * secBt → back = .next (s.setSupply k new)) ∧
    (works → x.state = .returning → x.retStep = 1 → (x.retBt + s.fourCycles x.phase ≤ s.clk.bt → back = .next (s.setSupply k { new with retStep := 2, retBt := s.clk.bt, iv := 0, curLoop := 0, voltLoop := 0 })) ∧ (s.clk.bt < x.retBt + s.fourCycles x.phase → back = .next (s.setSupply k new))) ∧
    (works → x.state = .returning → x.retStep = 2 → x.nearBus v0 = true → x.busOk = some b → b + secBt ≤ s.clk.bt → ∃ t, back = .next t ∧ (t.supply k).state = .mains ∧ (t.supply k).batt = false ∧ (t.supply k).retStep = 0 ∧ (t.supply k).stableFrom = none ∧ ∀ j, j ≠ k → t.supply j = s.supply j) ∧
    (works → x.state = .returning → x.retStep = 2 → x.nearBus v0 = false → back = .next (s.setSupply k { new with busOk := none })) ∧
    (works → x.state = .returning → x.retStep = 2 → x.nearBus v0 = true → x.busOk = none → back = .next (s.setSupply k { new with busOk := some s.clk.bt }))

/-- R253, R254, R378, R379, R390, R391, R395, Table 11.7: the PTP servo takes each Sync of its domain, loads, reloads or steps the time where the offset asks for it, marks the references locked after 16 offsets within 1 µs, answers with a Delay_Req from its template, and switches its path; takeovers: the letter, the answer to a stall, the end of a move; a library thread with an ECC fault restarts. The law of the rate is a free value of the model.
The model's own choices in it: log entries 120, 130, 142, 143 and 208. -/
def Obligations.TimeAndTakeovers : Prop :=
  ∀ (s : State) (n d k gm dom : Nat) (off lg : Int) (l : Letter) (m : Move) (t0 : Tid) (r : ThreadRole),
    let v := s.sheow.servo
    let f := fld (l.b 0) 0 5
    let sp := fld (l.b 0) 8 5
    let D := s.dep d
    let x := (s.dep f).xfer
    let h := s.thr t0
    let upV : Prop := v.en = true ∧ s.shUp = true
    let valid := s.refValid 3 || s.refValid 4
    let e := BitVec.ofNat 64 (x.bnd.toNat + ((x.t.toNat - x.bnd.toNat) / Nat.max 1 x.per.toNat + 1) * Nat.max 1 x.per.toNat)
    let told (t : State) (b : Bool) : Prop := ∀ i, i < 32 → bitAt t.sheow.told i = if i = d then b else bitAt s.sheow.told i
    (v.en = false ∨ s.shUp = false ∨ dom ≠ v.dom ∨ lg < -7 ∨ 0 < lg → exec (.ptpSync off gm ⟨dom, lg⟩) s = .next s) ∧
    (upV → -7 ≤ lg → lg ≤ 0 → ∃ t, exec (.ptpSync off gm ⟨v.dom, lg⟩) s = .next t ∧ t.sheow.servo.logInt = lg ∧ t.sheow.servo.lastSync = s.clk.bt ∧ t.sheow.servo.offset = off ∧ t.sheow.servo.silent = false ∧ t.sheow.servo.inRange = (if off.natAbs ≤ 1000 then v.inRange + 1 else 0) ∧
      (lg ≠ v.logInt → t.pmk.wdog.toNat = (3000 + 2 ^ (-lg).toNat - 1) / 2 ^ (-lg).toNat + 100) ∧ (lg = v.logInt → t.pmk.wdog = s.pmk.wdog) ∧ t.deps = s.deps ∧ t.pins = s.pins) ∧
    (upV → -7 ≤ lg → lg ≤ 0 → valid = false → v.loaded = false → ∃ t, exec (.ptpSync off gm ⟨v.dom, lg⟩) s = .next t ∧ t.sheow.servo.loaded = true ∧ t.pmk.setSec = BitVec.ofNat 48 (gm / 1000000000) ∧ t.pmk.setNs = BitVec.ofNat 30 (gm % 1000000000)) ∧
    (upV → -7 ≤ lg → lg ≤ 0 → valid = true → 50000 < off.natAbs → off.natAbs ≤ 1000000000 → ∃ t, exec (.ptpSync off gm ⟨v.dom, lg⟩) s = .next t ∧ t.pmk.step = BitVec.ofInt 32 (-off)) ∧
    (upV → -7 ≤ lg → lg ≤ 0 → off.natAbs ≤ 50000 → valid = true → ∃ t, exec (.ptpSync off gm ⟨v.dom, lg⟩) s = .next t ∧ t.pmk.step = s.pmk.step ∧ t.pmk.setSec = s.pmk.setSec) ∧
    (upV → -7 ≤ lg → lg ≤ 0 → valid = true → 1000000000 < off.natAbs → ∃ t, exec (.ptpSync off gm ⟨v.dom, lg⟩) s = .next t ∧ t.pmk.setSec = BitVec.ofNat 48 (gm / 1000000000) ∧ t.pmk.setNs = BitVec.ofNat 30 (gm % 1000000000) ∧ t.pmk.step = s.pmk.step) ∧
    (upV → -7 ≤ lg → lg ≤ 0 → v.tmplLen = 0 ∨ s.queueRoom v.path v.queue = false → ∃ t, exec (.ptpSync off gm ⟨v.dom, lg⟩) s = .next t ∧ t.xch.mem = s.xch.mem ∧ t.sheow.servo.reqSeq = v.reqSeq) ∧
    (upV → -7 ≤ lg → lg ≤ 0 → v.tmplLen ≠ 0 → s.queueRoom v.path v.queue = true → s.framePlace ((v.tmplLen + 1) / 2) = some k → ∃ t, exec (.ptpSync off gm ⟨v.dom, lg⟩) s = .next t ∧ t.sheow.servo.reqSeq = v.reqSeq + 1) ∧
    (upV → exec .ptpAnnounceTimeout s = .next { s with sheow := { s.sheow with servo := { v with silent := true, loaded := false, inRange := 0 } } }) ∧
    (v.en = false ∨ s.shUp = false → exec .ptpAnnounceTimeout s = .next s ∧ exec .ptpPathSwitch s = .next s) ∧
    (upV → v.pairUsed = true → v.lastSync + 2 * (secBt / 2 ^ (-v.logInt).toNat) ≤ s.clk.bt → exec .ptpPathSwitch s = .next { s with sheow := { s.sheow with servo := { v with activeB := !v.activeB, lastSync := s.clk.bt } } }) ∧
    (v.pairUsed = false ∨ s.clk.bt < v.lastSync + 2 * (secBt / 2 ^ (-v.logInt).toNat) → exec .ptpPathSwitch s = .next s) ∧
    (s.InService n 3 6 l → l.body.length = 1 → l.begun = false → s.nDep ≤ f ∨ s.nDep ≤ sp → Answers (exec (.depotTakeover n) s) n l s (.err .absent 0 0)) ∧
    (s.InService n 3 6 l → l.body.length = 1 → l.begun = false → f < s.nDep → sp < s.nDep → s.sheow.state ≠ .run ∨ bitAt s.sheow.spares sp = false ∨ s.xferOk f sp = false → Answers (exec (.depotTakeover n) s) n l s (.err .state 0xFFFF 0)) ∧
    (s.InService n 3 6 l → l.body.length = 1 → l.begun = false → s.sheow.state = .run → bitAt s.sheow.spares sp = true → s.xferOk f sp = true → ∃ t, exec (.depotTakeover n) s = .next t ∧ (t.box n).svc = some { l with begun := true } ∧ (t.dep f).xfer.phase = .code ∧ (t.dep f).xfer.spare = sp ∧ (t.dep f).xfer.guard = 96 ∧
      (x.phase = .idle → (t.dep f).xfer.per = 200000) ∧ t.sheow.moves = s.sheow.moves ++ [{ f := f, sp := sp, pairs := (s.dep f).frozen }] ∧ (∀ g, g ≠ f → t.dep g = s.dep g) ∧ (t.dep f).threads = (s.dep f).threads) ∧
    (s.InService n 3 6 l → l.body.length = 1 → l.begun = true → s.sheow.moves = [m] → m.f = f → m.sp = sp → (x.phase.active = true → exec (.depotTakeover n) s = .next s) ∧ (x.phase = .done → Answers (exec (.depotTakeover n) s) n l (finishMove s m) (.ok [lo32 e, hi32 e])) ∧
      (x.phase ≠ .done → x.phase.active = false → Answers (exec (.depotTakeover n) s) n l s (.err .state 0xFFFF 0))) ∧
    (s.shUp = false ∨ s.nDep ≤ d → exec (.takeoverResponse d) s = .next s) ∧
    (s.shUp = true → d < s.nDep → (∀ q ∈ s.sheow.moves, q.f ≠ d) → bitAt D.fstat 1 = false → bitAt D.fstat 2 = false → bitAt D.fstat 6 = false → ∃ t, exec (.takeoverResponse d) s = .next t ∧ told t false ∧ t = { s with sheow := { s.sheow with told := t.sheow.told } }) ∧
    (s.shUp = true → d < s.nDep → (∀ q ∈ s.sheow.moves, q.f ≠ d) → bitAt D.fstat 1 = true ∨ bitAt D.fstat 6 = true → bitAt s.sheow.told d = true → exec (.takeoverResponse d) s = .next s) ∧
    (s.shUp = true → d < s.nDep → (∀ q ∈ s.sheow.moves, q.f ≠ d) → bitAt D.fstat 1 = true ∨ bitAt D.fstat 6 = true → bitAt s.sheow.told d = false → s.spareFor d = some k → ∃ t, exec (.takeoverResponse d) s = .next t ∧ told t true ∧ (t.dep d).xfer.phase = .code ∧ (t.dep d).xfer.spare = k ∧ bitAt s.sheow.spares k = true ∧
      t.sheow.moves = s.sheow.moves ++ [{ f := d, sp := k, pairs := D.frozen }]) ∧
    (s.shUp = true → d < s.nDep → (∀ q ∈ s.sheow.moves, q.f ≠ d) → bitAt D.fstat 6 = true → bitAt s.sheow.told d = false → s.spareFor d = none → bitAt s.sheow.failed d = false → ∃ t, exec (.takeoverResponse d) s = .next t ∧ told t true ∧ bitAt t.irq.safe 8 = true ∧ t.deps = s.deps ∧ t.sheow.moves = s.sheow.moves) ∧
    (s.shUp = true → d < s.nDep → s.sheow.moves = [m] → m.f = d → D.xfer.phase = .done → m.pairs = 0 → m.sp < s.nDep → m.sp < 32 → d < 32 → D.fstat = 0 → ∃ t, exec (.takeoverResponse d) s = .next t ∧ t.sheow.moves = [] ∧ bitAt t.sheow.failed d = true ∧ bitAt t.sheow.spares m.sp = false ∧
      t.srt.wlim.get m.sp 0x10 = s.srt.wlim.get d 0x10 ∧ t.seals.leaseDep.get m.sp 0x3E8 = s.seals.leaseDep.get d 0x3E8) ∧
    (s.shUp = true → s.role t0 = some r → r.service ≠ 0 → h.state = .faulted → h.tfault = .eccData ∨ h.tfault = .eccCode ∨ h.tfault = .eccXch → s.depRun (depOf t0) = true → s.frozen t0 = false → s.follower t0 = false → bitAt h.slice 15 = true →
      ∃ t, exec (.threadEccRestart t0) s = .next t ∧ (t.thr t0).state = .running ∧ (t.thr t0).pc = BitVec.ofNat 16 r.entry ∧ (t.thr t0).slice = h.slice ∧ (∀ g, g ≠ depOf t0 → t.dep g = s.dep g) ∧ ∀ i, i ≠ idxOf t0 → (t.dep (depOf t0)).thr i = (s.dep (depOf t0)).thr i) ∧
    (s.shUp = false ∨ s.library t0 = false ∨ h.state ≠ .faulted ∨ (h.tfault ≠ .eccData ∧ h.tfault ≠ .eccCode ∧ h.tfault ≠ .eccXch) → exec (.threadEccRestart t0) s = .next s)

/-! ### The whole block -/

/-- R110, Tables 4.3 to 4.17: encode, then decode: every well-formed engine instruction is what the decoder reads from its word, with every operand.
The model's own choice in it: log entry 39. -/
def Obligations.EncodeThenDecode : Prop :=
  ∀ (i : Instr) (w : W32), encodeEng i = some w → i.wellFormed = true → decodeEng (engTid i) w = some i

/-- R109, R110: decode, then encode: a word the decoder accepts is the word of the instruction it reads, so that no bit of it is dropped, and the instruction is of the thread that fetched it.
The model's own choice in it: log entry 39. -/
def Obligations.DecodeThenEncode : Prop :=
  ∀ (t : Tid) (w : W32) (i : Instr), decodeEng t w = some i → encodeEng i = some w ∧ engTid i = t

/-- A step of a state with a command at the front of its queue is the command on the state with the queue's rest; a step on an empty queue is one TCLK edge, which stops on nothing (the model's choice, log entry 2). A word of the table spells no command, so it puts none in the queue. -/
def Obligations.StepRunsFront : Prop :=
  (∀ (s : State) (c : Instr) (q : List Instr), step { s with pending := c :: q } = exec c { s with pending := q }) ∧
  (∀ s : State, s.pending = [] → step s = .next (tick s)) ∧
  (∀ (s : State) (b w : Nat), s.withFetchWord b w = s)

/-- Every step keeps each addressed memory in its canonical form, and takes the front command off the queue and no other: nothing but a sender puts a command in.
The model's own choice in it: log entry 5. -/
def Obligations.StepsKeepMemoryForm : Prop :=
  ∀ s s' : State, step s = .next s' → (s.memOk = true → s'.memOk = true) ∧ s'.pending = s.pending.tail

/-- R30, R64, R226, R339, R410 and the Reset columns of the register maps (Tables 2.7, 3.7, 5.6, 6.5, 7.6, 8.6, 11.2, 13.6, 13.10, 14.5, 15.9, 15.10, 15.12, 16.5, 16.6) on an FL512: what reset leaves, as host secure reads it; every memory in canonical form and the queue empty.
The model's own choice in it: log entry 11. -/
def Obligations.ResetValues : Prop :=
  State.reset.memOk = true ∧ State.reset.pending = [] ∧ State.reset.clk.bt = 0 ∧ State.reset.rot = 0 ∧
  (∀ p ∈ ([(0x1010000, 0), (0x1010008, 0x10000), (0x101000C, 0), (0x101004C, 0x64), (0x1010100, 0x4000), (0x1010108, 0x6E550A14), (0x101010C, 0x7D0),
      (0x1100000, 0), (0x1100008, 0x1000), (0x110000C, 0x64), (0x1100010, 0), (0x1100014, 0x53), (0x1100060, 0x60), (0x1100064, 0x30D40), (0x1100070, 0x2328),
      (0x1030000, 0), (0x1030008, 7), (0x1030020, 0xFFF8F), (0x1030024, 0x2710), (0x1030080, 0x3E8), (0x1030100, 0x8000003C),
      (0x1000000, 0), (0x1000008, 7), (0x1000010, 0x100), (0x1000014, 0x3E8), (0x1000040, 0x03020100), (0x1000068, 0x2B2A2928), (0x1000080, 0x03020100), (0x1000100, 0x10),
      (0x1020004, 3), (0x102000C, 0x30), (0x1023000, 0x90700215), (0x1040100, 0x190), (0x1044000, 0), (0x104400C, 0x37), (0x1044018, 0x14), (0x104401C, 0xA)] : List (Nat × W32)),
    ∃ t, exec (.rcRegisterRead .hostS p.1) State.reset = .next t ∧ t.rdata = p.2) ∧
  (∀ p ∈ ([(0x1050300, 0), (0x1050304, 0x1FF), (0x1050310, 0), (0x1050324, 0x32), (0x1050008, 0xFFFFFFFF), (0x105000C, 0xFFFFFFFF),
      (0x106000C, 0xE), (0x1060010, 0xFFFFFFFF), (0x1060018, 0xFFFFFFFF), (0x1060028, 3), (0x106002C, 7), (0x1060034, 0xFFFFFFFF), (0x1060038, 0xFFFFFFFF),
      (0x1070008, 0x1B), (0x1080008, 7), (0x1090000, 0x464C4E44), (0x1090004, 0x20000203), (0x1090008, 0x08304001)] : List (Nat × W32)),
    ∃ t, exec (.rcRegisterRead .hostS p.1) State.reset = .next t ∧ t.rdata = p.2) ∧
  (∀ d i, i < 128 → ((State.reset.dep d).thr i).slice = BitVec.ofNat 32 (0x8200 + 4 * (i % 8)) ∧ ((State.reset.dep d).thr i).state = .idle ∧ ((State.reset.dep d).thr i).sts = 0) ∧
  (∀ h, (State.reset.hart h).pc = 0 ∧ (State.reset.hart h).priv = .m ∧ (State.reset.hart h).det = true ∧ (State.reset.hart h).dlines = [] ∧ (State.reset.hart h).imem = State.reset.pm.sram) ∧
  ∀ n, (State.reset.pin n).ownKind = 0 ∧ (State.reset.pin n).fn = .hold ∧ State.reset.depNormal n = false
end

