-- ==== Sys2Proof/Laws/Map.lean ====
section
/-! SUPPORT. Laws of sparse maps and byte memories: a read after a write, and the canonical form that every operation keeps. -/
namespace Sys2Proof.Machine

variable {α : Type}

@[simp] theorem SMap.get_put_same (m : SMap α) (k : Nat) (v d : α) : SMap.get (SMap.put m k v) k d = v := by
  induction m with
  | nil => simp [SMap.put, SMap.get]
  | cons e r ih =>
    obtain ⟨i, x⟩ := e
    simp only [SMap.put]
    split
    · simp [SMap.get]
    · split
      · simp [SMap.get]
      · rename_i h; simp [SMap.get, Ne.symm h, ih]

theorem SMap.get_put_ne (m : SMap α) {j k : Nat} (v d : α) (h : j ≠ k) : SMap.get (SMap.put m k v) j d = SMap.get m j d := by
  induction m with
  | nil => simp [SMap.put, SMap.get, Ne.symm h]
  | cons e r ih =>
    obtain ⟨i, x⟩ := e
    simp only [SMap.put]
    split
    · simp [SMap.get, Ne.symm h]
    · split
      · rename_i h'; subst h'; simp [SMap.get, Ne.symm h]
      · simp [SMap.get, ih]

theorem SMap.get_del_ne (m : SMap α) {j k : Nat} (d : α) (h : j ≠ k) : SMap.get (SMap.del m k) j d = SMap.get m j d := by
  induction m with
  | nil => rfl
  | cons e r ih =>
    obtain ⟨i, x⟩ := e
    unfold SMap.del at ih ⊢
    rw [List.filter_cons]
    by_cases hi : i = k
    · subst hi; simp [SMap.get, Ne.symm h, ih]
    · simp [hi, SMap.get, ih]

@[simp] theorem SMap.get_del_same (m : SMap α) (k : Nat) (d : α) : SMap.get (SMap.del m k) k d = d := by
  induction m with
  | nil => rfl
  | cons e r ih =>
    obtain ⟨i, x⟩ := e
    unfold SMap.del at ih ⊢
    rw [List.filter_cons]
    by_cases hi : i = k
    · simp [hi, ih]
    · simp [hi, SMap.get, ih]

/-- A write then a read of the same key. -/
@[simp] theorem SMap.get_set_same [DecidableEq α] (m : SMap α) (k : Nat) (v d : α) : SMap.get (SMap.set m k v d) k d = v := by
  unfold SMap.set
  split
  · rename_i h'; rw [SMap.get_del_same m k d, h']
  · simp

/-- A write leaves every other key alone. -/
theorem SMap.get_set_ne [DecidableEq α] (m : SMap α) {j k : Nat} (v d d' : α) (h : j ≠ k) : SMap.get (SMap.set m k v d) j d' = SMap.get m j d' := by
  unfold SMap.set
  split
  · exact SMap.get_del_ne m d' h
  · exact SMap.get_put_ne m v d' h

/-- The keys of m lie above b. -/
def SMap.above (b : Nat) (m : SMap α) : Prop := ∀ e ∈ m, b < e.1

theorem SMap.sorted_cons (i : Nat) (x : α) (r : SMap α) : SMap.sorted ((i, x) :: r) = true ↔ SMap.above i r ∧ SMap.sorted r = true := by
  induction r generalizing i x with
  | nil => simp [SMap.sorted, SMap.above]
  | cons e r ih =>
    obtain ⟨j, y⟩ := e
    rw [SMap.sorted]
    simp only [Bool.and_eq_true, decide_eq_true_eq]
    constructor
    · rintro ⟨h1, h2⟩
      refine ⟨?_, h2⟩
      intro e he
      rcases List.mem_cons.1 he with rfl | he
      · exact h1
      · exact Nat.lt_trans h1 (((ih j y).1 h2).1 e he)
    · rintro ⟨h1, h2⟩
      exact ⟨h1 (j, y) (by simp), h2⟩

theorem SMap.mem_put {m : SMap α} {k : Nat} {v : α} {e : Nat × α} (h : e ∈ SMap.put m k v) : e = (k, v) ∨ e ∈ m := by
  induction m with
  | nil => simpa [SMap.put] using h
  | cons a r ih =>
    obtain ⟨i, x⟩ := a
    simp only [SMap.put] at h
    split at h
    · simpa using h
    · split at h
      · rcases List.mem_cons.1 h with h | h
        · exact .inl h
        · exact .inr (by simp [h])
      · rcases List.mem_cons.1 h with h | h
        · exact .inr (by simp [h])
        · rcases ih h with h | h
          · exact .inl h
          · exact .inr (by simp [h])

theorem SMap.mem_del {m : SMap α} {k : Nat} {e : Nat × α} (h : e ∈ SMap.del m k) : e ∈ m := (List.mem_filter.1 h).1

/-- Dropping entries keeps the order of keys. -/
theorem SMap.sorted_filter (m : SMap α) (p : Nat × α → Bool) (h : SMap.sorted m = true) : SMap.sorted (m.filter p) = true := by
  induction m with
  | nil => rfl
  | cons a r ih =>
    obtain ⟨i, x⟩ := a
    obtain ⟨h1, h2⟩ := (SMap.sorted_cons i x r).1 h
    rw [List.filter_cons]
    split
    · exact (SMap.sorted_cons i x _).2 ⟨fun e he => h1 e (List.mem_filter.1 he).1, ih h2⟩
    · exact ih h2

theorem SMap.sorted_put (m : SMap α) (k : Nat) (v : α) (h : SMap.sorted m = true) : SMap.sorted (SMap.put m k v) = true := by
  induction m with
  | nil => rfl
  | cons a r ih =>
    obtain ⟨i, x⟩ := a
    obtain ⟨h1, h2⟩ := (SMap.sorted_cons i x r).1 h
    simp only [SMap.put]
    split
    · rename_i hk
      refine (SMap.sorted_cons k v _).2 ⟨?_, h⟩
      intro e he
      rcases List.mem_cons.1 he with rfl | he
      · exact hk
      · exact Nat.lt_trans hk (h1 e he)
    · split
      · rename_i hk; subst hk; exact (SMap.sorted_cons k v r).2 ⟨h1, h2⟩
      · refine (SMap.sorted_cons i x _).2 ⟨?_, ih h2⟩
        intro e he
        rcases SMap.mem_put he with rfl | he
        · show i < k
          omega
        · exact h1 e he

theorem SMap.sorted_del (m : SMap α) (k : Nat) (h : SMap.sorted m = true) : SMap.sorted (SMap.del m k) = true := SMap.sorted_filter m _ h

/-- A write keeps the order of keys. -/
theorem SMap.sorted_set [DecidableEq α] (m : SMap α) (k : Nat) (v d : α) (h : SMap.sorted m = true) : SMap.sorted (SMap.set m k v d) = true := by
  unfold SMap.set
  split
  · exact SMap.sorted_del m k h
  · exact SMap.sorted_put m k v h

theorem SMap.wf_iff [DecidableEq α] (m : SMap α) (d : α) : SMap.wf m d = true ↔ SMap.sorted m = true ∧ ∀ e ∈ m, e.2 ≠ d := by
  simp [SMap.wf, List.all_eq_true]

/-- A write keeps the canonical form. -/
theorem SMap.wf_set [DecidableEq α] (m : SMap α) (k : Nat) (v d : α) (h : SMap.wf m d = true) : SMap.wf (SMap.set m k v d) d = true := by
  obtain ⟨h1, h2⟩ := (SMap.wf_iff m d).1 h
  refine (SMap.wf_iff _ d).2 ⟨SMap.sorted_set m k v d h1, ?_⟩
  intro e he
  unfold SMap.set at he
  split at he
  · exact h2 e (SMap.mem_del he)
  · rename_i hv
    rcases SMap.mem_put he with rfl | he
    · exact hv
    · exact h2 e he

/-- Dropping entries keeps the canonical form. -/
theorem SMap.wf_filter [DecidableEq α] (m : SMap α) (d : α) (p : Nat × α → Bool) (h : SMap.wf m d = true) : SMap.wf (m.filter p) d = true := by
  obtain ⟨h1, h2⟩ := (SMap.wf_iff m d).1 h
  exact (SMap.wf_iff _ d).2 ⟨SMap.sorted_filter m p h1, fun e he => h2 e (List.mem_filter.1 he).1⟩

/-! ### Byte memories -/

@[simp] theorem Mem.read_write_same (m : Mem) (a : Nat) (b : BitVec 8) : Mem.read (Mem.write m a b) a = b :=
  SMap.get_set_same m a b _

theorem Mem.read_write_ne (m : Mem) {a c : Nat} (b : BitVec 8) (h : c ≠ a) : Mem.read (Mem.write m a b) c = Mem.read m c :=
  SMap.get_set_ne m b _ _ h

/-- Every memory operation keeps the canonical form. -/
theorem Mem.wf_write (m : Mem) (a : Nat) (b : BitVec 8) (h : Mem.wf m = true) : Mem.wf (Mem.write m a b) = true := SMap.wf_set m a b _ h

theorem Mem.wf_write16 (m : Mem) (a : Nat) (v : BitVec 16) (h : Mem.wf m = true) : Mem.wf (Mem.write16 m a v) = true :=
  Mem.wf_write _ _ _ (Mem.wf_write _ _ _ h)

theorem Mem.wf_write32 (m : Mem) (a : Nat) (v : BitVec 32) (h : Mem.wf m = true) : Mem.wf (Mem.write32 m a v) = true :=
  Mem.wf_write16 _ _ _ (Mem.wf_write16 _ _ _ h)

theorem Mem.wf_clear (m : Mem) (lo n : Nat) (h : Mem.wf m = true) : Mem.wf (Mem.clear m lo n) = true := SMap.wf_filter m _ _ h

theorem Mem.wf_writeBytes (m : Mem) (a : Nat) (bs : List (BitVec 8)) (h : Mem.wf m = true) : Mem.wf (Mem.writeBytes m a bs) = true := by
  induction bs generalizing m a with
  | nil => exact h
  | cons b r ih => exact ih _ _ (Mem.wf_write m a b h)

theorem Mem.wf_writeWords (m : Mem) (a : Nat) (ws : List (BitVec 16)) (h : Mem.wf m = true) : Mem.wf (Mem.writeWords m a ws) = true := by
  induction ws generalizing m a with
  | nil => exact h
  | cons w r ih => exact ih _ _ (Mem.wf_write16 m a w h)

/-- A word is its two bytes. -/
theorem word_halves (v : BitVec 16) : v.extractLsb' 8 8 ++ v.extractLsb' 0 8 = v := by
  apply BitVec.eq_of_toNat_eq
  rw [BitVec.toNat_append, ← Nat.shiftLeft_add_eq_or_of_lt (BitVec.isLt _), Nat.shiftLeft_eq]
  simp only [BitVec.extractLsb'_toNat, Nat.shiftRight_eq_div_pow]
  have := v.isLt
  omega

/-- A word reads back as it was written. -/
@[simp] theorem Mem.read16_write16_same (m : Mem) (a : Nat) (v : BitVec 16) : Mem.read16 (Mem.write16 m a v) a = v := by
  unfold Mem.read16 Mem.write16
  rw [Mem.read_write_same, Mem.read_write_ne _ _ (by omega), Mem.read_write_same]
  exact word_halves v

/-- A word write leaves the words that share no byte with it. -/
theorem Mem.read16_write16_ne (m : Mem) {a c : Nat} (v : BitVec 16) (h : c + 1 < a ∨ a + 1 < c) : Mem.read16 (Mem.write16 m a v) c = Mem.read16 m c := by
  unfold Mem.read16 Mem.write16
  rw [Mem.read_write_ne _ _ (by omega), Mem.read_write_ne _ _ (by omega), Mem.read_write_ne _ _ (by omega), Mem.read_write_ne _ _ (by omega)]

end Sys2Proof.Machine
end

