-- ==== Sys2Proof/Laws/State.lean ====
section
/-! SUPPORT. One lemma per field and per update of State that leaves it, and what an update's own field reads as. -/
namespace Sys2Proof.Machine

@[simp] theorem State.setZone_pending (s : State) (z : Nat) (x : Zone) : (s.setZone z x).pending = s.pending := rfl
@[simp] theorem State.setZone_clk (s : State) (z : Nat) (x : Zone) : (s.setZone z x).clk = s.clk := rfl
@[simp] theorem State.setZone_straps (s : State) (z : Nat) (x : Zone) : (s.setZone z x).straps = s.straps := rfl
@[simp] theorem State.setZone_inReset (s : State) (z : Nat) (x : Zone) : (s.setZone z x).inReset = s.inReset := rfl
@[simp] theorem State.setZone_dft (s : State) (z : Nat) (x : Zone) : (s.setZone z x).dft = s.dft := rfl
@[simp] theorem State.setZone_deps (s : State) (z : Nat) (x : Zone) : (s.setZone z x).deps = s.deps := rfl
@[simp] theorem State.setZone_xch (s : State) (z : Nat) (x : Zone) : (s.setZone z x).xch = s.xch := rfl
@[simp] theorem State.setZone_seals (s : State) (z : Nat) (x : Zone) : (s.setZone z x).seals = s.seals := rfl
@[simp] theorem State.setZone_srt (s : State) (z : Nat) (x : Zone) : (s.setZone z x).srt = s.srt := rfl
@[simp] theorem State.setZone_pmk (s : State) (z : Nat) (x : Zone) : (s.setZone z x).pmk = s.pmk := rfl
@[simp] theorem State.setZone_pins (s : State) (z : Nat) (x : Zone) : (s.setZone z x).pins = s.pins := rfl
@[simp] theorem State.setZone_lan (s : State) (z : Nat) (x : Zone) : (s.setZone z x).lan = s.lan := rfl
@[simp] theorem State.setZone_irq (s : State) (z : Nat) (x : Zone) : (s.setZone z x).irq = s.irq := rfl
@[simp] theorem State.setZone_pwr (s : State) (z : Nat) (x : Zone) : (s.setZone z x).pwr = s.pwr := rfl
@[simp] theorem State.setZone_sec (s : State) (z : Nat) (x : Zone) : (s.setZone z x).sec = s.sec := rfl
@[simp] theorem State.setZone_dbg (s : State) (z : Nat) (x : Zone) : (s.setZone z x).dbg = s.dbg := rfl
@[simp] theorem State.setZone_boot (s : State) (z : Nat) (x : Zone) : (s.setZone z x).boot = s.boot := rfl
@[simp] theorem State.setZone_pm (s : State) (z : Nat) (x : Zone) : (s.setZone z x).pm = s.pm := rfl
@[simp] theorem State.setZone_umsgs (s : State) (z : Nat) (x : Zone) : (s.setZone z x).umsgs = s.umsgs := rfl
@[simp] theorem State.setZone_hrsp (s : State) (z : Nat) (x : Zone) : (s.setZone z x).hrsp = s.hrsp := rfl
@[simp] theorem State.setZone_rdata (s : State) (z : Nat) (x : Zone) : (s.setZone z x).rdata = s.rdata := rfl
@[simp] theorem State.setZone_free (s : State) (z : Nat) (x : Zone) : (s.setZone z x).free = s.free := rfl
@[simp] theorem State.setZth_pending (s : State) (i : Nat) (x : ZThread) : (s.setZth i x).pending = s.pending := rfl
@[simp] theorem State.setZth_clk (s : State) (i : Nat) (x : ZThread) : (s.setZth i x).clk = s.clk := rfl
@[simp] theorem State.setZth_straps (s : State) (i : Nat) (x : ZThread) : (s.setZth i x).straps = s.straps := rfl
@[simp] theorem State.setZth_inReset (s : State) (i : Nat) (x : ZThread) : (s.setZth i x).inReset = s.inReset := rfl
@[simp] theorem State.setZth_dft (s : State) (i : Nat) (x : ZThread) : (s.setZth i x).dft = s.dft := rfl
@[simp] theorem State.setZth_deps (s : State) (i : Nat) (x : ZThread) : (s.setZth i x).deps = s.deps := rfl
@[simp] theorem State.setZth_xch (s : State) (i : Nat) (x : ZThread) : (s.setZth i x).xch = s.xch := rfl
@[simp] theorem State.setZth_seals (s : State) (i : Nat) (x : ZThread) : (s.setZth i x).seals = s.seals := rfl
@[simp] theorem State.setZth_srt (s : State) (i : Nat) (x : ZThread) : (s.setZth i x).srt = s.srt := rfl
@[simp] theorem State.setZth_pmk (s : State) (i : Nat) (x : ZThread) : (s.setZth i x).pmk = s.pmk := rfl
@[simp] theorem State.setZth_pins (s : State) (i : Nat) (x : ZThread) : (s.setZth i x).pins = s.pins := rfl
@[simp] theorem State.setZth_lan (s : State) (i : Nat) (x : ZThread) : (s.setZth i x).lan = s.lan := rfl
@[simp] theorem State.setZth_irq (s : State) (i : Nat) (x : ZThread) : (s.setZth i x).irq = s.irq := rfl
@[simp] theorem State.setZth_pwr (s : State) (i : Nat) (x : ZThread) : (s.setZth i x).pwr = s.pwr := rfl
@[simp] theorem State.setZth_sec (s : State) (i : Nat) (x : ZThread) : (s.setZth i x).sec = s.sec := rfl
@[simp] theorem State.setZth_dbg (s : State) (i : Nat) (x : ZThread) : (s.setZth i x).dbg = s.dbg := rfl
@[simp] theorem State.setZth_boot (s : State) (i : Nat) (x : ZThread) : (s.setZth i x).boot = s.boot := rfl
@[simp] theorem State.setZth_pm (s : State) (i : Nat) (x : ZThread) : (s.setZth i x).pm = s.pm := rfl
@[simp] theorem State.setZth_umsgs (s : State) (i : Nat) (x : ZThread) : (s.setZth i x).umsgs = s.umsgs := rfl
@[simp] theorem State.setZth_hrsp (s : State) (i : Nat) (x : ZThread) : (s.setZth i x).hrsp = s.hrsp := rfl
@[simp] theorem State.setZth_rdata (s : State) (i : Nat) (x : ZThread) : (s.setZth i x).rdata = s.rdata := rfl
@[simp] theorem State.setZth_free (s : State) (i : Nat) (x : ZThread) : (s.setZth i x).free = s.free := rfl
@[simp] theorem State.setLane_pending (s : State) (l : Nat) (x : Lane) : (s.setLane l x).pending = s.pending := rfl
@[simp] theorem State.setLane_clk (s : State) (l : Nat) (x : Lane) : (s.setLane l x).clk = s.clk := rfl
@[simp] theorem State.setLane_straps (s : State) (l : Nat) (x : Lane) : (s.setLane l x).straps = s.straps := rfl
@[simp] theorem State.setLane_inReset (s : State) (l : Nat) (x : Lane) : (s.setLane l x).inReset = s.inReset := rfl
@[simp] theorem State.setLane_dft (s : State) (l : Nat) (x : Lane) : (s.setLane l x).dft = s.dft := rfl
@[simp] theorem State.setLane_deps (s : State) (l : Nat) (x : Lane) : (s.setLane l x).deps = s.deps := rfl
@[simp] theorem State.setLane_xch (s : State) (l : Nat) (x : Lane) : (s.setLane l x).xch = s.xch := rfl
@[simp] theorem State.setLane_seals (s : State) (l : Nat) (x : Lane) : (s.setLane l x).seals = s.seals := rfl
@[simp] theorem State.setLane_srt (s : State) (l : Nat) (x : Lane) : (s.setLane l x).srt = s.srt := rfl
@[simp] theorem State.setLane_pmk (s : State) (l : Nat) (x : Lane) : (s.setLane l x).pmk = s.pmk := rfl
@[simp] theorem State.setLane_pins (s : State) (l : Nat) (x : Lane) : (s.setLane l x).pins = s.pins := rfl
@[simp] theorem State.setLane_irq (s : State) (l : Nat) (x : Lane) : (s.setLane l x).irq = s.irq := rfl
@[simp] theorem State.setLane_pwr (s : State) (l : Nat) (x : Lane) : (s.setLane l x).pwr = s.pwr := rfl
@[simp] theorem State.setLane_sec (s : State) (l : Nat) (x : Lane) : (s.setLane l x).sec = s.sec := rfl
@[simp] theorem State.setLane_dbg (s : State) (l : Nat) (x : Lane) : (s.setLane l x).dbg = s.dbg := rfl
@[simp] theorem State.setLane_boot (s : State) (l : Nat) (x : Lane) : (s.setLane l x).boot = s.boot := rfl
@[simp] theorem State.setLane_pm (s : State) (l : Nat) (x : Lane) : (s.setLane l x).pm = s.pm := rfl
@[simp] theorem State.setLane_sheow (s : State) (l : Nat) (x : Lane) : (s.setLane l x).sheow = s.sheow := rfl
@[simp] theorem State.setLane_umsgs (s : State) (l : Nat) (x : Lane) : (s.setLane l x).umsgs = s.umsgs := rfl
@[simp] theorem State.setLane_hrsp (s : State) (l : Nat) (x : Lane) : (s.setLane l x).hrsp = s.hrsp := rfl
@[simp] theorem State.setLane_rdata (s : State) (l : Nat) (x : Lane) : (s.setLane l x).rdata = s.rdata := rfl
@[simp] theorem State.setLane_free (s : State) (l : Nat) (x : Lane) : (s.setLane l x).free = s.free := rfl
@[simp] theorem State.setFring_pending (s : State) (k : Nat) (r : FRing) : (s.setFring k r).pending = s.pending := rfl
@[simp] theorem State.setFring_clk (s : State) (k : Nat) (r : FRing) : (s.setFring k r).clk = s.clk := rfl
@[simp] theorem State.setFring_straps (s : State) (k : Nat) (r : FRing) : (s.setFring k r).straps = s.straps := rfl
@[simp] theorem State.setFring_inReset (s : State) (k : Nat) (r : FRing) : (s.setFring k r).inReset = s.inReset := rfl
@[simp] theorem State.setFring_dft (s : State) (k : Nat) (r : FRing) : (s.setFring k r).dft = s.dft := rfl
@[simp] theorem State.setFring_deps (s : State) (k : Nat) (r : FRing) : (s.setFring k r).deps = s.deps := rfl
@[simp] theorem State.setFring_xch (s : State) (k : Nat) (r : FRing) : (s.setFring k r).xch = s.xch := rfl
@[simp] theorem State.setFring_seals (s : State) (k : Nat) (r : FRing) : (s.setFring k r).seals = s.seals := rfl
@[simp] theorem State.setFring_srt (s : State) (k : Nat) (r : FRing) : (s.setFring k r).srt = s.srt := rfl
@[simp] theorem State.setFring_pmk (s : State) (k : Nat) (r : FRing) : (s.setFring k r).pmk = s.pmk := rfl
@[simp] theorem State.setFring_pins (s : State) (k : Nat) (r : FRing) : (s.setFring k r).pins = s.pins := rfl
@[simp] theorem State.setFring_irq (s : State) (k : Nat) (r : FRing) : (s.setFring k r).irq = s.irq := rfl
@[simp] theorem State.setFring_pwr (s : State) (k : Nat) (r : FRing) : (s.setFring k r).pwr = s.pwr := rfl
@[simp] theorem State.setFring_sec (s : State) (k : Nat) (r : FRing) : (s.setFring k r).sec = s.sec := rfl
@[simp] theorem State.setFring_dbg (s : State) (k : Nat) (r : FRing) : (s.setFring k r).dbg = s.dbg := rfl
@[simp] theorem State.setFring_boot (s : State) (k : Nat) (r : FRing) : (s.setFring k r).boot = s.boot := rfl
@[simp] theorem State.setFring_pm (s : State) (k : Nat) (r : FRing) : (s.setFring k r).pm = s.pm := rfl
@[simp] theorem State.setFring_sheow (s : State) (k : Nat) (r : FRing) : (s.setFring k r).sheow = s.sheow := rfl
@[simp] theorem State.setFring_umsgs (s : State) (k : Nat) (r : FRing) : (s.setFring k r).umsgs = s.umsgs := rfl
@[simp] theorem State.setFring_hrsp (s : State) (k : Nat) (r : FRing) : (s.setFring k r).hrsp = s.hrsp := rfl
@[simp] theorem State.setFring_rdata (s : State) (k : Nat) (r : FRing) : (s.setFring k r).rdata = s.rdata := rfl
@[simp] theorem State.setFring_free (s : State) (k : Nat) (r : FRing) : (s.setFring k r).free = s.free := rfl
@[simp] theorem State.setPrp_pending (s : State) (p : Nat) (x : Prp) : (s.setPrp p x).pending = s.pending := rfl
@[simp] theorem State.setPrp_clk (s : State) (p : Nat) (x : Prp) : (s.setPrp p x).clk = s.clk := rfl
@[simp] theorem State.setPrp_straps (s : State) (p : Nat) (x : Prp) : (s.setPrp p x).straps = s.straps := rfl
@[simp] theorem State.setPrp_inReset (s : State) (p : Nat) (x : Prp) : (s.setPrp p x).inReset = s.inReset := rfl
@[simp] theorem State.setPrp_dft (s : State) (p : Nat) (x : Prp) : (s.setPrp p x).dft = s.dft := rfl
@[simp] theorem State.setPrp_deps (s : State) (p : Nat) (x : Prp) : (s.setPrp p x).deps = s.deps := rfl
@[simp] theorem State.setPrp_xch (s : State) (p : Nat) (x : Prp) : (s.setPrp p x).xch = s.xch := rfl
@[simp] theorem State.setPrp_seals (s : State) (p : Nat) (x : Prp) : (s.setPrp p x).seals = s.seals := rfl
@[simp] theorem State.setPrp_srt (s : State) (p : Nat) (x : Prp) : (s.setPrp p x).srt = s.srt := rfl
@[simp] theorem State.setPrp_pmk (s : State) (p : Nat) (x : Prp) : (s.setPrp p x).pmk = s.pmk := rfl
@[simp] theorem State.setPrp_pins (s : State) (p : Nat) (x : Prp) : (s.setPrp p x).pins = s.pins := rfl
@[simp] theorem State.setPrp_irq (s : State) (p : Nat) (x : Prp) : (s.setPrp p x).irq = s.irq := rfl
@[simp] theorem State.setPrp_pwr (s : State) (p : Nat) (x : Prp) : (s.setPrp p x).pwr = s.pwr := rfl
@[simp] theorem State.setPrp_sec (s : State) (p : Nat) (x : Prp) : (s.setPrp p x).sec = s.sec := rfl
@[simp] theorem State.setPrp_dbg (s : State) (p : Nat) (x : Prp) : (s.setPrp p x).dbg = s.dbg := rfl
@[simp] theorem State.setPrp_boot (s : State) (p : Nat) (x : Prp) : (s.setPrp p x).boot = s.boot := rfl
@[simp] theorem State.setPrp_pm (s : State) (p : Nat) (x : Prp) : (s.setPrp p x).pm = s.pm := rfl
@[simp] theorem State.setPrp_sheow (s : State) (p : Nat) (x : Prp) : (s.setPrp p x).sheow = s.sheow := rfl
@[simp] theorem State.setPrp_umsgs (s : State) (p : Nat) (x : Prp) : (s.setPrp p x).umsgs = s.umsgs := rfl
@[simp] theorem State.setPrp_hrsp (s : State) (p : Nat) (x : Prp) : (s.setPrp p x).hrsp = s.hrsp := rfl
@[simp] theorem State.setPrp_rdata (s : State) (p : Nat) (x : Prp) : (s.setPrp p x).rdata = s.rdata := rfl
@[simp] theorem State.setPrp_free (s : State) (p : Nat) (x : Prp) : (s.setPrp p x).free = s.free := rfl
@[simp] theorem State.setDep_pending (s : State) (d : Nat) (D : Depot) : (s.setDep d D).pending = s.pending := rfl
@[simp] theorem State.setDep_clk (s : State) (d : Nat) (D : Depot) : (s.setDep d D).clk = s.clk := rfl
@[simp] theorem State.setDep_straps (s : State) (d : Nat) (D : Depot) : (s.setDep d D).straps = s.straps := rfl
@[simp] theorem State.setDep_inReset (s : State) (d : Nat) (D : Depot) : (s.setDep d D).inReset = s.inReset := rfl
@[simp] theorem State.setDep_dft (s : State) (d : Nat) (D : Depot) : (s.setDep d D).dft = s.dft := rfl
@[simp] theorem State.setDep_xch (s : State) (d : Nat) (D : Depot) : (s.setDep d D).xch = s.xch := rfl
@[simp] theorem State.setDep_seals (s : State) (d : Nat) (D : Depot) : (s.setDep d D).seals = s.seals := rfl
@[simp] theorem State.setDep_srt (s : State) (d : Nat) (D : Depot) : (s.setDep d D).srt = s.srt := rfl
@[simp] theorem State.setDep_pmk (s : State) (d : Nat) (D : Depot) : (s.setDep d D).pmk = s.pmk := rfl
@[simp] theorem State.setDep_pins (s : State) (d : Nat) (D : Depot) : (s.setDep d D).pins = s.pins := rfl
@[simp] theorem State.setDep_lan (s : State) (d : Nat) (D : Depot) : (s.setDep d D).lan = s.lan := rfl
@[simp] theorem State.setDep_irq (s : State) (d : Nat) (D : Depot) : (s.setDep d D).irq = s.irq := rfl
@[simp] theorem State.setDep_pwr (s : State) (d : Nat) (D : Depot) : (s.setDep d D).pwr = s.pwr := rfl
@[simp] theorem State.setDep_sec (s : State) (d : Nat) (D : Depot) : (s.setDep d D).sec = s.sec := rfl
@[simp] theorem State.setDep_dbg (s : State) (d : Nat) (D : Depot) : (s.setDep d D).dbg = s.dbg := rfl
@[simp] theorem State.setDep_boot (s : State) (d : Nat) (D : Depot) : (s.setDep d D).boot = s.boot := rfl
@[simp] theorem State.setDep_pm (s : State) (d : Nat) (D : Depot) : (s.setDep d D).pm = s.pm := rfl
@[simp] theorem State.setDep_sheow (s : State) (d : Nat) (D : Depot) : (s.setDep d D).sheow = s.sheow := rfl
@[simp] theorem State.setDep_umsgs (s : State) (d : Nat) (D : Depot) : (s.setDep d D).umsgs = s.umsgs := rfl
@[simp] theorem State.setDep_hrsp (s : State) (d : Nat) (D : Depot) : (s.setDep d D).hrsp = s.hrsp := rfl
@[simp] theorem State.setDep_rdata (s : State) (d : Nat) (D : Depot) : (s.setDep d D).rdata = s.rdata := rfl
@[simp] theorem State.setDep_free (s : State) (d : Nat) (D : Depot) : (s.setDep d D).free = s.free := rfl
@[simp] theorem State.setThr_pending (s : State) (t : Tid) (h : Thread) : (s.setThr t h).pending = s.pending := rfl
@[simp] theorem State.setThr_clk (s : State) (t : Tid) (h : Thread) : (s.setThr t h).clk = s.clk := rfl
@[simp] theorem State.setThr_straps (s : State) (t : Tid) (h : Thread) : (s.setThr t h).straps = s.straps := rfl
@[simp] theorem State.setThr_inReset (s : State) (t : Tid) (h : Thread) : (s.setThr t h).inReset = s.inReset := rfl
@[simp] theorem State.setThr_dft (s : State) (t : Tid) (h : Thread) : (s.setThr t h).dft = s.dft := rfl
@[simp] theorem State.setThr_xch (s : State) (t : Tid) (h : Thread) : (s.setThr t h).xch = s.xch := rfl
@[simp] theorem State.setThr_seals (s : State) (t : Tid) (h : Thread) : (s.setThr t h).seals = s.seals := rfl
@[simp] theorem State.setThr_srt (s : State) (t : Tid) (h : Thread) : (s.setThr t h).srt = s.srt := rfl
@[simp] theorem State.setThr_pmk (s : State) (t : Tid) (h : Thread) : (s.setThr t h).pmk = s.pmk := rfl
@[simp] theorem State.setThr_pins (s : State) (t : Tid) (h : Thread) : (s.setThr t h).pins = s.pins := rfl
@[simp] theorem State.setThr_lan (s : State) (t : Tid) (h : Thread) : (s.setThr t h).lan = s.lan := rfl
@[simp] theorem State.setThr_irq (s : State) (t : Tid) (h : Thread) : (s.setThr t h).irq = s.irq := rfl
@[simp] theorem State.setThr_pwr (s : State) (t : Tid) (h : Thread) : (s.setThr t h).pwr = s.pwr := rfl
@[simp] theorem State.setThr_sec (s : State) (t : Tid) (h : Thread) : (s.setThr t h).sec = s.sec := rfl
@[simp] theorem State.setThr_dbg (s : State) (t : Tid) (h : Thread) : (s.setThr t h).dbg = s.dbg := rfl
@[simp] theorem State.setThr_boot (s : State) (t : Tid) (h : Thread) : (s.setThr t h).boot = s.boot := rfl
@[simp] theorem State.setThr_pm (s : State) (t : Tid) (h : Thread) : (s.setThr t h).pm = s.pm := rfl
@[simp] theorem State.setThr_sheow (s : State) (t : Tid) (h : Thread) : (s.setThr t h).sheow = s.sheow := rfl
@[simp] theorem State.setThr_umsgs (s : State) (t : Tid) (h : Thread) : (s.setThr t h).umsgs = s.umsgs := rfl
@[simp] theorem State.setThr_hrsp (s : State) (t : Tid) (h : Thread) : (s.setThr t h).hrsp = s.hrsp := rfl
@[simp] theorem State.setThr_rdata (s : State) (t : Tid) (h : Thread) : (s.setThr t h).rdata = s.rdata := rfl
@[simp] theorem State.setThr_free (s : State) (t : Tid) (h : Thread) : (s.setThr t h).free = s.free := rfl
@[simp] theorem State.setHart_pending (s : State) (h : Nat) (x : Hart) : (s.setHart h x).pending = s.pending := rfl
@[simp] theorem State.setHart_clk (s : State) (h : Nat) (x : Hart) : (s.setHart h x).clk = s.clk := rfl
@[simp] theorem State.setHart_straps (s : State) (h : Nat) (x : Hart) : (s.setHart h x).straps = s.straps := rfl
@[simp] theorem State.setHart_inReset (s : State) (h : Nat) (x : Hart) : (s.setHart h x).inReset = s.inReset := rfl
@[simp] theorem State.setHart_dft (s : State) (h : Nat) (x : Hart) : (s.setHart h x).dft = s.dft := rfl
@[simp] theorem State.setHart_deps (s : State) (h : Nat) (x : Hart) : (s.setHart h x).deps = s.deps := rfl
@[simp] theorem State.setHart_xch (s : State) (h : Nat) (x : Hart) : (s.setHart h x).xch = s.xch := rfl
@[simp] theorem State.setHart_seals (s : State) (h : Nat) (x : Hart) : (s.setHart h x).seals = s.seals := rfl
@[simp] theorem State.setHart_srt (s : State) (h : Nat) (x : Hart) : (s.setHart h x).srt = s.srt := rfl
@[simp] theorem State.setHart_pmk (s : State) (h : Nat) (x : Hart) : (s.setHart h x).pmk = s.pmk := rfl
@[simp] theorem State.setHart_pins (s : State) (h : Nat) (x : Hart) : (s.setHart h x).pins = s.pins := rfl
@[simp] theorem State.setHart_lan (s : State) (h : Nat) (x : Hart) : (s.setHart h x).lan = s.lan := rfl
@[simp] theorem State.setHart_irq (s : State) (h : Nat) (x : Hart) : (s.setHart h x).irq = s.irq := rfl
@[simp] theorem State.setHart_pwr (s : State) (h : Nat) (x : Hart) : (s.setHart h x).pwr = s.pwr := rfl
@[simp] theorem State.setHart_sec (s : State) (h : Nat) (x : Hart) : (s.setHart h x).sec = s.sec := rfl
@[simp] theorem State.setHart_dbg (s : State) (h : Nat) (x : Hart) : (s.setHart h x).dbg = s.dbg := rfl
@[simp] theorem State.setHart_boot (s : State) (h : Nat) (x : Hart) : (s.setHart h x).boot = s.boot := rfl
@[simp] theorem State.setHart_sheow (s : State) (h : Nat) (x : Hart) : (s.setHart h x).sheow = s.sheow := rfl
@[simp] theorem State.setHart_umsgs (s : State) (h : Nat) (x : Hart) : (s.setHart h x).umsgs = s.umsgs := rfl
@[simp] theorem State.setHart_hrsp (s : State) (h : Nat) (x : Hart) : (s.setHart h x).hrsp = s.hrsp := rfl
@[simp] theorem State.setHart_rdata (s : State) (h : Nat) (x : Hart) : (s.setHart h x).rdata = s.rdata := rfl
@[simp] theorem State.setHart_free (s : State) (h : Nat) (x : Hart) : (s.setHart h x).free = s.free := rfl
@[simp] theorem State.depEvt_pending (s : State) (d b : Nat) : (s.depEvt d b).pending = s.pending := rfl
@[simp] theorem State.depEvt_clk (s : State) (d b : Nat) : (s.depEvt d b).clk = s.clk := rfl
@[simp] theorem State.depEvt_straps (s : State) (d b : Nat) : (s.depEvt d b).straps = s.straps := rfl
@[simp] theorem State.depEvt_inReset (s : State) (d b : Nat) : (s.depEvt d b).inReset = s.inReset := rfl
@[simp] theorem State.depEvt_dft (s : State) (d b : Nat) : (s.depEvt d b).dft = s.dft := rfl
@[simp] theorem State.depEvt_xch (s : State) (d b : Nat) : (s.depEvt d b).xch = s.xch := rfl
@[simp] theorem State.depEvt_seals (s : State) (d b : Nat) : (s.depEvt d b).seals = s.seals := rfl
@[simp] theorem State.depEvt_srt (s : State) (d b : Nat) : (s.depEvt d b).srt = s.srt := rfl
@[simp] theorem State.depEvt_pmk (s : State) (d b : Nat) : (s.depEvt d b).pmk = s.pmk := rfl
@[simp] theorem State.depEvt_pins (s : State) (d b : Nat) : (s.depEvt d b).pins = s.pins := rfl
@[simp] theorem State.depEvt_lan (s : State) (d b : Nat) : (s.depEvt d b).lan = s.lan := rfl
@[simp] theorem State.depEvt_irq (s : State) (d b : Nat) : (s.depEvt d b).irq = s.irq := rfl
@[simp] theorem State.depEvt_pwr (s : State) (d b : Nat) : (s.depEvt d b).pwr = s.pwr := rfl
@[simp] theorem State.depEvt_sec (s : State) (d b : Nat) : (s.depEvt d b).sec = s.sec := rfl
@[simp] theorem State.depEvt_dbg (s : State) (d b : Nat) : (s.depEvt d b).dbg = s.dbg := rfl
@[simp] theorem State.depEvt_boot (s : State) (d b : Nat) : (s.depEvt d b).boot = s.boot := rfl
@[simp] theorem State.depEvt_pm (s : State) (d b : Nat) : (s.depEvt d b).pm = s.pm := rfl
@[simp] theorem State.depEvt_sheow (s : State) (d b : Nat) : (s.depEvt d b).sheow = s.sheow := rfl
@[simp] theorem State.depEvt_umsgs (s : State) (d b : Nat) : (s.depEvt d b).umsgs = s.umsgs := rfl
@[simp] theorem State.depEvt_hrsp (s : State) (d b : Nat) : (s.depEvt d b).hrsp = s.hrsp := rfl
@[simp] theorem State.depEvt_rdata (s : State) (d b : Nat) : (s.depEvt d b).rdata = s.rdata := rfl
@[simp] theorem State.depEvt_free (s : State) (d b : Nat) : (s.depEvt d b).free = s.free := rfl
@[simp] theorem State.cmdErr_pending (s : State) (d : Nat) : (s.cmdErr d).pending = s.pending := rfl
@[simp] theorem State.cmdErr_clk (s : State) (d : Nat) : (s.cmdErr d).clk = s.clk := rfl
@[simp] theorem State.cmdErr_straps (s : State) (d : Nat) : (s.cmdErr d).straps = s.straps := rfl
@[simp] theorem State.cmdErr_inReset (s : State) (d : Nat) : (s.cmdErr d).inReset = s.inReset := rfl
@[simp] theorem State.cmdErr_dft (s : State) (d : Nat) : (s.cmdErr d).dft = s.dft := rfl
@[simp] theorem State.cmdErr_xch (s : State) (d : Nat) : (s.cmdErr d).xch = s.xch := rfl
@[simp] theorem State.cmdErr_seals (s : State) (d : Nat) : (s.cmdErr d).seals = s.seals := rfl
@[simp] theorem State.cmdErr_srt (s : State) (d : Nat) : (s.cmdErr d).srt = s.srt := rfl
@[simp] theorem State.cmdErr_pmk (s : State) (d : Nat) : (s.cmdErr d).pmk = s.pmk := rfl
@[simp] theorem State.cmdErr_pins (s : State) (d : Nat) : (s.cmdErr d).pins = s.pins := rfl
@[simp] theorem State.cmdErr_lan (s : State) (d : Nat) : (s.cmdErr d).lan = s.lan := rfl
@[simp] theorem State.cmdErr_irq (s : State) (d : Nat) : (s.cmdErr d).irq = s.irq := rfl
@[simp] theorem State.cmdErr_pwr (s : State) (d : Nat) : (s.cmdErr d).pwr = s.pwr := rfl
@[simp] theorem State.cmdErr_sec (s : State) (d : Nat) : (s.cmdErr d).sec = s.sec := rfl
@[simp] theorem State.cmdErr_dbg (s : State) (d : Nat) : (s.cmdErr d).dbg = s.dbg := rfl
@[simp] theorem State.cmdErr_boot (s : State) (d : Nat) : (s.cmdErr d).boot = s.boot := rfl
@[simp] theorem State.cmdErr_pm (s : State) (d : Nat) : (s.cmdErr d).pm = s.pm := rfl
@[simp] theorem State.cmdErr_sheow (s : State) (d : Nat) : (s.cmdErr d).sheow = s.sheow := rfl
@[simp] theorem State.cmdErr_umsgs (s : State) (d : Nat) : (s.cmdErr d).umsgs = s.umsgs := rfl
@[simp] theorem State.cmdErr_hrsp (s : State) (d : Nat) : (s.cmdErr d).hrsp = s.hrsp := rfl
@[simp] theorem State.cmdErr_rdata (s : State) (d : Nat) : (s.cmdErr d).rdata = s.rdata := rfl
@[simp] theorem State.cmdErr_free (s : State) (d : Nat) : (s.cmdErr d).free = s.free := rfl
@[simp] theorem State.srtEvt_pending (s : State) (b : Nat) : (s.srtEvt b).pending = s.pending := rfl
@[simp] theorem State.srtEvt_clk (s : State) (b : Nat) : (s.srtEvt b).clk = s.clk := rfl
@[simp] theorem State.srtEvt_straps (s : State) (b : Nat) : (s.srtEvt b).straps = s.straps := rfl
@[simp] theorem State.srtEvt_inReset (s : State) (b : Nat) : (s.srtEvt b).inReset = s.inReset := rfl
@[simp] theorem State.srtEvt_dft (s : State) (b : Nat) : (s.srtEvt b).dft = s.dft := rfl
@[simp] theorem State.srtEvt_deps (s : State) (b : Nat) : (s.srtEvt b).deps = s.deps := rfl
@[simp] theorem State.srtEvt_xch (s : State) (b : Nat) : (s.srtEvt b).xch = s.xch := rfl
@[simp] theorem State.srtEvt_seals (s : State) (b : Nat) : (s.srtEvt b).seals = s.seals := rfl
@[simp] theorem State.srtEvt_pmk (s : State) (b : Nat) : (s.srtEvt b).pmk = s.pmk := rfl
@[simp] theorem State.srtEvt_pins (s : State) (b : Nat) : (s.srtEvt b).pins = s.pins := rfl
@[simp] theorem State.srtEvt_lan (s : State) (b : Nat) : (s.srtEvt b).lan = s.lan := rfl
@[simp] theorem State.srtEvt_irq (s : State) (b : Nat) : (s.srtEvt b).irq = s.irq := rfl
@[simp] theorem State.srtEvt_pwr (s : State) (b : Nat) : (s.srtEvt b).pwr = s.pwr := rfl
@[simp] theorem State.srtEvt_sec (s : State) (b : Nat) : (s.srtEvt b).sec = s.sec := rfl
@[simp] theorem State.srtEvt_dbg (s : State) (b : Nat) : (s.srtEvt b).dbg = s.dbg := rfl
@[simp] theorem State.srtEvt_boot (s : State) (b : Nat) : (s.srtEvt b).boot = s.boot := rfl
@[simp] theorem State.srtEvt_pm (s : State) (b : Nat) : (s.srtEvt b).pm = s.pm := rfl
@[simp] theorem State.srtEvt_sheow (s : State) (b : Nat) : (s.srtEvt b).sheow = s.sheow := rfl
@[simp] theorem State.srtEvt_umsgs (s : State) (b : Nat) : (s.srtEvt b).umsgs = s.umsgs := rfl
@[simp] theorem State.srtEvt_hrsp (s : State) (b : Nat) : (s.srtEvt b).hrsp = s.hrsp := rfl
@[simp] theorem State.srtEvt_rdata (s : State) (b : Nat) : (s.srtEvt b).rdata = s.rdata := rfl
@[simp] theorem State.srtEvt_free (s : State) (b : Nat) : (s.srtEvt b).free = s.free := rfl
@[simp] theorem State.sealEvt_pending (s : State) (b : Nat) : (s.sealEvt b).pending = s.pending := rfl
@[simp] theorem State.sealEvt_clk (s : State) (b : Nat) : (s.sealEvt b).clk = s.clk := rfl
@[simp] theorem State.sealEvt_straps (s : State) (b : Nat) : (s.sealEvt b).straps = s.straps := rfl
@[simp] theorem State.sealEvt_inReset (s : State) (b : Nat) : (s.sealEvt b).inReset = s.inReset := rfl
@[simp] theorem State.sealEvt_dft (s : State) (b : Nat) : (s.sealEvt b).dft = s.dft := rfl
@[simp] theorem State.sealEvt_deps (s : State) (b : Nat) : (s.sealEvt b).deps = s.deps := rfl
@[simp] theorem State.sealEvt_xch (s : State) (b : Nat) : (s.sealEvt b).xch = s.xch := rfl
@[simp] theorem State.sealEvt_srt (s : State) (b : Nat) : (s.sealEvt b).srt = s.srt := rfl
@[simp] theorem State.sealEvt_pmk (s : State) (b : Nat) : (s.sealEvt b).pmk = s.pmk := rfl
@[simp] theorem State.sealEvt_pins (s : State) (b : Nat) : (s.sealEvt b).pins = s.pins := rfl
@[simp] theorem State.sealEvt_lan (s : State) (b : Nat) : (s.sealEvt b).lan = s.lan := rfl
@[simp] theorem State.sealEvt_irq (s : State) (b : Nat) : (s.sealEvt b).irq = s.irq := rfl
@[simp] theorem State.sealEvt_pwr (s : State) (b : Nat) : (s.sealEvt b).pwr = s.pwr := rfl
@[simp] theorem State.sealEvt_sec (s : State) (b : Nat) : (s.sealEvt b).sec = s.sec := rfl
@[simp] theorem State.sealEvt_dbg (s : State) (b : Nat) : (s.sealEvt b).dbg = s.dbg := rfl
@[simp] theorem State.sealEvt_boot (s : State) (b : Nat) : (s.sealEvt b).boot = s.boot := rfl
@[simp] theorem State.sealEvt_pm (s : State) (b : Nat) : (s.sealEvt b).pm = s.pm := rfl
@[simp] theorem State.sealEvt_sheow (s : State) (b : Nat) : (s.sealEvt b).sheow = s.sheow := rfl
@[simp] theorem State.sealEvt_umsgs (s : State) (b : Nat) : (s.sealEvt b).umsgs = s.umsgs := rfl
@[simp] theorem State.sealEvt_hrsp (s : State) (b : Nat) : (s.sealEvt b).hrsp = s.hrsp := rfl
@[simp] theorem State.sealEvt_rdata (s : State) (b : Nat) : (s.sealEvt b).rdata = s.rdata := rfl
@[simp] theorem State.sealEvt_free (s : State) (b : Nat) : (s.sealEvt b).free = s.free := rfl
@[simp] theorem State.pinEvt_pending (s : State) (b : Nat) : (s.pinEvt b).pending = s.pending := rfl
@[simp] theorem State.pinEvt_clk (s : State) (b : Nat) : (s.pinEvt b).clk = s.clk := rfl
@[simp] theorem State.pinEvt_straps (s : State) (b : Nat) : (s.pinEvt b).straps = s.straps := rfl
@[simp] theorem State.pinEvt_inReset (s : State) (b : Nat) : (s.pinEvt b).inReset = s.inReset := rfl
@[simp] theorem State.pinEvt_dft (s : State) (b : Nat) : (s.pinEvt b).dft = s.dft := rfl
@[simp] theorem State.pinEvt_deps (s : State) (b : Nat) : (s.pinEvt b).deps = s.deps := rfl
@[simp] theorem State.pinEvt_xch (s : State) (b : Nat) : (s.pinEvt b).xch = s.xch := rfl
@[simp] theorem State.pinEvt_seals (s : State) (b : Nat) : (s.pinEvt b).seals = s.seals := rfl
@[simp] theorem State.pinEvt_srt (s : State) (b : Nat) : (s.pinEvt b).srt = s.srt := rfl
@[simp] theorem State.pinEvt_pmk (s : State) (b : Nat) : (s.pinEvt b).pmk = s.pmk := rfl
@[simp] theorem State.pinEvt_lan (s : State) (b : Nat) : (s.pinEvt b).lan = s.lan := rfl
@[simp] theorem State.pinEvt_irq (s : State) (b : Nat) : (s.pinEvt b).irq = s.irq := rfl
@[simp] theorem State.pinEvt_pwr (s : State) (b : Nat) : (s.pinEvt b).pwr = s.pwr := rfl
@[simp] theorem State.pinEvt_sec (s : State) (b : Nat) : (s.pinEvt b).sec = s.sec := rfl
@[simp] theorem State.pinEvt_dbg (s : State) (b : Nat) : (s.pinEvt b).dbg = s.dbg := rfl
@[simp] theorem State.pinEvt_boot (s : State) (b : Nat) : (s.pinEvt b).boot = s.boot := rfl
@[simp] theorem State.pinEvt_pm (s : State) (b : Nat) : (s.pinEvt b).pm = s.pm := rfl
@[simp] theorem State.pinEvt_sheow (s : State) (b : Nat) : (s.pinEvt b).sheow = s.sheow := rfl
@[simp] theorem State.pinEvt_umsgs (s : State) (b : Nat) : (s.pinEvt b).umsgs = s.umsgs := rfl
@[simp] theorem State.pinEvt_hrsp (s : State) (b : Nat) : (s.pinEvt b).hrsp = s.hrsp := rfl
@[simp] theorem State.pinEvt_rdata (s : State) (b : Nat) : (s.pinEvt b).rdata = s.rdata := rfl
@[simp] theorem State.pinEvt_free (s : State) (b : Nat) : (s.pinEvt b).free = s.free := rfl
@[simp] theorem State.pwrEvt_pending (s : State) (b : Nat) : (s.pwrEvt b).pending = s.pending := rfl
@[simp] theorem State.pwrEvt_clk (s : State) (b : Nat) : (s.pwrEvt b).clk = s.clk := rfl
@[simp] theorem State.pwrEvt_straps (s : State) (b : Nat) : (s.pwrEvt b).straps = s.straps := rfl
@[simp] theorem State.pwrEvt_inReset (s : State) (b : Nat) : (s.pwrEvt b).inReset = s.inReset := rfl
@[simp] theorem State.pwrEvt_dft (s : State) (b : Nat) : (s.pwrEvt b).dft = s.dft := rfl
@[simp] theorem State.pwrEvt_deps (s : State) (b : Nat) : (s.pwrEvt b).deps = s.deps := rfl
@[simp] theorem State.pwrEvt_xch (s : State) (b : Nat) : (s.pwrEvt b).xch = s.xch := rfl
@[simp] theorem State.pwrEvt_seals (s : State) (b : Nat) : (s.pwrEvt b).seals = s.seals := rfl
@[simp] theorem State.pwrEvt_srt (s : State) (b : Nat) : (s.pwrEvt b).srt = s.srt := rfl
@[simp] theorem State.pwrEvt_pmk (s : State) (b : Nat) : (s.pwrEvt b).pmk = s.pmk := rfl
@[simp] theorem State.pwrEvt_pins (s : State) (b : Nat) : (s.pwrEvt b).pins = s.pins := rfl
@[simp] theorem State.pwrEvt_lan (s : State) (b : Nat) : (s.pwrEvt b).lan = s.lan := rfl
@[simp] theorem State.pwrEvt_irq (s : State) (b : Nat) : (s.pwrEvt b).irq = s.irq := rfl
@[simp] theorem State.pwrEvt_sec (s : State) (b : Nat) : (s.pwrEvt b).sec = s.sec := rfl
@[simp] theorem State.pwrEvt_dbg (s : State) (b : Nat) : (s.pwrEvt b).dbg = s.dbg := rfl
@[simp] theorem State.pwrEvt_boot (s : State) (b : Nat) : (s.pwrEvt b).boot = s.boot := rfl
@[simp] theorem State.pwrEvt_pm (s : State) (b : Nat) : (s.pwrEvt b).pm = s.pm := rfl
@[simp] theorem State.pwrEvt_sheow (s : State) (b : Nat) : (s.pwrEvt b).sheow = s.sheow := rfl
@[simp] theorem State.pwrEvt_umsgs (s : State) (b : Nat) : (s.pwrEvt b).umsgs = s.umsgs := rfl
@[simp] theorem State.pwrEvt_hrsp (s : State) (b : Nat) : (s.pwrEvt b).hrsp = s.hrsp := rfl
@[simp] theorem State.pwrEvt_rdata (s : State) (b : Nat) : (s.pwrEvt b).rdata = s.rdata := rfl
@[simp] theorem State.pwrEvt_free (s : State) (b : Nat) : (s.pwrEvt b).free = s.free := rfl
@[simp] theorem State.secEvt_pending (s : State) (b : Nat) : (s.secEvt b).pending = s.pending := rfl
@[simp] theorem State.secEvt_clk (s : State) (b : Nat) : (s.secEvt b).clk = s.clk := rfl
@[simp] theorem State.secEvt_straps (s : State) (b : Nat) : (s.secEvt b).straps = s.straps := rfl
@[simp] theorem State.secEvt_inReset (s : State) (b : Nat) : (s.secEvt b).inReset = s.inReset := rfl
@[simp] theorem State.secEvt_dft (s : State) (b : Nat) : (s.secEvt b).dft = s.dft := rfl
@[simp] theorem State.secEvt_deps (s : State) (b : Nat) : (s.secEvt b).deps = s.deps := rfl
@[simp] theorem State.secEvt_xch (s : State) (b : Nat) : (s.secEvt b).xch = s.xch := rfl
@[simp] theorem State.secEvt_seals (s : State) (b : Nat) : (s.secEvt b).seals = s.seals := rfl
@[simp] theorem State.secEvt_srt (s : State) (b : Nat) : (s.secEvt b).srt = s.srt := rfl
@[simp] theorem State.secEvt_pmk (s : State) (b : Nat) : (s.secEvt b).pmk = s.pmk := rfl
@[simp] theorem State.secEvt_pins (s : State) (b : Nat) : (s.secEvt b).pins = s.pins := rfl
@[simp] theorem State.secEvt_lan (s : State) (b : Nat) : (s.secEvt b).lan = s.lan := rfl
@[simp] theorem State.secEvt_irq (s : State) (b : Nat) : (s.secEvt b).irq = s.irq := rfl
@[simp] theorem State.secEvt_pwr (s : State) (b : Nat) : (s.secEvt b).pwr = s.pwr := rfl
@[simp] theorem State.secEvt_dbg (s : State) (b : Nat) : (s.secEvt b).dbg = s.dbg := rfl
@[simp] theorem State.secEvt_boot (s : State) (b : Nat) : (s.secEvt b).boot = s.boot := rfl
@[simp] theorem State.secEvt_pm (s : State) (b : Nat) : (s.secEvt b).pm = s.pm := rfl
@[simp] theorem State.secEvt_sheow (s : State) (b : Nat) : (s.secEvt b).sheow = s.sheow := rfl
@[simp] theorem State.secEvt_umsgs (s : State) (b : Nat) : (s.secEvt b).umsgs = s.umsgs := rfl
@[simp] theorem State.secEvt_hrsp (s : State) (b : Nat) : (s.secEvt b).hrsp = s.hrsp := rfl
@[simp] theorem State.secEvt_rdata (s : State) (b : Nat) : (s.secEvt b).rdata = s.rdata := rfl
@[simp] theorem State.secEvt_free (s : State) (b : Nat) : (s.secEvt b).free = s.free := rfl
@[simp] theorem State.dbgEvt_pending (s : State) (b : Nat) : (s.dbgEvt b).pending = s.pending := rfl
@[simp] theorem State.dbgEvt_clk (s : State) (b : Nat) : (s.dbgEvt b).clk = s.clk := rfl
@[simp] theorem State.dbgEvt_straps (s : State) (b : Nat) : (s.dbgEvt b).straps = s.straps := rfl
@[simp] theorem State.dbgEvt_inReset (s : State) (b : Nat) : (s.dbgEvt b).inReset = s.inReset := rfl
@[simp] theorem State.dbgEvt_dft (s : State) (b : Nat) : (s.dbgEvt b).dft = s.dft := rfl
@[simp] theorem State.dbgEvt_deps (s : State) (b : Nat) : (s.dbgEvt b).deps = s.deps := rfl
@[simp] theorem State.dbgEvt_xch (s : State) (b : Nat) : (s.dbgEvt b).xch = s.xch := rfl
@[simp] theorem State.dbgEvt_seals (s : State) (b : Nat) : (s.dbgEvt b).seals = s.seals := rfl
@[simp] theorem State.dbgEvt_srt (s : State) (b : Nat) : (s.dbgEvt b).srt = s.srt := rfl
@[simp] theorem State.dbgEvt_pmk (s : State) (b : Nat) : (s.dbgEvt b).pmk = s.pmk := rfl
@[simp] theorem State.dbgEvt_pins (s : State) (b : Nat) : (s.dbgEvt b).pins = s.pins := rfl
@[simp] theorem State.dbgEvt_lan (s : State) (b : Nat) : (s.dbgEvt b).lan = s.lan := rfl
@[simp] theorem State.dbgEvt_irq (s : State) (b : Nat) : (s.dbgEvt b).irq = s.irq := rfl
@[simp] theorem State.dbgEvt_pwr (s : State) (b : Nat) : (s.dbgEvt b).pwr = s.pwr := rfl
@[simp] theorem State.dbgEvt_sec (s : State) (b : Nat) : (s.dbgEvt b).sec = s.sec := rfl
@[simp] theorem State.dbgEvt_boot (s : State) (b : Nat) : (s.dbgEvt b).boot = s.boot := rfl
@[simp] theorem State.dbgEvt_pm (s : State) (b : Nat) : (s.dbgEvt b).pm = s.pm := rfl
@[simp] theorem State.dbgEvt_sheow (s : State) (b : Nat) : (s.dbgEvt b).sheow = s.sheow := rfl
@[simp] theorem State.dbgEvt_umsgs (s : State) (b : Nat) : (s.dbgEvt b).umsgs = s.umsgs := rfl
@[simp] theorem State.dbgEvt_hrsp (s : State) (b : Nat) : (s.dbgEvt b).hrsp = s.hrsp := rfl
@[simp] theorem State.dbgEvt_rdata (s : State) (b : Nat) : (s.dbgEvt b).rdata = s.rdata := rfl
@[simp] theorem State.dbgEvt_free (s : State) (b : Nat) : (s.dbgEvt b).free = s.free := rfl
@[simp] theorem State.safeEvt_pending (s : State) (b : Nat) : (s.safeEvt b).pending = s.pending := rfl
@[simp] theorem State.safeEvt_clk (s : State) (b : Nat) : (s.safeEvt b).clk = s.clk := rfl
@[simp] theorem State.safeEvt_straps (s : State) (b : Nat) : (s.safeEvt b).straps = s.straps := rfl
@[simp] theorem State.safeEvt_inReset (s : State) (b : Nat) : (s.safeEvt b).inReset = s.inReset := rfl
@[simp] theorem State.safeEvt_dft (s : State) (b : Nat) : (s.safeEvt b).dft = s.dft := rfl
@[simp] theorem State.safeEvt_deps (s : State) (b : Nat) : (s.safeEvt b).deps = s.deps := rfl
@[simp] theorem State.safeEvt_xch (s : State) (b : Nat) : (s.safeEvt b).xch = s.xch := rfl
@[simp] theorem State.safeEvt_seals (s : State) (b : Nat) : (s.safeEvt b).seals = s.seals := rfl
@[simp] theorem State.safeEvt_srt (s : State) (b : Nat) : (s.safeEvt b).srt = s.srt := rfl
@[simp] theorem State.safeEvt_pmk (s : State) (b : Nat) : (s.safeEvt b).pmk = s.pmk := rfl
@[simp] theorem State.safeEvt_pins (s : State) (b : Nat) : (s.safeEvt b).pins = s.pins := rfl
@[simp] theorem State.safeEvt_lan (s : State) (b : Nat) : (s.safeEvt b).lan = s.lan := rfl
@[simp] theorem State.safeEvt_pwr (s : State) (b : Nat) : (s.safeEvt b).pwr = s.pwr := rfl
@[simp] theorem State.safeEvt_sec (s : State) (b : Nat) : (s.safeEvt b).sec = s.sec := rfl
@[simp] theorem State.safeEvt_dbg (s : State) (b : Nat) : (s.safeEvt b).dbg = s.dbg := rfl
@[simp] theorem State.safeEvt_boot (s : State) (b : Nat) : (s.safeEvt b).boot = s.boot := rfl
@[simp] theorem State.safeEvt_pm (s : State) (b : Nat) : (s.safeEvt b).pm = s.pm := rfl
@[simp] theorem State.safeEvt_sheow (s : State) (b : Nat) : (s.safeEvt b).sheow = s.sheow := rfl
@[simp] theorem State.safeEvt_umsgs (s : State) (b : Nat) : (s.safeEvt b).umsgs = s.umsgs := rfl
@[simp] theorem State.safeEvt_hrsp (s : State) (b : Nat) : (s.safeEvt b).hrsp = s.hrsp := rfl
@[simp] theorem State.safeEvt_rdata (s : State) (b : Nat) : (s.safeEvt b).rdata = s.rdata := rfl
@[simp] theorem State.safeEvt_free (s : State) (b : Nat) : (s.safeEvt b).free = s.free := rfl
@[simp] theorem State.tick1_pending (s : State) : (s.tick1).pending = s.pending := rfl
@[simp] theorem State.tick1_clk (s : State) : (s.tick1).clk = s.clk := rfl
@[simp] theorem State.tick1_straps (s : State) : (s.tick1).straps = s.straps := rfl
@[simp] theorem State.tick1_inReset (s : State) : (s.tick1).inReset = s.inReset := rfl
@[simp] theorem State.tick1_dft (s : State) : (s.tick1).dft = s.dft := rfl
@[simp] theorem State.tick1_deps (s : State) : (s.tick1).deps = s.deps := rfl
@[simp] theorem State.tick1_xch (s : State) : (s.tick1).xch = s.xch := rfl
@[simp] theorem State.tick1_seals (s : State) : (s.tick1).seals = s.seals := rfl
@[simp] theorem State.tick1_srt (s : State) : (s.tick1).srt = s.srt := rfl
@[simp] theorem State.tick1_pmk (s : State) : (s.tick1).pmk = s.pmk := rfl
@[simp] theorem State.tick1_pins (s : State) : (s.tick1).pins = s.pins := rfl
@[simp] theorem State.tick1_lan (s : State) : (s.tick1).lan = s.lan := rfl
@[simp] theorem State.tick1_irq (s : State) : (s.tick1).irq = s.irq := rfl
@[simp] theorem State.tick1_pwr (s : State) : (s.tick1).pwr = s.pwr := rfl
@[simp] theorem State.tick1_sec (s : State) : (s.tick1).sec = s.sec := rfl
@[simp] theorem State.tick1_dbg (s : State) : (s.tick1).dbg = s.dbg := rfl
@[simp] theorem State.tick1_boot (s : State) : (s.tick1).boot = s.boot := rfl
@[simp] theorem State.tick1_pm (s : State) : (s.tick1).pm = s.pm := rfl
@[simp] theorem State.tick1_sheow (s : State) : (s.tick1).sheow = s.sheow := rfl
@[simp] theorem State.tick1_umsgs (s : State) : (s.tick1).umsgs = s.umsgs := rfl
@[simp] theorem State.tick1_hrsp (s : State) : (s.tick1).hrsp = s.hrsp := rfl
@[simp] theorem State.tick1_rdata (s : State) : (s.tick1).rdata = s.rdata := rfl
@[simp] theorem State.setPin_pending (s : State) (n : Nat) (p : Pin) : (s.setPin n p).pending = s.pending := rfl
@[simp] theorem State.setPin_clk (s : State) (n : Nat) (p : Pin) : (s.setPin n p).clk = s.clk := rfl
@[simp] theorem State.setPin_straps (s : State) (n : Nat) (p : Pin) : (s.setPin n p).straps = s.straps := rfl
@[simp] theorem State.setPin_inReset (s : State) (n : Nat) (p : Pin) : (s.setPin n p).inReset = s.inReset := rfl
@[simp] theorem State.setPin_dft (s : State) (n : Nat) (p : Pin) : (s.setPin n p).dft = s.dft := rfl
@[simp] theorem State.setPin_deps (s : State) (n : Nat) (p : Pin) : (s.setPin n p).deps = s.deps := rfl
@[simp] theorem State.setPin_xch (s : State) (n : Nat) (p : Pin) : (s.setPin n p).xch = s.xch := rfl
@[simp] theorem State.setPin_seals (s : State) (n : Nat) (p : Pin) : (s.setPin n p).seals = s.seals := rfl
@[simp] theorem State.setPin_srt (s : State) (n : Nat) (p : Pin) : (s.setPin n p).srt = s.srt := rfl
@[simp] theorem State.setPin_pmk (s : State) (n : Nat) (p : Pin) : (s.setPin n p).pmk = s.pmk := rfl
@[simp] theorem State.setPin_lan (s : State) (n : Nat) (p : Pin) : (s.setPin n p).lan = s.lan := rfl
@[simp] theorem State.setPin_irq (s : State) (n : Nat) (p : Pin) : (s.setPin n p).irq = s.irq := rfl
@[simp] theorem State.setPin_pwr (s : State) (n : Nat) (p : Pin) : (s.setPin n p).pwr = s.pwr := rfl
@[simp] theorem State.setPin_sec (s : State) (n : Nat) (p : Pin) : (s.setPin n p).sec = s.sec := rfl
@[simp] theorem State.setPin_dbg (s : State) (n : Nat) (p : Pin) : (s.setPin n p).dbg = s.dbg := rfl
@[simp] theorem State.setPin_boot (s : State) (n : Nat) (p : Pin) : (s.setPin n p).boot = s.boot := rfl
@[simp] theorem State.setPin_pm (s : State) (n : Nat) (p : Pin) : (s.setPin n p).pm = s.pm := rfl
@[simp] theorem State.setPin_sheow (s : State) (n : Nat) (p : Pin) : (s.setPin n p).sheow = s.sheow := rfl
@[simp] theorem State.setPin_umsgs (s : State) (n : Nat) (p : Pin) : (s.setPin n p).umsgs = s.umsgs := rfl
@[simp] theorem State.setPin_hrsp (s : State) (n : Nat) (p : Pin) : (s.setPin n p).hrsp = s.hrsp := rfl
@[simp] theorem State.setPin_rdata (s : State) (n : Nat) (p : Pin) : (s.setPin n p).rdata = s.rdata := rfl
@[simp] theorem State.setPin_free (s : State) (n : Nat) (p : Pin) : (s.setPin n p).free = s.free := rfl
@[simp] theorem State.setBck_pending (s : State) (k : Nat) (b : Bck) : (s.setBck k b).pending = s.pending := rfl
@[simp] theorem State.setBck_clk (s : State) (k : Nat) (b : Bck) : (s.setBck k b).clk = s.clk := rfl
@[simp] theorem State.setBck_straps (s : State) (k : Nat) (b : Bck) : (s.setBck k b).straps = s.straps := rfl
@[simp] theorem State.setBck_inReset (s : State) (k : Nat) (b : Bck) : (s.setBck k b).inReset = s.inReset := rfl
@[simp] theorem State.setBck_dft (s : State) (k : Nat) (b : Bck) : (s.setBck k b).dft = s.dft := rfl
@[simp] theorem State.setBck_deps (s : State) (k : Nat) (b : Bck) : (s.setBck k b).deps = s.deps := rfl
@[simp] theorem State.setBck_xch (s : State) (k : Nat) (b : Bck) : (s.setBck k b).xch = s.xch := rfl
@[simp] theorem State.setBck_seals (s : State) (k : Nat) (b : Bck) : (s.setBck k b).seals = s.seals := rfl
@[simp] theorem State.setBck_srt (s : State) (k : Nat) (b : Bck) : (s.setBck k b).srt = s.srt := rfl
@[simp] theorem State.setBck_pmk (s : State) (k : Nat) (b : Bck) : (s.setBck k b).pmk = s.pmk := rfl
@[simp] theorem State.setBck_lan (s : State) (k : Nat) (b : Bck) : (s.setBck k b).lan = s.lan := rfl
@[simp] theorem State.setBck_irq (s : State) (k : Nat) (b : Bck) : (s.setBck k b).irq = s.irq := rfl
@[simp] theorem State.setBck_pwr (s : State) (k : Nat) (b : Bck) : (s.setBck k b).pwr = s.pwr := rfl
@[simp] theorem State.setBck_sec (s : State) (k : Nat) (b : Bck) : (s.setBck k b).sec = s.sec := rfl
@[simp] theorem State.setBck_dbg (s : State) (k : Nat) (b : Bck) : (s.setBck k b).dbg = s.dbg := rfl
@[simp] theorem State.setBck_boot (s : State) (k : Nat) (b : Bck) : (s.setBck k b).boot = s.boot := rfl
@[simp] theorem State.setBck_pm (s : State) (k : Nat) (b : Bck) : (s.setBck k b).pm = s.pm := rfl
@[simp] theorem State.setBck_sheow (s : State) (k : Nat) (b : Bck) : (s.setBck k b).sheow = s.sheow := rfl
@[simp] theorem State.setBck_umsgs (s : State) (k : Nat) (b : Bck) : (s.setBck k b).umsgs = s.umsgs := rfl
@[simp] theorem State.setBck_hrsp (s : State) (k : Nat) (b : Bck) : (s.setBck k b).hrsp = s.hrsp := rfl
@[simp] theorem State.setBck_rdata (s : State) (k : Nat) (b : Bck) : (s.setBck k b).rdata = s.rdata := rfl
@[simp] theorem State.setBck_free (s : State) (k : Nat) (b : Bck) : (s.setBck k b).free = s.free := rfl
@[simp] theorem State.setPring_pending (s : State) (k : Nat) (r : PRing) : (s.setPring k r).pending = s.pending := rfl
@[simp] theorem State.setPring_clk (s : State) (k : Nat) (r : PRing) : (s.setPring k r).clk = s.clk := rfl
@[simp] theorem State.setPring_straps (s : State) (k : Nat) (r : PRing) : (s.setPring k r).straps = s.straps := rfl
@[simp] theorem State.setPring_inReset (s : State) (k : Nat) (r : PRing) : (s.setPring k r).inReset = s.inReset := rfl
@[simp] theorem State.setPring_dft (s : State) (k : Nat) (r : PRing) : (s.setPring k r).dft = s.dft := rfl
@[simp] theorem State.setPring_deps (s : State) (k : Nat) (r : PRing) : (s.setPring k r).deps = s.deps := rfl
@[simp] theorem State.setPring_xch (s : State) (k : Nat) (r : PRing) : (s.setPring k r).xch = s.xch := rfl
@[simp] theorem State.setPring_seals (s : State) (k : Nat) (r : PRing) : (s.setPring k r).seals = s.seals := rfl
@[simp] theorem State.setPring_srt (s : State) (k : Nat) (r : PRing) : (s.setPring k r).srt = s.srt := rfl
@[simp] theorem State.setPring_pmk (s : State) (k : Nat) (r : PRing) : (s.setPring k r).pmk = s.pmk := rfl
@[simp] theorem State.setPring_lan (s : State) (k : Nat) (r : PRing) : (s.setPring k r).lan = s.lan := rfl
@[simp] theorem State.setPring_irq (s : State) (k : Nat) (r : PRing) : (s.setPring k r).irq = s.irq := rfl
@[simp] theorem State.setPring_pwr (s : State) (k : Nat) (r : PRing) : (s.setPring k r).pwr = s.pwr := rfl
@[simp] theorem State.setPring_sec (s : State) (k : Nat) (r : PRing) : (s.setPring k r).sec = s.sec := rfl
@[simp] theorem State.setPring_dbg (s : State) (k : Nat) (r : PRing) : (s.setPring k r).dbg = s.dbg := rfl
@[simp] theorem State.setPring_boot (s : State) (k : Nat) (r : PRing) : (s.setPring k r).boot = s.boot := rfl
@[simp] theorem State.setPring_pm (s : State) (k : Nat) (r : PRing) : (s.setPring k r).pm = s.pm := rfl
@[simp] theorem State.setPring_sheow (s : State) (k : Nat) (r : PRing) : (s.setPring k r).sheow = s.sheow := rfl
@[simp] theorem State.setPring_umsgs (s : State) (k : Nat) (r : PRing) : (s.setPring k r).umsgs = s.umsgs := rfl
@[simp] theorem State.setPring_hrsp (s : State) (k : Nat) (r : PRing) : (s.setPring k r).hrsp = s.hrsp := rfl
@[simp] theorem State.setPring_rdata (s : State) (k : Nat) (r : PRing) : (s.setPring k r).rdata = s.rdata := rfl
@[simp] theorem State.setPring_free (s : State) (k : Nat) (r : PRing) : (s.setPring k r).free = s.free := rfl
@[simp] theorem State.setRef_pending (s : State) (k : Nat) (r : Ref) : (s.setRef k r).pending = s.pending := rfl
@[simp] theorem State.setRef_clk (s : State) (k : Nat) (r : Ref) : (s.setRef k r).clk = s.clk := rfl
@[simp] theorem State.setRef_straps (s : State) (k : Nat) (r : Ref) : (s.setRef k r).straps = s.straps := rfl
@[simp] theorem State.setRef_inReset (s : State) (k : Nat) (r : Ref) : (s.setRef k r).inReset = s.inReset := rfl
@[simp] theorem State.setRef_dft (s : State) (k : Nat) (r : Ref) : (s.setRef k r).dft = s.dft := rfl
@[simp] theorem State.setRef_deps (s : State) (k : Nat) (r : Ref) : (s.setRef k r).deps = s.deps := rfl
@[simp] theorem State.setRef_xch (s : State) (k : Nat) (r : Ref) : (s.setRef k r).xch = s.xch := rfl
@[simp] theorem State.setRef_seals (s : State) (k : Nat) (r : Ref) : (s.setRef k r).seals = s.seals := rfl
@[simp] theorem State.setRef_srt (s : State) (k : Nat) (r : Ref) : (s.setRef k r).srt = s.srt := rfl
@[simp] theorem State.setRef_pins (s : State) (k : Nat) (r : Ref) : (s.setRef k r).pins = s.pins := rfl
@[simp] theorem State.setRef_lan (s : State) (k : Nat) (r : Ref) : (s.setRef k r).lan = s.lan := rfl
@[simp] theorem State.setRef_irq (s : State) (k : Nat) (r : Ref) : (s.setRef k r).irq = s.irq := rfl
@[simp] theorem State.setRef_pwr (s : State) (k : Nat) (r : Ref) : (s.setRef k r).pwr = s.pwr := rfl
@[simp] theorem State.setRef_sec (s : State) (k : Nat) (r : Ref) : (s.setRef k r).sec = s.sec := rfl
@[simp] theorem State.setRef_dbg (s : State) (k : Nat) (r : Ref) : (s.setRef k r).dbg = s.dbg := rfl
@[simp] theorem State.setRef_boot (s : State) (k : Nat) (r : Ref) : (s.setRef k r).boot = s.boot := rfl
@[simp] theorem State.setRef_pm (s : State) (k : Nat) (r : Ref) : (s.setRef k r).pm = s.pm := rfl
@[simp] theorem State.setRef_sheow (s : State) (k : Nat) (r : Ref) : (s.setRef k r).sheow = s.sheow := rfl
@[simp] theorem State.setRef_umsgs (s : State) (k : Nat) (r : Ref) : (s.setRef k r).umsgs = s.umsgs := rfl
@[simp] theorem State.setRef_hrsp (s : State) (k : Nat) (r : Ref) : (s.setRef k r).hrsp = s.hrsp := rfl
@[simp] theorem State.setRef_rdata (s : State) (k : Nat) (r : Ref) : (s.setRef k r).rdata = s.rdata := rfl
@[simp] theorem State.setRef_free (s : State) (k : Nat) (r : Ref) : (s.setRef k r).free = s.free := rfl
@[simp] theorem State.setPtp_pending (s : State) (v f3 f4 : Nat) : (s.setPtp v f3 f4).pending = s.pending := rfl
@[simp] theorem State.setPtp_clk (s : State) (v f3 f4 : Nat) : (s.setPtp v f3 f4).clk = s.clk := rfl
@[simp] theorem State.setPtp_straps (s : State) (v f3 f4 : Nat) : (s.setPtp v f3 f4).straps = s.straps := rfl
@[simp] theorem State.setPtp_inReset (s : State) (v f3 f4 : Nat) : (s.setPtp v f3 f4).inReset = s.inReset := rfl
@[simp] theorem State.setPtp_dft (s : State) (v f3 f4 : Nat) : (s.setPtp v f3 f4).dft = s.dft := rfl
@[simp] theorem State.setPtp_deps (s : State) (v f3 f4 : Nat) : (s.setPtp v f3 f4).deps = s.deps := rfl
@[simp] theorem State.setPtp_xch (s : State) (v f3 f4 : Nat) : (s.setPtp v f3 f4).xch = s.xch := rfl
@[simp] theorem State.setPtp_seals (s : State) (v f3 f4 : Nat) : (s.setPtp v f3 f4).seals = s.seals := rfl
@[simp] theorem State.setPtp_srt (s : State) (v f3 f4 : Nat) : (s.setPtp v f3 f4).srt = s.srt := rfl
@[simp] theorem State.setPtp_pins (s : State) (v f3 f4 : Nat) : (s.setPtp v f3 f4).pins = s.pins := rfl
@[simp] theorem State.setPtp_lan (s : State) (v f3 f4 : Nat) : (s.setPtp v f3 f4).lan = s.lan := rfl
@[simp] theorem State.setPtp_irq (s : State) (v f3 f4 : Nat) : (s.setPtp v f3 f4).irq = s.irq := rfl
@[simp] theorem State.setPtp_pwr (s : State) (v f3 f4 : Nat) : (s.setPtp v f3 f4).pwr = s.pwr := rfl
@[simp] theorem State.setPtp_sec (s : State) (v f3 f4 : Nat) : (s.setPtp v f3 f4).sec = s.sec := rfl
@[simp] theorem State.setPtp_dbg (s : State) (v f3 f4 : Nat) : (s.setPtp v f3 f4).dbg = s.dbg := rfl
@[simp] theorem State.setPtp_boot (s : State) (v f3 f4 : Nat) : (s.setPtp v f3 f4).boot = s.boot := rfl
@[simp] theorem State.setPtp_pm (s : State) (v f3 f4 : Nat) : (s.setPtp v f3 f4).pm = s.pm := rfl
@[simp] theorem State.setPtp_sheow (s : State) (v f3 f4 : Nat) : (s.setPtp v f3 f4).sheow = s.sheow := rfl
@[simp] theorem State.setPtp_umsgs (s : State) (v f3 f4 : Nat) : (s.setPtp v f3 f4).umsgs = s.umsgs := rfl
@[simp] theorem State.setPtp_hrsp (s : State) (v f3 f4 : Nat) : (s.setPtp v f3 f4).hrsp = s.hrsp := rfl
@[simp] theorem State.setPtp_rdata (s : State) (v f3 f4 : Nat) : (s.setPtp v f3 f4).rdata = s.rdata := rfl
@[simp] theorem State.setPtp_free (s : State) (v f3 f4 : Nat) : (s.setPtp v f3 f4).free = s.free := rfl
@[simp] theorem State.setRole_pending (s : State) (t : Tid) (r : Option ThreadRole) : (s.setRole t r).pending = s.pending := rfl
@[simp] theorem State.setRole_clk (s : State) (t : Tid) (r : Option ThreadRole) : (s.setRole t r).clk = s.clk := rfl
@[simp] theorem State.setRole_straps (s : State) (t : Tid) (r : Option ThreadRole) : (s.setRole t r).straps = s.straps := rfl
@[simp] theorem State.setRole_inReset (s : State) (t : Tid) (r : Option ThreadRole) : (s.setRole t r).inReset = s.inReset := rfl
@[simp] theorem State.setRole_dft (s : State) (t : Tid) (r : Option ThreadRole) : (s.setRole t r).dft = s.dft := rfl
@[simp] theorem State.setRole_deps (s : State) (t : Tid) (r : Option ThreadRole) : (s.setRole t r).deps = s.deps := rfl
@[simp] theorem State.setRole_xch (s : State) (t : Tid) (r : Option ThreadRole) : (s.setRole t r).xch = s.xch := rfl
@[simp] theorem State.setRole_seals (s : State) (t : Tid) (r : Option ThreadRole) : (s.setRole t r).seals = s.seals := rfl
@[simp] theorem State.setRole_srt (s : State) (t : Tid) (r : Option ThreadRole) : (s.setRole t r).srt = s.srt := rfl
@[simp] theorem State.setRole_pmk (s : State) (t : Tid) (r : Option ThreadRole) : (s.setRole t r).pmk = s.pmk := rfl
@[simp] theorem State.setRole_pins (s : State) (t : Tid) (r : Option ThreadRole) : (s.setRole t r).pins = s.pins := rfl
@[simp] theorem State.setRole_lan (s : State) (t : Tid) (r : Option ThreadRole) : (s.setRole t r).lan = s.lan := rfl
@[simp] theorem State.setRole_irq (s : State) (t : Tid) (r : Option ThreadRole) : (s.setRole t r).irq = s.irq := rfl
@[simp] theorem State.setRole_pwr (s : State) (t : Tid) (r : Option ThreadRole) : (s.setRole t r).pwr = s.pwr := rfl
@[simp] theorem State.setRole_sec (s : State) (t : Tid) (r : Option ThreadRole) : (s.setRole t r).sec = s.sec := rfl
@[simp] theorem State.setRole_dbg (s : State) (t : Tid) (r : Option ThreadRole) : (s.setRole t r).dbg = s.dbg := rfl
@[simp] theorem State.setRole_boot (s : State) (t : Tid) (r : Option ThreadRole) : (s.setRole t r).boot = s.boot := rfl
@[simp] theorem State.setRole_pm (s : State) (t : Tid) (r : Option ThreadRole) : (s.setRole t r).pm = s.pm := rfl
@[simp] theorem State.setRole_umsgs (s : State) (t : Tid) (r : Option ThreadRole) : (s.setRole t r).umsgs = s.umsgs := rfl
@[simp] theorem State.setRole_hrsp (s : State) (t : Tid) (r : Option ThreadRole) : (s.setRole t r).hrsp = s.hrsp := rfl
@[simp] theorem State.setRole_rdata (s : State) (t : Tid) (r : Option ThreadRole) : (s.setRole t r).rdata = s.rdata := rfl
@[simp] theorem State.setRole_free (s : State) (t : Tid) (r : Option ThreadRole) : (s.setRole t r).free = s.free := rfl
@[simp] theorem State.setChan_pending (s : State) (c : Nat) (x : Chan) : (s.setChan c x).pending = s.pending := rfl
@[simp] theorem State.setChan_clk (s : State) (c : Nat) (x : Chan) : (s.setChan c x).clk = s.clk := rfl
@[simp] theorem State.setChan_straps (s : State) (c : Nat) (x : Chan) : (s.setChan c x).straps = s.straps := rfl
@[simp] theorem State.setChan_inReset (s : State) (c : Nat) (x : Chan) : (s.setChan c x).inReset = s.inReset := rfl
@[simp] theorem State.setChan_dft (s : State) (c : Nat) (x : Chan) : (s.setChan c x).dft = s.dft := rfl
@[simp] theorem State.setChan_deps (s : State) (c : Nat) (x : Chan) : (s.setChan c x).deps = s.deps := rfl
@[simp] theorem State.setChan_xch (s : State) (c : Nat) (x : Chan) : (s.setChan c x).xch = s.xch := rfl
@[simp] theorem State.setChan_seals (s : State) (c : Nat) (x : Chan) : (s.setChan c x).seals = s.seals := rfl
@[simp] theorem State.setChan_srt (s : State) (c : Nat) (x : Chan) : (s.setChan c x).srt = s.srt := rfl
@[simp] theorem State.setChan_pmk (s : State) (c : Nat) (x : Chan) : (s.setChan c x).pmk = s.pmk := rfl
@[simp] theorem State.setChan_pins (s : State) (c : Nat) (x : Chan) : (s.setChan c x).pins = s.pins := rfl
@[simp] theorem State.setChan_lan (s : State) (c : Nat) (x : Chan) : (s.setChan c x).lan = s.lan := rfl
@[simp] theorem State.setChan_irq (s : State) (c : Nat) (x : Chan) : (s.setChan c x).irq = s.irq := rfl
@[simp] theorem State.setChan_pwr (s : State) (c : Nat) (x : Chan) : (s.setChan c x).pwr = s.pwr := rfl
@[simp] theorem State.setChan_sec (s : State) (c : Nat) (x : Chan) : (s.setChan c x).sec = s.sec := rfl
@[simp] theorem State.setChan_dbg (s : State) (c : Nat) (x : Chan) : (s.setChan c x).dbg = s.dbg := rfl
@[simp] theorem State.setChan_boot (s : State) (c : Nat) (x : Chan) : (s.setChan c x).boot = s.boot := rfl
@[simp] theorem State.setChan_pm (s : State) (c : Nat) (x : Chan) : (s.setChan c x).pm = s.pm := rfl
@[simp] theorem State.setChan_umsgs (s : State) (c : Nat) (x : Chan) : (s.setChan c x).umsgs = s.umsgs := rfl
@[simp] theorem State.setChan_hrsp (s : State) (c : Nat) (x : Chan) : (s.setChan c x).hrsp = s.hrsp := rfl
@[simp] theorem State.setChan_rdata (s : State) (c : Nat) (x : Chan) : (s.setChan c x).rdata = s.rdata := rfl
@[simp] theorem State.setChan_free (s : State) (c : Nat) (x : Chan) : (s.setChan c x).free = s.free := rfl
@[simp] theorem State.setSupply_pending (s : State) (k : Nat) (x : Supply) : (s.setSupply k x).pending = s.pending := rfl
@[simp] theorem State.setSupply_clk (s : State) (k : Nat) (x : Supply) : (s.setSupply k x).clk = s.clk := rfl
@[simp] theorem State.setSupply_straps (s : State) (k : Nat) (x : Supply) : (s.setSupply k x).straps = s.straps := rfl
@[simp] theorem State.setSupply_inReset (s : State) (k : Nat) (x : Supply) : (s.setSupply k x).inReset = s.inReset := rfl
@[simp] theorem State.setSupply_dft (s : State) (k : Nat) (x : Supply) : (s.setSupply k x).dft = s.dft := rfl
@[simp] theorem State.setSupply_deps (s : State) (k : Nat) (x : Supply) : (s.setSupply k x).deps = s.deps := rfl
@[simp] theorem State.setSupply_xch (s : State) (k : Nat) (x : Supply) : (s.setSupply k x).xch = s.xch := rfl
@[simp] theorem State.setSupply_seals (s : State) (k : Nat) (x : Supply) : (s.setSupply k x).seals = s.seals := rfl
@[simp] theorem State.setSupply_srt (s : State) (k : Nat) (x : Supply) : (s.setSupply k x).srt = s.srt := rfl
@[simp] theorem State.setSupply_pmk (s : State) (k : Nat) (x : Supply) : (s.setSupply k x).pmk = s.pmk := rfl
@[simp] theorem State.setSupply_pins (s : State) (k : Nat) (x : Supply) : (s.setSupply k x).pins = s.pins := rfl
@[simp] theorem State.setSupply_lan (s : State) (k : Nat) (x : Supply) : (s.setSupply k x).lan = s.lan := rfl
@[simp] theorem State.setSupply_irq (s : State) (k : Nat) (x : Supply) : (s.setSupply k x).irq = s.irq := rfl
@[simp] theorem State.setSupply_pwr (s : State) (k : Nat) (x : Supply) : (s.setSupply k x).pwr = s.pwr := rfl
@[simp] theorem State.setSupply_sec (s : State) (k : Nat) (x : Supply) : (s.setSupply k x).sec = s.sec := rfl
@[simp] theorem State.setSupply_dbg (s : State) (k : Nat) (x : Supply) : (s.setSupply k x).dbg = s.dbg := rfl
@[simp] theorem State.setSupply_boot (s : State) (k : Nat) (x : Supply) : (s.setSupply k x).boot = s.boot := rfl
@[simp] theorem State.setSupply_pm (s : State) (k : Nat) (x : Supply) : (s.setSupply k x).pm = s.pm := rfl
@[simp] theorem State.setSupply_umsgs (s : State) (k : Nat) (x : Supply) : (s.setSupply k x).umsgs = s.umsgs := rfl
@[simp] theorem State.setSupply_hrsp (s : State) (k : Nat) (x : Supply) : (s.setSupply k x).hrsp = s.hrsp := rfl
@[simp] theorem State.setSupply_rdata (s : State) (k : Nat) (x : Supply) : (s.setSupply k x).rdata = s.rdata := rfl
@[simp] theorem State.setSupply_free (s : State) (k : Nat) (x : Supply) : (s.setSupply k x).free = s.free := rfl
@[simp] theorem State.setSin_pending (s : State) (i : Nat) (x : Option StreamIn) : (s.setSin i x).pending = s.pending := rfl
@[simp] theorem State.setSin_clk (s : State) (i : Nat) (x : Option StreamIn) : (s.setSin i x).clk = s.clk := rfl
@[simp] theorem State.setSin_straps (s : State) (i : Nat) (x : Option StreamIn) : (s.setSin i x).straps = s.straps := rfl
@[simp] theorem State.setSin_inReset (s : State) (i : Nat) (x : Option StreamIn) : (s.setSin i x).inReset = s.inReset := rfl
@[simp] theorem State.setSin_dft (s : State) (i : Nat) (x : Option StreamIn) : (s.setSin i x).dft = s.dft := rfl
@[simp] theorem State.setSin_deps (s : State) (i : Nat) (x : Option StreamIn) : (s.setSin i x).deps = s.deps := rfl
@[simp] theorem State.setSin_xch (s : State) (i : Nat) (x : Option StreamIn) : (s.setSin i x).xch = s.xch := rfl
@[simp] theorem State.setSin_seals (s : State) (i : Nat) (x : Option StreamIn) : (s.setSin i x).seals = s.seals := rfl
@[simp] theorem State.setSin_srt (s : State) (i : Nat) (x : Option StreamIn) : (s.setSin i x).srt = s.srt := rfl
@[simp] theorem State.setSin_pmk (s : State) (i : Nat) (x : Option StreamIn) : (s.setSin i x).pmk = s.pmk := rfl
@[simp] theorem State.setSin_pins (s : State) (i : Nat) (x : Option StreamIn) : (s.setSin i x).pins = s.pins := rfl
@[simp] theorem State.setSin_lan (s : State) (i : Nat) (x : Option StreamIn) : (s.setSin i x).lan = s.lan := rfl
@[simp] theorem State.setSin_irq (s : State) (i : Nat) (x : Option StreamIn) : (s.setSin i x).irq = s.irq := rfl
@[simp] theorem State.setSin_pwr (s : State) (i : Nat) (x : Option StreamIn) : (s.setSin i x).pwr = s.pwr := rfl
@[simp] theorem State.setSin_sec (s : State) (i : Nat) (x : Option StreamIn) : (s.setSin i x).sec = s.sec := rfl
@[simp] theorem State.setSin_dbg (s : State) (i : Nat) (x : Option StreamIn) : (s.setSin i x).dbg = s.dbg := rfl
@[simp] theorem State.setSin_boot (s : State) (i : Nat) (x : Option StreamIn) : (s.setSin i x).boot = s.boot := rfl
@[simp] theorem State.setSin_pm (s : State) (i : Nat) (x : Option StreamIn) : (s.setSin i x).pm = s.pm := rfl
@[simp] theorem State.setSin_umsgs (s : State) (i : Nat) (x : Option StreamIn) : (s.setSin i x).umsgs = s.umsgs := rfl
@[simp] theorem State.setSin_hrsp (s : State) (i : Nat) (x : Option StreamIn) : (s.setSin i x).hrsp = s.hrsp := rfl
@[simp] theorem State.setSin_rdata (s : State) (i : Nat) (x : Option StreamIn) : (s.setSin i x).rdata = s.rdata := rfl
@[simp] theorem State.setSin_free (s : State) (i : Nat) (x : Option StreamIn) : (s.setSin i x).free = s.free := rfl
@[simp] theorem State.setSout_pending (s : State) (i : Nat) (x : Option StreamOut) : (s.setSout i x).pending = s.pending := rfl
@[simp] theorem State.setSout_clk (s : State) (i : Nat) (x : Option StreamOut) : (s.setSout i x).clk = s.clk := rfl
@[simp] theorem State.setSout_straps (s : State) (i : Nat) (x : Option StreamOut) : (s.setSout i x).straps = s.straps := rfl
@[simp] theorem State.setSout_inReset (s : State) (i : Nat) (x : Option StreamOut) : (s.setSout i x).inReset = s.inReset := rfl
@[simp] theorem State.setSout_dft (s : State) (i : Nat) (x : Option StreamOut) : (s.setSout i x).dft = s.dft := rfl
@[simp] theorem State.setSout_deps (s : State) (i : Nat) (x : Option StreamOut) : (s.setSout i x).deps = s.deps := rfl
@[simp] theorem State.setSout_xch (s : State) (i : Nat) (x : Option StreamOut) : (s.setSout i x).xch = s.xch := rfl
@[simp] theorem State.setSout_seals (s : State) (i : Nat) (x : Option StreamOut) : (s.setSout i x).seals = s.seals := rfl
@[simp] theorem State.setSout_srt (s : State) (i : Nat) (x : Option StreamOut) : (s.setSout i x).srt = s.srt := rfl
@[simp] theorem State.setSout_pmk (s : State) (i : Nat) (x : Option StreamOut) : (s.setSout i x).pmk = s.pmk := rfl
@[simp] theorem State.setSout_pins (s : State) (i : Nat) (x : Option StreamOut) : (s.setSout i x).pins = s.pins := rfl
@[simp] theorem State.setSout_lan (s : State) (i : Nat) (x : Option StreamOut) : (s.setSout i x).lan = s.lan := rfl
@[simp] theorem State.setSout_irq (s : State) (i : Nat) (x : Option StreamOut) : (s.setSout i x).irq = s.irq := rfl
@[simp] theorem State.setSout_pwr (s : State) (i : Nat) (x : Option StreamOut) : (s.setSout i x).pwr = s.pwr := rfl
@[simp] theorem State.setSout_sec (s : State) (i : Nat) (x : Option StreamOut) : (s.setSout i x).sec = s.sec := rfl
@[simp] theorem State.setSout_dbg (s : State) (i : Nat) (x : Option StreamOut) : (s.setSout i x).dbg = s.dbg := rfl
@[simp] theorem State.setSout_boot (s : State) (i : Nat) (x : Option StreamOut) : (s.setSout i x).boot = s.boot := rfl
@[simp] theorem State.setSout_pm (s : State) (i : Nat) (x : Option StreamOut) : (s.setSout i x).pm = s.pm := rfl
@[simp] theorem State.setSout_umsgs (s : State) (i : Nat) (x : Option StreamOut) : (s.setSout i x).umsgs = s.umsgs := rfl
@[simp] theorem State.setSout_hrsp (s : State) (i : Nat) (x : Option StreamOut) : (s.setSout i x).hrsp = s.hrsp := rfl
@[simp] theorem State.setSout_rdata (s : State) (i : Nat) (x : Option StreamOut) : (s.setSout i x).rdata = s.rdata := rfl
@[simp] theorem State.setSout_free (s : State) (i : Nat) (x : Option StreamOut) : (s.setSout i x).free = s.free := rfl
@[simp] theorem State.setBox_pending (s : State) (n : Nat) (b : Box) : (s.setBox n b).pending = s.pending := rfl
@[simp] theorem State.setBox_clk (s : State) (n : Nat) (b : Box) : (s.setBox n b).clk = s.clk := rfl
@[simp] theorem State.setBox_straps (s : State) (n : Nat) (b : Box) : (s.setBox n b).straps = s.straps := rfl
@[simp] theorem State.setBox_inReset (s : State) (n : Nat) (b : Box) : (s.setBox n b).inReset = s.inReset := rfl
@[simp] theorem State.setBox_dft (s : State) (n : Nat) (b : Box) : (s.setBox n b).dft = s.dft := rfl
@[simp] theorem State.setBox_deps (s : State) (n : Nat) (b : Box) : (s.setBox n b).deps = s.deps := rfl
@[simp] theorem State.setBox_xch (s : State) (n : Nat) (b : Box) : (s.setBox n b).xch = s.xch := rfl
@[simp] theorem State.setBox_seals (s : State) (n : Nat) (b : Box) : (s.setBox n b).seals = s.seals := rfl
@[simp] theorem State.setBox_srt (s : State) (n : Nat) (b : Box) : (s.setBox n b).srt = s.srt := rfl
@[simp] theorem State.setBox_pmk (s : State) (n : Nat) (b : Box) : (s.setBox n b).pmk = s.pmk := rfl
@[simp] theorem State.setBox_pins (s : State) (n : Nat) (b : Box) : (s.setBox n b).pins = s.pins := rfl
@[simp] theorem State.setBox_lan (s : State) (n : Nat) (b : Box) : (s.setBox n b).lan = s.lan := rfl
@[simp] theorem State.setBox_irq (s : State) (n : Nat) (b : Box) : (s.setBox n b).irq = s.irq := rfl
@[simp] theorem State.setBox_pwr (s : State) (n : Nat) (b : Box) : (s.setBox n b).pwr = s.pwr := rfl
@[simp] theorem State.setBox_sec (s : State) (n : Nat) (b : Box) : (s.setBox n b).sec = s.sec := rfl
@[simp] theorem State.setBox_dbg (s : State) (n : Nat) (b : Box) : (s.setBox n b).dbg = s.dbg := rfl
@[simp] theorem State.setBox_boot (s : State) (n : Nat) (b : Box) : (s.setBox n b).boot = s.boot := rfl
@[simp] theorem State.setBox_pm (s : State) (n : Nat) (b : Box) : (s.setBox n b).pm = s.pm := rfl
@[simp] theorem State.setBox_umsgs (s : State) (n : Nat) (b : Box) : (s.setBox n b).umsgs = s.umsgs := rfl
@[simp] theorem State.setBox_hrsp (s : State) (n : Nat) (b : Box) : (s.setBox n b).hrsp = s.hrsp := rfl
@[simp] theorem State.setBox_rdata (s : State) (n : Nat) (b : Box) : (s.setBox n b).rdata = s.rdata := rfl
@[simp] theorem State.setBox_free (s : State) (n : Nat) (b : Box) : (s.setBox n b).free = s.free := rfl
@[simp] theorem State.setPbank_pending (s : State) (ag : Agent) (b : PmkBank) : (s.setPbank ag b).pending = s.pending := rfl
@[simp] theorem State.setPbank_clk (s : State) (ag : Agent) (b : PmkBank) : (s.setPbank ag b).clk = s.clk := rfl
@[simp] theorem State.setPbank_straps (s : State) (ag : Agent) (b : PmkBank) : (s.setPbank ag b).straps = s.straps := rfl
@[simp] theorem State.setPbank_inReset (s : State) (ag : Agent) (b : PmkBank) : (s.setPbank ag b).inReset = s.inReset := rfl
@[simp] theorem State.setPbank_dft (s : State) (ag : Agent) (b : PmkBank) : (s.setPbank ag b).dft = s.dft := rfl
@[simp] theorem State.setPbank_deps (s : State) (ag : Agent) (b : PmkBank) : (s.setPbank ag b).deps = s.deps := rfl
@[simp] theorem State.setPbank_xch (s : State) (ag : Agent) (b : PmkBank) : (s.setPbank ag b).xch = s.xch := rfl
@[simp] theorem State.setPbank_seals (s : State) (ag : Agent) (b : PmkBank) : (s.setPbank ag b).seals = s.seals := rfl
@[simp] theorem State.setPbank_srt (s : State) (ag : Agent) (b : PmkBank) : (s.setPbank ag b).srt = s.srt := rfl
@[simp] theorem State.setPbank_pins (s : State) (ag : Agent) (b : PmkBank) : (s.setPbank ag b).pins = s.pins := rfl
@[simp] theorem State.setPbank_lan (s : State) (ag : Agent) (b : PmkBank) : (s.setPbank ag b).lan = s.lan := rfl
@[simp] theorem State.setPbank_irq (s : State) (ag : Agent) (b : PmkBank) : (s.setPbank ag b).irq = s.irq := rfl
@[simp] theorem State.setPbank_pwr (s : State) (ag : Agent) (b : PmkBank) : (s.setPbank ag b).pwr = s.pwr := rfl
@[simp] theorem State.setPbank_sec (s : State) (ag : Agent) (b : PmkBank) : (s.setPbank ag b).sec = s.sec := rfl
@[simp] theorem State.setPbank_dbg (s : State) (ag : Agent) (b : PmkBank) : (s.setPbank ag b).dbg = s.dbg := rfl
@[simp] theorem State.setPbank_boot (s : State) (ag : Agent) (b : PmkBank) : (s.setPbank ag b).boot = s.boot := rfl
@[simp] theorem State.setPbank_pm (s : State) (ag : Agent) (b : PmkBank) : (s.setPbank ag b).pm = s.pm := rfl
@[simp] theorem State.setPbank_sheow (s : State) (ag : Agent) (b : PmkBank) : (s.setPbank ag b).sheow = s.sheow := rfl
@[simp] theorem State.setPbank_umsgs (s : State) (ag : Agent) (b : PmkBank) : (s.setPbank ag b).umsgs = s.umsgs := rfl
@[simp] theorem State.setPbank_hrsp (s : State) (ag : Agent) (b : PmkBank) : (s.setPbank ag b).hrsp = s.hrsp := rfl
@[simp] theorem State.setPbank_rdata (s : State) (ag : Agent) (b : PmkBank) : (s.setPbank ag b).rdata = s.rdata := rfl
@[simp] theorem State.setPbank_free (s : State) (ag : Agent) (b : PmkBank) : (s.setPbank ag b).free = s.free := rfl
@[simp] theorem State.setServo_pending (s : State) (v : Servo) : (s.setServo v).pending = s.pending := rfl
@[simp] theorem State.setServo_clk (s : State) (v : Servo) : (s.setServo v).clk = s.clk := rfl
@[simp] theorem State.setServo_straps (s : State) (v : Servo) : (s.setServo v).straps = s.straps := rfl
@[simp] theorem State.setServo_inReset (s : State) (v : Servo) : (s.setServo v).inReset = s.inReset := rfl
@[simp] theorem State.setServo_dft (s : State) (v : Servo) : (s.setServo v).dft = s.dft := rfl
@[simp] theorem State.setServo_deps (s : State) (v : Servo) : (s.setServo v).deps = s.deps := rfl
@[simp] theorem State.setServo_xch (s : State) (v : Servo) : (s.setServo v).xch = s.xch := rfl
@[simp] theorem State.setServo_seals (s : State) (v : Servo) : (s.setServo v).seals = s.seals := rfl
@[simp] theorem State.setServo_srt (s : State) (v : Servo) : (s.setServo v).srt = s.srt := rfl
@[simp] theorem State.setServo_pmk (s : State) (v : Servo) : (s.setServo v).pmk = s.pmk := rfl
@[simp] theorem State.setServo_pins (s : State) (v : Servo) : (s.setServo v).pins = s.pins := rfl
@[simp] theorem State.setServo_lan (s : State) (v : Servo) : (s.setServo v).lan = s.lan := rfl
@[simp] theorem State.setServo_irq (s : State) (v : Servo) : (s.setServo v).irq = s.irq := rfl
@[simp] theorem State.setServo_pwr (s : State) (v : Servo) : (s.setServo v).pwr = s.pwr := rfl
@[simp] theorem State.setServo_sec (s : State) (v : Servo) : (s.setServo v).sec = s.sec := rfl
@[simp] theorem State.setServo_dbg (s : State) (v : Servo) : (s.setServo v).dbg = s.dbg := rfl
@[simp] theorem State.setServo_boot (s : State) (v : Servo) : (s.setServo v).boot = s.boot := rfl
@[simp] theorem State.setServo_pm (s : State) (v : Servo) : (s.setServo v).pm = s.pm := rfl
@[simp] theorem State.setServo_umsgs (s : State) (v : Servo) : (s.setServo v).umsgs = s.umsgs := rfl
@[simp] theorem State.setServo_hrsp (s : State) (v : Servo) : (s.setServo v).hrsp = s.hrsp := rfl
@[simp] theorem State.setServo_rdata (s : State) (v : Servo) : (s.setServo v).rdata = s.rdata := rfl
@[simp] theorem State.setServo_free (s : State) (v : Servo) : (s.setServo v).free = s.free := rfl

/-! ### What an update's own field reads as -/

@[simp] theorem State.dep_setDep_same (s : State) (d : Nat) (D : Depot) : (s.setDep d D).dep d = D :=
  SMap.get_set_same s.deps d D {}
theorem State.dep_setDep_ne (s : State) {d e : Nat} (D : Depot) (h : e ≠ d) : (s.setDep d D).dep e = s.dep e :=
  SMap.get_set_ne s.deps D {} {} h
@[simp] theorem Depot.thr_setThr_same (D : Depot) (i : Nat) (x : Thread) : (D.setThr i x).thr i = x :=
  SMap.get_set_same D.threads i x (Thread.reset i)
theorem Depot.thr_setThr_ne (D : Depot) {i j : Nat} (x : Thread) (h : j ≠ i) : (D.setThr i x).thr j = D.thr j :=
  SMap.get_set_ne D.threads x (Thread.reset i) (Thread.reset j) h

/-- A thread is its depot and its number in it. -/
theorem tid_ext {t u : Tid} (h1 : depOf t = depOf u) (h2 : idxOf t = idxOf u) : t = u := by
  unfold depOf at h1
  unfold idxOf at h2
  simp only [fld, Nat.shiftRight_eq_div_pow] at h1 h2
  apply BitVec.eq_of_toNat_eq
  have := t.isLt
  have := u.isLt
  omega

/-- The updated thread reads as it was written. -/
@[simp] theorem State.thr_setThr_same (s : State) (t : Tid) (x : Thread) :
    (s.setThr t x).thr t = x := by
  unfold State.thr State.setThr
  rw [State.dep_setDep_same, Depot.thr_setThr_same]

/-- Every other thread stays. -/
theorem State.thr_setThr_ne (s : State) {t u : Tid} (x : Thread) (hu : u ≠ t) : (s.setThr t x).thr u = s.thr u := by
  unfold State.thr State.setThr
  by_cases hd : depOf u = depOf t
  · rw [hd, State.dep_setDep_same]
    apply Depot.thr_setThr_ne
    intro hi
    exact hu (tid_ext hd hi)
  · rw [State.dep_setDep_ne s _ hd]

@[simp] theorem State.pin_setPin_same (s : State) (n : Nat) (p : Pin) : (s.setPin n p).pin n = p :=
  SMap.get_set_same s.pins.pins n p {}
theorem State.pin_setPin_ne (s : State) {m n : Nat} (p : Pin) (h : m ≠ n) : (s.setPin n p).pin m = s.pin m :=
  SMap.get_set_ne s.pins.pins p {} {} h
@[simp] theorem State.ref_setRef_same (s : State) (k : Nat) (r : Ref) : (s.setRef k r).ref k = r :=
  SMap.get_set_same s.pmk.refs k r (Ref.reset k)
theorem State.ref_setRef_ne (s : State) {j k : Nat} (r : Ref) (h : j ≠ k) : (s.setRef k r).ref j = s.ref j :=
  SMap.get_set_ne s.pmk.refs r (Ref.reset k) (Ref.reset j) h

end Sys2Proof.Machine
end

