-- ==== Sys2Proof/Laws/Engine.lean ====
section
/-! SUPPORT. What issuing an instruction does: the whole effect of issue, engine and alu on a thread that can issue, and of a thread that cannot. -/
namespace Sys2Proof.Machine

/-- A thread that can issue runs its instruction on the state as it is. -/
theorem issue_ok {s : State} {t : Tid} (h : s.CanIssue t) (f : State → Thread → State) : issue t s f = f s (s.thr t) := by
  obtain ⟨h1, h2, h3⟩ := h
  have e : (s.dep (depOf t)).fetchFault (s.thr t).pc = none := by
    simp [Depot.fetchFault, h3]; omega
  simp [issue, h1, e, State.fetched, h3]

/-- A thread that is not ready issues nothing. -/
theorem issue_not_ready {s : State} {t : Tid} (h : s.ready t = false) (f : State → Thread → State) : issue t s f = s := by
  simp [issue, h]

/-- A fetch above the code store faults CODE_RANGE and changes nothing else. -/
theorem issue_codeRange {s : State} {t : Tid} (h : s.ready t = true) (hp : 0xBFFF < (s.thr t).pc.toNat) (f : State → Thread → State) :
    issue t s f = s.faultThr t .codeRange := by
  simp [issue, h, Depot.fetchFault, hp]

/-- An instruction that completes on registers alone. -/
theorem engine_done {s : State} {t : Tid} (h : s.CanIssue t) {f : Depot → Thread → EngRes} {h' : Thread} {n : Nxt}
    (hf : f (s.dep (depOf t)) (s.thr t) = .done h' [] [] n) : engine t s f = s.setThr t (h'.complete n) := by
  simp [engine, issue_ok h, hf, Depot.readCount, Depot.writeWords, State.setThr]

/-- An instruction that blocks on registers alone. -/
theorem engine_block {s : State} {t : Tid} (h : s.CanIssue t) {f : Depot → Thread → EngRes} {h' : Thread} {p : Pend}
    (hf : f (s.dep (depOf t)) (s.thr t) = .block h' [] p) : engine t s f = s.setThr t (h'.block p) := by
  simp [engine, issue_ok h, hf, Depot.readCount, State.setThr]

/-- An instruction that faults. -/
theorem engine_fault {s : State} {t : Tid} (h : s.CanIssue t) {f : Depot → Thread → EngRes} {c : TFault}
    (hf : f (s.dep (depOf t)) (s.thr t) = .fault c) : engine t s f = s.faultThr t c := by
  simp [engine, issue_ok h, hf]

/-- A register instruction completes. -/
theorem alu_ok {s : State} {t : Tid} (h : s.CanIssue t) (f : Thread → Thread) : alu t s f = s.setThr t ((f (s.thr t)).complete .seq) :=
  engine_done h rfl

@[simp] theorem State.dep_setThr_same (s : State) (t : Tid) (x : Thread) :
    (s.setThr t x).dep (depOf t) = (s.dep (depOf t)).setThr (idxOf t) x := by simp [State.setThr]
theorem State.dep_setThr_ne (s : State) (t : Tid) (x : Thread) {d : Nat} (h : d ≠ depOf t) : (s.setThr t x).dep d = s.dep d := by
  simp [State.setThr, State.dep_setDep_ne s _ h]

/-- An update of one thread changes that thread alone. -/
theorem onlyThr_setThr (s : State) (t : Tid) (x : Thread) : OnlyThr t s (s.setThr t x) := by
  refine ⟨rfl, fun d h => State.dep_setThr_ne s t x h, ?_, fun i h => ?_⟩
  · simp [Depot.setThr]
  · simp [Depot.thr_setThr_ne _ _ h]

/-- The words and status of a thread do not change when an instruction completes. -/
@[simp] theorem Thread.settle_w (h : Thread) : h.settle.w = h.w := by
  unfold Thread.settle
  cases h.state <;> first | rfl | (simp only []; split <;> rfl)
@[simp] theorem Thread.settle_sts (h : Thread) : h.settle.sts = h.sts := by
  unfold Thread.settle
  cases h.state <;> first | rfl | (simp only []; split <;> rfl)
@[simp] theorem Thread.advance_w (h : Thread) (n : Nxt) : (h.advance n).w = h.w := by
  cases n
  · simp only [Thread.advance]; repeat' split
    all_goals rfl
  · rfl
@[simp] theorem Thread.advance_sts (h : Thread) (n : Nxt) : (h.advance n).sts = h.sts := by
  cases n
  · simp only [Thread.advance]; repeat' split
    all_goals rfl
  · rfl
@[simp] theorem Thread.complete_w (h : Thread) (n : Nxt) : (h.complete n).w = h.w := by simp [Thread.complete]
@[simp] theorem Thread.complete_sts (h : Thread) (n : Nxt) : (h.complete n).sts = h.sts := by simp [Thread.complete]
@[simp] theorem Thread.complete_reg (h : Thread) (n : Nxt) (r : Reg) : (h.complete n).reg r = h.reg r := by simp [Thread.reg]

/-- Reading a register after writing one. -/
theorem Thread.reg_setReg (h : Thread) (d r : Reg) (v : Word) : (h.setReg d v).reg r = if r = d then v else h.reg r := by
  simp only [Thread.reg, Thread.setReg, Vector.getElem_set, Fin.getElem_fin, Fin.ext_iff]
  by_cases e : d.val = r.val
  · simp [e]
  · simp [e, Ne.symm e]

theorem Thread.put_reg (h : Thread) (d r : Reg) (x : AluRes) : (h.put d x).reg r = if r = d then x.val else h.reg r :=
  Thread.reg_setReg h d r x.val

/-- Bit i of a word after one bit is put. -/
theorem bitAt_putBit (w : Word) (k i : Nat) (b : Bool) (hk : k < 16) : bitAt (putBit w k b) i = if i = k then b else bitAt w i := by
  by_cases hi : i < 16
  · cases b <;> simp [putBit, setBit, clrBit, bitAt] <;> by_cases e : i = k <;> simp [e, hk, hi]
    all_goals first | omega | (intro h1; omega)
  · have : i ≠ k := by omega
    cases b <;> simp [putBit, setBit, clrBit, bitAt, this, BitVec.getLsbD_of_ge w i (by omega)] <;> omega

theorem bitAt_optBit (w : Word) (k i : Nat) (b : Option Bool) (hk : k < 16) : bitAt (optBit w k b) i = if i = k then b.getD (bitAt w k) else bitAt w i := by
  cases b
  · simp only [optBit, Option.getD_none]; split <;> simp_all
  · simp only [optBit, Option.getD_some]; exact bitAt_putBit w k i _ hk

/-- The status word that setFlags and setSat leave. -/
theorem stsAfter_set (w : Word) (u : FlagUpd) (b : Bool) : StsAfter w (setSat (setFlags w u) b) u b := by
  intro i hi
  have h7 : ∀ x : Word, bitAt (setSat x b) i = if i = 7 then bitAt x 7 || b else bitAt x i := by
    intro x
    cases b
    · simp only [setSat]; split <;> simp_all
    · have := bitAt_putBit x 7 i true (by omega)
      simp only [putBit] at this
      simpa [setSat] using this
  rw [h7]
  simp only [setFlags, bitAt_optBit _ _ _ _ (show 0 < 16 by omega), bitAt_optBit _ _ _ _ (show 1 < 16 by omega),
    bitAt_optBit _ _ _ _ (show 2 < 16 by omega), bitAt_optBit _ _ _ _ (show 3 < 16 by omega)]
  repeat' split
  all_goals simp_all

theorem stsAfter_setFlags (w : Word) (u : FlagUpd) : StsAfter w (setFlags w u) u false := by simpa [setSat] using stsAfter_set w u false

/-- A register instruction whose new thread differs in its words and status alone. -/
theorem aluDone_of {s : State} {t : Tid} (h : s.CanIssue t) {f : Thread → Thread} {regs : Reg → Word} {u : FlagUpd} {sat : Bool}
    (hf : f (s.thr t) = { s.thr t with w := (f (s.thr t)).w, sts := (f (s.thr t)).sts })
    (hr : ∀ r, (f (s.thr t)).reg r = regs r) (hs : StsAfter (s.thr t).sts (f (s.thr t)).sts u sat) :
    AluDone (.next (alu t s f)) s t regs u sat := by
  refine ⟨_, rfl, ?_, ?_, ?_, ?_⟩
  · rw [alu_ok h]; exact onlyThr_setThr s t _
  · intro r; rw [alu_ok h]; simpa using hr r
  · rw [alu_ok h]; simpa using hs
  · rw [alu_ok h]; simp only [State.thr_setThr_same, Thread.complete_w, Thread.complete_sts]; rw [← hf]

end Sys2Proof.Machine
end

