-- ==== Sys2Proof/Laws/Letters.lean ====
section
/-! SUPPORT. What serving a letter does, once for every letter: nothing where Sheow does not run or the letter is another; else the letter's own effect and its answer. -/
namespace Sys2Proof.Machine

@[simp] theorem State.box_setBox_same (s : State) (n : Nat) (b : Box) : (s.setBox n b).box n = b := by
  simp [State.box, State.setBox]
theorem State.box_setBox_ne (s : State) {m n : Nat} (b : Box) (h : m ≠ n) : (s.setBox n b).box m = s.box m := by
  simp [State.box, State.setBox, SMap.get_set_ne _ _ _ _ h]
@[simp] theorem State.shUp_setBox (s : State) (n : Nat) (b : Box) : (s.setBox n b).shUp = s.shUp := rfl

/-- R322: while Sheow does not run, no letter is served. -/
theorem serve_down {s : State} (h : s.shUp = false) (n cls op : Nat) (f : State → Letter → State × LRes) : serve n cls op s f = s := by
  simp [serve, h]
theorem serve_none {s : State} {n : Nat} (h : (s.box n).svc = none) (cls op : Nat) (f : State → Letter → State × LRes) : serve n cls op s f = s := by
  simp [serve, h]
/-- A letter of another class or operation is left in service. -/
theorem serve_other {s : State} {n cls op : Nat} {l : Letter} (h : (s.box n).svc = some l) (hn : ¬ (l.cls = cls ∧ l.op = op)) (f : State → Letter → State × LRes) : serve n cls op s f = s := by
  simp [serve, h, hn]
/-- R326: a letter of LB2 itself, or one beside which LB2 has none in service, does not pause. -/
theorem serving_pause {s : State} {n : Nat} (h : n = 2 ∨ (s.box 2).svc = none) : (n != 2 && (s.box 2).svc.isSome) = false := by
  rcases h with rfl | h <;> simp [*]
/-- R326: while a letter of LB2 is in service a letter of another letterbox pauses. -/
theorem serve_paused {s : State} {n : Nat} (hn : n ≠ 2) (h : (s.box 2).svc.isSome = true) (cls op : Nat) (f : State → Letter → State × LRes) : serve n cls op s f = s := by
  simp [serve, hn, h]
/-- R321: the effect, the end of the service, and the reply. -/
theorem serve_ok {s t : State} {n cls op : Nat} {l : Letter} {f : State → Letter → State × LRes} {b : List W32} (h : s.InService n cls op l) (hf : f s l = (t, .ok b)) :
    serve n cls op s f = replyTo (endService t n) n l (.ok b) := by
  obtain ⟨hu, hs, h2, rfl, rfl⟩ := h
  simp [serve, serving_pause h2, hu, hs, hf]
/-- R321, R323: a refusal changes nothing but the end of the service, the record of E_BOX and E_DOMAIN, and the reply. -/
theorem serve_err {s t : State} {n cls op : Nat} {l : Letter} {f : State → Letter → State × LRes} {c : LStat} {i d : Nat} (h : s.InService n cls op l) (hf : f s l = (t, .err c i d)) :
    serve n cls op s f = replyTo (logRefused (endService s n) n l c) n l (.err c i d) := by
  obtain ⟨hu, hs, h2, rfl, rfl⟩ := h
  simp [serve, serving_pause h2, hu, hs, hf]
/-- A letter whose effect goes on stays in service. -/
theorem serve_wait {s t : State} {n cls op : Nat} {l : Letter} {f : State → Letter → State × LRes} (h : s.InService n cls op l) (hf : f s l = (t, .wait)) : serve n cls op s f = t := by
  obtain ⟨hu, hs, h2, rfl, rfl⟩ := h
  simp [serve, serving_pause h2, hu, hs, hf]
/-- A refusal that is not recorded answers the state it found. -/
theorem answers_err {s t : State} {n cls op : Nat} {l : Letter} {f : State → Letter → State × LRes} {c : LStat} {i d : Nat} (h : s.InService n cls op l) (hf : f s l = (t, .err c i d)) (hb : c ≠ .box) (hd : c ≠ .domain) :
    Answers (.next (serve n cls op s f)) n l s (.err c i d) := by
  simp [Answers, serve_err h hf, logRefused, hb, hd]
theorem answers_ok {s t : State} {n cls op : Nat} {l : Letter} {f : State → Letter → State × LRes} {b : List W32} (h : s.InService n cls op l) (hf : f s l = (t, .ok b)) :
    Answers (.next (serve n cls op s f)) n l t (.ok b) := by
  simp [Answers, serve_ok h hf]
theorem needLen_ok {l : Letter} {n : Nat} (h : l.body.length = n) (s : State) (k : State × LRes) : needLen s l n k = k := by simp [needLen, h]
theorem needLen_bad {l : Letter} {n : Nat} (h : l.body.length ≠ n) (s : State) (k : State × LRes) : needLen s l n k = bad0 s .len := by simp [needLen, h]

/-! ### Posting a letter changes the firmware, the letterbox memory and the interrupt bits of R318 only -/

theorem OnlySheow.refl (s : State) : OnlySheow s s := rfl
theorem OnlySheow.trans {s t u : State} (h : OnlySheow s t) (g : OnlySheow t u) : OnlySheow s u := by
  unfold OnlySheow at h g ⊢
  rw [g]
  obtain ⟨sp, _⟩ := s
  obtain ⟨tp, _⟩ := t
  simp only [State.mk.injEq] at h ⊢
  grind
theorem onlySheow_setBox (s : State) (n : Nat) (b : Box) : OnlySheow s (s.setBox n b) := rfl
theorem onlySheow_lbPut32 (s : State) (a : Nat) (v : W32) : OnlySheow s (s.lbPut32 a v) := rfl
theorem onlySheow_putRing (b : Nat) (ws : List W32) (i : Nat) (s : State) : OnlySheow s (putRing s b i ws) := by
  induction ws generalizing s i with
  | nil => rfl
  | cons w r ih => exact (onlySheow_lbPut32 s _ w).trans (ih ..)
theorem onlySheow_p2h (s : State) (v : Word) : OnlySheow s { s with irq := { s.irq with p2h := v } } := rfl
theorem onlySheow_flushBox (n k : Nat) (s : State) : OnlySheow s (flushBox n k s) := by
  induction k generalizing s with
  | zero => rfl
  | succ k ih =>
    simp only [flushBox]
    split
    · rfl
    · split
      · exact (((onlySheow_putRing ..).trans (onlySheow_lbPut32 ..)).trans (onlySheow_setBox ..)).trans ((onlySheow_p2h ..).trans (ih _))
      · rfl
theorem onlySheow_postOut (s : State) (n : Nat) (l : OutLetter) : OnlySheow s (postOut s n l) :=
  (onlySheow_setBox ..).trans (onlySheow_flushBox ..)
theorem onlySheow_logRec (s : State) (e : DlEntry) : OnlySheow s (logRec s e) := rfl
/-- R321: the answer to a letter changes nothing else. -/
theorem onlySheow_replyTo (s : State) (n : Nat) (l : Letter) (r : LRes) : OnlySheow s (replyTo s n l r) := by
  unfold replyTo
  split
  · split
    · rfl
    · exact onlySheow_postOut ..
  · exact onlySheow_postOut ..
  · rfl
theorem onlySheow_sendEvent (s : State) (cls op : Nat) (body : List W32) : OnlySheow s (sendEvent s cls op body) := by
  unfold sendEvent
  split
  · exact onlySheow_postOut ..
  · rfl
/-- What an answered letter leaves is what its effect left, but for the firmware and its letterboxes. -/
theorem Answers.only {o : Out} {n : Nat} {l : Letter} {t u : State} {r : LRes} (h : Answers o n l t r) (ho : o = .next u) : OnlySheow t u := by
  cases h.symm.trans ho
  exact (onlySheow_setBox ..).trans (onlySheow_replyTo ..)

end Sys2Proof.Machine
end

