-- ==== Sys2Proof/Laws/Xchange.lean ====
section
/-! SUPPORT. What storing a word of exchange memory does: the word reads back, every other word reads as before, and every memory keeps its canonical form. -/
namespace Sys2Proof.Machine

/-- R339: every memory is in canonical form at reset. -/
theorem memOk_reset : State.reset.memOk = true := by decide

theorem State.xword_xput_same (s : State) {w : Nat} (v : Word) (h : s.bankHere w = true) : (s.xput w v).xword w = v := by
  have h' : (s.xput w v).bankHere w = true := h
  unfold State.xword
  rw [if_pos h']
  exact Mem.read16_write16_same ..
theorem State.xword_xput_ne (s : State) {w x : Nat} (v : Word) (h : x ≠ w) : (s.xput w v).xword x = s.xword x := by
  have e : (s.xput w v).bankHere x = s.bankHere x := rfl
  unfold State.xword
  rw [e]
  simp only [State.xput]
  rw [Mem.read16_write16_ne _ _ (by omega)]
theorem State.memOk_xput (s : State) (w : Nat) (v : Word) (h : s.memOk = true) : (s.xput w v).memOk = true := by
  simp only [State.memOk, State.xput, Bool.and_eq_true] at h ⊢
  exact ⟨⟨⟨Mem.wf_write16 _ _ _ h.1.1.1, h.1.1.2⟩, h.1.2⟩, h.2⟩
@[simp] theorem State.xword_xclean (s : State) (p x : Nat) : (s.xclean p).xword x = s.xword x := rfl
@[simp] theorem State.memOk_xclean (s : State) (p : Nat) : (s.xclean p).memOk = s.memOk := rfl
theorem memOk_xdbe (s : State) (p : Nat) (src : BitVec 3) (id : BitVec 13) : (xdbe s p src id).memOk = s.memOk := by
  unfold xdbe
  (repeat' split) <;> rfl

/-- R152: a single write stores the word where its pair-word has no double error. -/
theorem xwrite1_clean (s : State) {w : Nat} (v : Word) (src : BitVec 3) (id : BitVec 13) (hb : s.bankHere w = true) (he : xerr s (w / 2) = none) : xwrite1 s w v src id = (s.xput w v, true) := by
  simp [xwrite1, hb, he]
theorem memOk_xwrite1 (s : State) (w : Nat) (v : Word) (src : BitVec 3) (id : BitVec 13) (h : s.memOk = true) : (xwrite1 s w v src id).1.memOk = true := by
  unfold xwrite1
  split
  · split
    · exact (memOk_xdbe ..).trans h
    · exact State.memOk_xput _ _ _ h
    · exact State.memOk_xput _ _ _ h
  · exact h
theorem xword_xwrite2 (s : State) {w x : Nat} (v0 v1 : Word) (hb : s.bankHere w = true) (hb' : s.bankHere (w + 1) = true) :
    (xwrite2 s w v0 v1).xword x = if x = w then v0 else if x = w + 1 then v1 else s.xword x := by
  simp only [xwrite2, hb, if_true]
  split
  · next h => subst h; rw [State.xword_xput_ne _ _ (by omega), State.xword_xput_same (s.xclean (x / 2)) v0 hb]
  · split
    · next h => subst h; exact State.xword_xput_same ((s.xclean (w / 2)).xput w v0) v1 hb'
    · next h h' => rw [State.xword_xput_ne _ _ h', State.xword_xput_ne _ _ h, State.xword_xclean]
theorem memOk_xwrite2 (s : State) (w : Nat) (v0 v1 : Word) (h : s.memOk = true) : (xwrite2 s w v0 v1).memOk = true := by
  unfold xwrite2
  split
  · exact State.memOk_xput _ _ _ (State.memOk_xput _ _ _ h)
  · exact h
theorem memOk_xwriteList (s : State) (id : BitVec 13) (w : Nat) (ws : List Word) (h : s.memOk = true) : (xwriteList s id w ws).memOk = true := by
  induction s, w, ws using xwriteList.induct (id := id) with
  | case1 s w => simpa [xwriteList] using h
  | case2 s w a => simpa [xwriteList] using memOk_xwrite1 s w a 0 id h
  | case3 s w a b r hw ih => rw [xwriteList, if_pos hw]; exact ih (memOk_xwrite2 s w a b h)
  | case4 s w a b r hw ih => rw [xwriteList, if_neg hw]; exact ih (memOk_xwrite1 s w a 0 id h)

theorem State.memOk_lbPut32 (s : State) (a : Nat) (v : W32) (h : s.memOk = true) : (s.lbPut32 a v).memOk = true := by
  simp only [State.memOk, State.lbPut32, Bool.and_eq_true] at h ⊢
  exact ⟨⟨⟨h.1.1.1, Mem.wf_write32 _ _ _ h.1.1.2⟩, h.1.2⟩, h.2⟩
theorem memOk_putRing (b : Nat) (ws : List W32) (i : Nat) (s : State) (h : s.memOk = true) : (putRing s b i ws).memOk = true := by
  induction ws generalizing s i with
  | nil => exact h
  | cons w r ih => exact ih _ _ (State.memOk_lbPut32 _ _ _ h)
theorem memOk_setBox (s : State) (n : Nat) (b : Box) : (s.setBox n b).memOk = s.memOk := rfl
theorem memOk_irq (s : State) (x : Irq) : ({ s with irq := x } : State).memOk = s.memOk := rfl
theorem memOk_flushBox (n k : Nat) (s : State) (h : s.memOk = true) : (flushBox n k s).memOk = true := by
  induction k generalizing s with
  | zero => exact h
  | succ k ih =>
    simp only [flushBox]
    split
    · exact h
    · split
      · exact ih _ ((memOk_irq _ _).trans ((memOk_setBox _ _ _).trans (State.memOk_lbPut32 _ _ _ (memOk_putRing _ _ _ s h))))
      · exact h
theorem memOk_postOut (s : State) (n : Nat) (l : OutLetter) (h : s.memOk = true) : (postOut s n l).memOk = true := memOk_flushBox _ _ _ ((memOk_setBox ..).trans h)
theorem memOk_replyTo (s : State) (n : Nat) (l : Letter) (r : LRes) (h : s.memOk = true) : (replyTo s n l r).memOk = true := by
  unfold replyTo
  split
  · split
    · exact h
    · exact memOk_postOut _ _ _ h
  · exact memOk_postOut _ _ _ h
  · exact h
/-- A letter whose effect keeps the memory form keeps it. -/
theorem memOk_serve (n cls op : Nat) (s : State) (f : State → Letter → State × LRes) (h : s.memOk = true) (hf : ∀ l, (f s l).1.memOk = true) : (serve n cls op s f).memOk = true := by
  unfold serve
  split
  · exact h
  · split
    · exact h
    · split
      · split
        · next l _ _ _ t b e => exact memOk_replyTo (endService t n) _ _ _ ((congrArg (fun p => p.1.memOk) e).symm.trans (hf l))
        · refine memOk_replyTo _ _ _ _ ?_
          unfold logRefused
          split <;> exact h
        · next l _ _ _ t e => exact (congrArg (fun p => p.1.memOk) e).symm.trans (hf l)
      · exact h

end Sys2Proof.Machine
end

