-- ==== Sys2Proof/Tests/Slice0.lean ====
section
/-! SUPPORT. Tests of one step each, with results from the manual, and for every obligation states that meet its hypotheses. -/
open Sys2Proof Sys2Proof.Machine
namespace Sys2Proof.Tests
set_option Elab.async false

/-! ### Well-formed commands -/

/-- Table 4.12: condition 15 is reserved. -/
theorem wf_condition : (Instr.b 0 15 false 4).wellFormed = false ∧ (Instr.sel 0 15 1 2 3).wellFormed = false ∧ (Instr.b 0 14 false 4).wellFormed = true := by decide
/-- R114: space 3 is reserved, an absolute form has no base register. -/
theorem wf_space : (Instr.ld 0 1 2 3 0).wellFormed = false ∧ (Instr.st 0 1 2 2 0).wellFormed = false ∧ (Instr.ldp 0 1 0 3 0).wellFormed = false ∧
    (Instr.std 0 2 0 2 5).wellFormed = true := by decide
/-- R138: an engine chute is below 16. -/
theorem wf_chute : (Instr.recv 0 1 false 16 false).wellFormed = false ∧ (Instr.recv 0 1 true 255 false).wellFormed = true ∧
    (Instr.sendeQueuedCommit 0 16 0).wellFormed = false := by decide
/-- Table 0.1: 32 depots, 768 pins, 8 lanes, 256 rings. -/
theorem wf_units : (Instr.depotStall 32).wellFormed = false ∧ (Instr.edgeApply 768).wellFormed = false ∧ (Instr.linkUp 8).wellFormed = false ∧
    (Instr.lanRingEnable .hostS 256 0).wellFormed = false ∧ (Instr.lanRingEnable .hostS 255 0).wellFormed = true := by decide
/-- R388: 8 pairs of a depot, 32 groups. -/
theorem wf_twin : (Instr.twinMismatch 0 8 0 false).wellFormed = false ∧ (Instr.pmTwinMismatch 32).wellFormed = false ∧ (Instr.twinMismatch 31 7 31 false).wellFormed = true := by decide
/-- Tables 2.1 and 7.12: references, trackers, bit clocks, patterns. -/
theorem wf_postmark : (Instr.pmkPosLoRead .hostS 8).wellFormed = false ∧ (Instr.mainsCrossing 3 true 0 0).wellFormed = false ∧
    (Instr.bckEnable .hostS 32).wellFormed = false ∧ (Instr.patternEvent 32 false 0).wellFormed = false := by decide
/-- Tables 6.2, 5.1: sorter targets, seal addresses, pair-words. -/
theorem wf_sorter : (Instr.sorterGrant 96).wellFormed = false ∧ (Instr.sealLeaseExpiry 0x400000).wellFormed = false ∧ (Instr.eccWriteBack 0x200000).wellFormed = false := by decide
/-- Table 12.1 and R312: two harts, 16 letterboxes, 8 key words, 24 response words. -/
theorem wf_pm : (Instr.pmFenceI 2).wellFormed = false ∧ (Instr.letterServe 16).wellFormed = false ∧ (Instr.ikeyWrite .hostS 8 0).wellFormed = false ∧
    (Instr.dbgResponseWrite .hostS 24 0).wellFormed = false := by decide

/-! ### Engine words

Each word is written out from its encoding table of chapter 4. -/
/-- Table 4.5: the worked encodings of the manual. -/
theorem decode_examples :
    decodeEng 5 0x60681000 = some (.mac 5 0 3 (.reg 4)) ∧ decodeEng 5 0x40880100 = some (.ld 5 2 2 0 0x100) ∧
    decodeEng 5 0xE8000000 = some (.waitp 5 0) ∧ decodeEng 5 0xDC804005 = some (.sende 5 (.imm 0x4005) 2) ∧
    decodeEng 5 0xF44C0001 = some (.crcs 5 1 3 true) ∧ decodeEng 5 0xED944000 = some (.pedge 5 6 (.pm 0 (some 5)) false) := by decide +kernel
/-- Table 4.6: form A, major 0; BREV holds n − 1 in bits [9:6]. -/
theorem decode_alu :
    decodeEng 0 (0b000000#6 ++ 1#4 ++ 2#4 ++ 3#4 ++ 0#8 ++ 0x00#6) = some (.add 0 1 2 3) ∧
    decodeEng 0 (0b000000#6 ++ 0#4 ++ 2#4 ++ 3#4 ++ 0#8 ++ 0x04#6) = some (.cmp 0 2 3) ∧
    decodeEng 0 (0b000000#6 ++ 0#4 ++ 2#4 ++ 3#4 ++ 1#8 ++ 0x04#6) = none ∧
    decodeEng 0 (0b000000#6 ++ 1#4 ++ 2#4 ++ 0#4 ++ 0b00000111#8 ++ 0x15#6) = some (.brev 0 1 2 7) ∧
    decodeEng 0 (0b000000#6 ++ 1#4 ++ 2#4 ++ 3#4 ++ 0#8 ++ 0x18#6) = none := by decide +kernel
/-- Table 4.7: form B; majors 8 and 9 take their operation from x. -/
theorem decode_imm :
    decodeEng 0 (0x01#6 ++ 1#4 ++ 2#4 ++ 0#2 ++ 0xBEEF#16) = some (.addi 0 1 2 0xBEEF) ∧
    decodeEng 0 (0x06#6 ++ 9#4 ++ 0#4 ++ 0#2 ++ 0x1234#16) = some (.movi 0 9 0x1234) ∧
    decodeEng 0 (0x08#6 ++ 1#4 ++ 2#4 ++ 2#2 ++ 0x000F#16) = some (.sari 0 1 2 15) ∧
    decodeEng 0 (0x09#6 ++ 0#4 ++ 2#4 ++ 2#2 ++ 0x0003#16) = some (.btst 0 2 3) ∧
    decodeEng 0 (0x08#6 ++ 1#4 ++ 2#4 ++ 3#2 ++ 0x000F#16) = none := by decide +kernel
/-- Table 4.8: form C; LDP names its pointer in [19:18]. -/
theorem decode_mem :
    decodeEng 0 (0x11#6 ++ 4#4 ++ 5#4 ++ 0#2 ++ 0x0010#16) = some (.st 0 4 5 0 0x10) ∧
    decodeEng 0 (0x14#6 ++ 4#4 ++ 0b0011#4 ++ 0#2 ++ 0xFFFF#16) = some (.ldp 0 4 3 0 0xFFFF) ∧
    decodeEng 0 (0x16#6 ++ 4#4 ++ 0#22) = some (.push 0 4) ∧ decodeEng 0 (0x14#6 ++ 4#4 ++ 0b0111#4 ++ 0#2 ++ 1#16) = none := by decide +kernel
/-- Tables 4.10, 4.11: form D and the divisions. -/
theorem decode_acc :
    decodeEng 0 (0x18#6 ++ 1#1 ++ 3#4 ++ 2#4 ++ 1#1 ++ 4#4 ++ 0#12) = some (.macd 0 1 3 (.mem 2)) ∧
    decodeEng 0 (0x18#6 ++ 0#1 ++ 6#4 ++ 0#4 ++ 0#1 ++ 8#4 ++ 1#12) = some (.sta 0 0 6 true) ∧
    decodeEng 0 (0x18#6 ++ 1#1 ++ 0#4 ++ 0#4 ++ 0#1 ++ 9#4 ++ 0x020#12) = some (.sha 0 1 0x20) ∧
    decodeEng 0 (0x19#6 ++ 2#4 ++ 4#4 ++ 5#4 ++ 0#8 ++ 1#6) = some (.divl 0 2 4 5) := by decide +kernel
/-- Tables 4.12, 4.13: special registers and control; lx is bit 21 of B and bit 13 of RET. -/
theorem decode_control :
    decodeEng 0 (0x1A#6 ++ 0#4 ++ 7#4 ++ 0#12 ++ 12#6) = some (.mvs 0 12 7) ∧ decodeEng 0 (0x1B#6 ++ 7#4 ++ 0#16 ++ 28#6) = some (.mvf 0 7 28) ∧
    decodeEng 0 (0x20#6 ++ 1#4 ++ 0b100000#6 ++ 0x0042#16) = some (.b 0 1 true 0x42) ∧
    decodeEng 0 (0x22#6 ++ 0#12 ++ 0b10000000#8 ++ 2#6) = some (.ret 0 true) ∧
    decodeEng 0 (0x23#6 ++ 0x3FF#10 ++ 0x0042#16) = some (.loop 0 0x3FF 0x42) ∧
    decodeEng 0 (0x26#6 ++ 1#4 ++ 2#4 ++ 3#4 ++ 0b00000110#8 ++ 0#6) = some (.sel 0 6 1 2 3) := by decide +kernel
/-- Tables 4.14 to 4.17: form F. -/
theorem decode_external :
    decodeEng 0 (0x30#6 ++ 1#4 ++ 2#4 ++ 0b11#2 ++ 0x0100#16) = some (.xld 0 1 { n := 1, q := some 2, k := 0x100 }) ∧
    decodeEng 0 (0x34#6 ++ 1#4 ++ 0#4 ++ 0b00#2 ++ 0x8001#16) = some (.acq 0 1 { n := 0, q := none, k := 0x8001 }) ∧
    decodeEng 0 (0x38#6 ++ 3#4 ++ 0#4 ++ 0b10#2 ++ 0x8011#16) = some (.recv 0 3 true 0x11 true) ∧
    decodeEng 0 (0x39#6 ++ 3#4 ++ 4#4 ++ 0b01#2 ++ 0#16) = some (.take 0 3 (.reg 4)) ∧
    decodeEng 0 (0x1C#6 ++ 3#4 ++ 0#6 ++ 0x2305#16) = some (.pmrd 0 3 3 5) ∧
    decodeEng 0 (0x1D#6 ++ 0#8 ++ 0b10#2 ++ 0xFFFF#16) = some (.addpm 0 0 true 0xFFFF) ∧
    decodeEng 0 (0x3C#6 ++ 1#4 ++ 2#4 ++ 0#2 ++ 0x1000#16) = some (.pser 0 1 2) ∧
    decodeEng 0 (0x3D#6 ++ 2#4 ++ 4#4 ++ 0#2 ++ 0x1000#16) = some (.crcw 0 2 4) := by decide +kernel
/-- R110: the reserved major opcodes raise ILLEGAL. -/
theorem decode_reserved : decodeEng 0 (0x0A#6 ++ 0#26) = none ∧ decodeEng 0 (0x1E#6 ++ 0#26) = none ∧ decodeEng 0 (0x28#6 ++ 0#26) = none ∧
    decodeEng 0 (0x3E#6 ++ 0#26) = none := by decide +kernel

/-! ### States -/

/-- An outcome seen as its next state. -/
def nxt (o : Out) : Option State := match o with | .next t => some t | _ => none
/-- A running thread with the given first registers. -/
def thr (ws : List Word) : Thread :=
  { Thread.reset 0 with state := .running, w := Vector.ofFn fun i => ws.getD i.val 0 }
/-- The reset state with depot 0 in RUN and thread 0 of it as given. -/
def engS (h : Thread) : State := { State.reset with deps := [(0, { state := .run, en := true, threads := [(0, h)] })] }
/-- W0 to W6 hold 5, 3, 0x7FFF, 1, 0x8000, 0xFFFF, 0x00F0. -/
def base : State := engS (thr [5, 3, 0x7FFF, 1, 0x8000, 0xFFFF, 0x00F0])
/-- Depot 0 of base with a change. -/
def baseD (f : Depot → Depot) : State := base.setDep 0 (f (base.dep 0))
/-- Thread 0 of base with a change. -/
def baseT (f : Thread → Thread) : State := base.setThr 0 (f (base.thr 0))
/-- The thread 0 an outcome leaves. -/
def thrOf (o : Out) : Thread := ((nxt o).getD State.reset).thr 0

/-! ### Engine instructions -/

/-- R105: 0x7FFF + 1 sets V and wraps without SAT_EN, and is clamped with SAT where SAT_EN is 1. -/
theorem test_add_saturates :
    (thrOf (exec (.add 0 0 2 3) base)).reg 0 = 0x8000 ∧ (thrOf (exec (.add 0 0 2 3) base)).sts = 0x9 ∧
    (thrOf (exec (.add 0 0 2 3) (baseT fun h => { h with sts := 0x100 }))).reg 0 = 0x7FFF ∧
    (thrOf (exec (.add 0 0 2 3) (baseT fun h => { h with sts := 0x100 }))).sts = 0x181 := by decide +kernel
/-- Table 4.6: SUB sets C as no borrow; |−32,768| lies outside the range. -/
theorem test_sub_abs :
    (thrOf (exec (.sub 0 0 1 0) base)).reg 0 = 0xFFFE ∧ (thrOf (exec (.sub 0 0 1 0) base)).sts = 0x8 ∧
    (thrOf (exec (.abs 0 0 4) base)).sts = 0x9 ∧ (thrOf (exec (.sub 0 0 0 1) base)).sts = 0x2 := by decide +kernel
/-- R112: C is the last bit out. -/
theorem test_shifts :
    (thrOf (exec (.shri 0 0 1 1) base)).reg 0 = 1 ∧ (thrOf (exec (.shri 0 0 1 1) base)).sts = 0x2 ∧
    (thrOf (exec (.sari 0 0 4 15) base)).reg 0 = 0xFFFF ∧ (thrOf (exec (.rol 0 0 4 3) base)).reg 0 = 1 := by decide +kernel
/-- R122: the loop body repeats while the count is above 1. -/
theorem test_loop :
    (thrOf (exec (.loop 0 2 1) base)).pc = 1 ∧ (thrOf (exec (.loop 0 2 1) base)).ldep = 1 ∧ (thrOf (exec (.loop 0 0 1) base)).pc = 2 ∧
    ((({ base.thr 0 with ldep := 1, pc := 1 } : Thread).setLoop 0 { lst := 1, len := 1, lcn := 2 }).complete .seq).pc = 1 ∧
    ((({ base.thr 0 with ldep := 1, pc := 1 } : Thread).setLoop 0 { lst := 1, len := 1, lcn := 1 }).complete .seq).pc = 2 := by decide +kernel
/-- R119 and Table 4.11: −32,768 ÷ −1 and division by 0, after 9 rotations. -/
theorem test_div :
    (thrOf (exec (.div 0 0 4 5) base)).pend = .exact 9 (.regs 0 1 0x7FFF 0 { n := some false, z := some false, v := some true }) ∧
    (thrOf (exec (.div 0 0 4 7) base)).pend = .exact 9 (.regs 0 1 0x8000 0x8000 { n := some true, z := some false, v := some true }) := by decide +kernel
/-- R104: rounding of −3 ÷ 2 in the four modes: down, half up, half to even, to zero. -/
theorem test_rounding : roundBy 0 (-3) 1 = -2 ∧ roundBy 1 (-3) 1 = -1 ∧ roundBy 2 (-3) 1 = -2 ∧ roundBy 3 (-3) 1 = -1 := by decide +kernel

/-- An engine instruction issues in base. -/
theorem witness_SaturatingArithmetic : base.CanIssue 0 := by unfold State.CanIssue; decide +kernel
theorem witness_LogicMovesAndSpecialRegisters :
    base.CanIssue 0 ∧ (25#6).toNat ≤ 25 ∧ 26 ≤ (26#6).toNat ∧ (28#6).toNat ≤ 28 ∧ 29 ≤ (29#6).toNat := by unfold State.CanIssue; decide +kernel
theorem witness_ShiftsAndBitCounts : base.CanIssue 0 := witness_SaturatingArithmetic
/-- Condition 14 has a value and 15 has none; the end address at and above the pc; the three loop sets full; each way to complete. -/
theorem witness_ControlFlow :
    (base.CanIssue 0 ∧ condHolds (base.thr 0).sts 14 ≠ none ∧ condHolds (base.thr 0).sts 15 = none ∧ (0#16).toNat ≤ (base.thr 0).pc.toNat ∧
      ¬(1#16).toNat ≤ (base.thr 0).pc.toNat ∧ base.brkOn 0 = false) ∧
    ((baseT fun h => { h with ldep := 3 }).CanIssue 0 ∧ ((baseT fun h => { h with ldep := 3 }).thr 0).ldep = 3) ∧
    (({ base with dbg := { base.dbg with level := 3, brkDep := 1 } } : State).CanIssue 0 ∧
      ({ base with dbg := { base.dbg with level := 3, brkDep := 1 } } : State).brkOn 0 = true) ∧
    (base.thr 0).state = .running ∧ (base.thr 0).stepping = false ∧ (base.thr 0).ldep = 0 := by unfold State.CanIssue; decide +kernel
/-- The ways a RUNNING thread completes: no loop set, not at the end address, at it with count 2 and with count 1; a stepped and a STOPPING thread. -/
theorem witness_ControlFlow_next :
    (let h : Thread := { base.thr 0 with ldep := 1, pc := 1 }
     let g (n l : Word) : Thread := h.setLoop 0 { lst := 1, len := n, lcn := l }
     h.state = .running ∧ h.stepping = false ∧ h.ldep ≠ 0 ∧ (g 2 1).pc ≠ ((g 2 1).loop 0).len ∧
     (g 1 2).pc = ((g 1 2).loop 0).len ∧ 1 < ((g 1 2).loop 0).lcn ∧ (g 1 1).pc = ((g 1 1).loop 0).len ∧ ¬ 1 < ((g 1 1).loop 0).lcn) ∧
    ({ base.thr 0 with stepping := true } : Thread).state = .running ∧ ({ base.thr 0 with state := .stopping } : Thread).state = .stopping := by decide +kernel

/-- A thread whose slice is words 0 to 1023 with W15 at 1, at 0 and at the slice size. -/
def memS (sp : Word) : State := baseT fun h => { h.setReg 15 sp with slice := 0x8200, ap := #v[3, 1023, 1024, 0] }
/-- Addresses at the end of the slice and one beyond it; push and pop at both ends of the slice. -/
theorem witness_SliceMemory :
    (memS 1).CanIssue 0 ∧ sliceSize ((memS 1).thr 0).slice = 1024 ∧
    ((((memS 1).thr 0).reg 0 + 1018).toNat = 1023 ∧ (((memS 1).thr 0).reg 0 + 1019).toNat = 1024) ∧
    ((memS 1).dep 0).edmErr.get (sliceBase 0 ((memS 1).thr 0).slice + 1023) none = none ∧
    ((((memS 1).thr 0).ap[1]).toNat < 1024 ∧ 1024 ≤ (((memS 1).thr 0).ap[2]).toNat) ∧
    ((((memS 1).thr 0).reg 15 - 1).toNat < 1024 ∧ 1024 ≤ (((memS 0).thr 0).reg 15 - 1).toNat) ∧
    ((((memS 1).thr 0).reg 15).toNat < 1024 ∧ 1024 ≤ (((memS 1024).thr 0).reg 15).toNat) ∧ (memS 0).CanIssue 0 ∧ (memS 1024).CanIssue 0 := by
  unfold State.CanIssue; decide +kernel
/-- R102: PUSH and POP move one word through the slice; a push below address 0 faults. -/
theorem test_push_pop :
    (thrOf (exec (.pop 0 9) ((nxt (exec (.push 0 2) (memS 1))).getD base))).reg 9 = 0x7FFF ∧
    (thrOf (exec (.push 0 2) (memS 1))).reg 15 = 0 ∧ (thrOf (exec (.push 0 2) (memS 0))).tfault = .sliceRange := by decide +kernel
/-- R106: 0x7FFF × 0x7FFF added in Q15 mode: the product shifted left by 1. -/
theorem test_mac :
    (thrOf (exec (.mac 0 0 2 (.reg 2)) (baseT fun h => { h with sts := 0x200 }))).acc 0 = 0x7FFE0002 ∧
    (thrOf (exec (.mac 0 0 2 (.reg 4)) base)).acc 0 = 0xFFC0008000 := by decide +kernel
/-- Operand b in memory below the slice size; even and odd registers; a shift both ways. -/
theorem witness_Accumulators :
    (memS 1).CanIssue 0 ∧ (((memS 1).thr 0).ap[1]).toNat < sliceSize ((memS 1).thr 0).slice ∧
    ((memS 1).dep 0).edmErr.get (sliceBase 0 ((memS 1).thr 0).slice + 1023) none = none ∧ (2 : Reg).val % 2 = 0 ∧ (3 : Reg).val % 2 = 1 ∧ 0 < 1 := by
  unfold State.CanIssue; decide +kernel
/-- Divisors 0 and −1 with dividend −32,768, an ordinary divisor, a quotient outside 16 bits, and the two sides of a completion time. -/
theorem witness_ExactOperations :
    base.CanIssue 0 ∧ ((base.thr 0).reg 7).toInt = 0 ∧ ((base.thr 0).reg 4).toInt = -32768 ∧ ((base.thr 0).reg 5).toInt = -1 ∧
    ((base.thr 0).reg 1).toInt ≠ 0 ∧ outside16 (((base.thr 0).pair 2).toInt.tdiv ((base.thr 0).reg 1).toInt) = false ∧
    outside16 (((base.thr 0).pair 2).toInt.tdiv ((base.thr 0).reg 5).toInt) = true ∧ outside16 (((base.thr 0).pair 6).toInt.tdiv ((base.thr 0).reg 1).toInt) = false ∧
    (let r : ExactRes := .regs 0 1 2 3 {}
     let s := baseT fun h => { h with state := .blocked, pend := .exact 0 r }
     let s' := baseT fun h => { h with state := .blocked, pend := .exact 1 r }
     (s.thr 0).pend = .exact 0 r ∧ s.live 0 = true ∧ 0 ≤ s.rot ∧ (s'.thr 0).pend = .exact 1 r ∧ s'.live 0 = true ∧ s'.rot < 1) := by
  unfold State.CanIssue; decide +kernel

/-- base with thread 0 blocked on p and the response r waiting for request 0. -/
def waitS (p : Pend) (r : XRes) : State :=
  let s := baseT fun h => { h with state := .blocked, pend := p }
  { s with srt := { s.srt with resps := [{ tid := 0, tag := 0, res := r }] } }
theorem witness_ExchangeOperations :
    base.CanIssue 0 ∧ (2 : Reg).val % 2 = 0 ∧ (3 : Reg).val % 2 = 1 ∧
    ((waitS (.xload 0 2 false) (.data [7])).live 0 = true ∧ ((waitS (.xload 0 2 false) (.data [7])).thr 0).pend = .xload 0 2 false ∧
      (waitS (.xload 0 2 false) (.data [7])).respOf 0 0 = some (.data [7])) ∧
    ((waitS (.xload 0 2 true) (.data [7, 8])).live 0 = true ∧ (waitS (.xload 0 2 true) (.data [7, 8])).respOf 0 0 = some (.data [7, 8])) ∧
    ((waitS (.xstore 0) .done).live 0 = true ∧ ((waitS (.xstore 0) .done).thr 0).pend = .xstore 0 ∧ (waitS (.xstore 0) .done).respOf 0 0 = some .done) ∧
    ((waitS (.xstore 0) (.fault .xbus)).live 0 = true ∧ (waitS (.xstore 0) (.fault .xbus)).respOf 0 0 = some (.fault .xbus)) ∧
    ((waitS (.acq 0 2) (.seal 0x4001 true)).live 0 = true ∧ ((waitS (.acq 0 2) (.seal 0x4001 true)).thr 0).pend = .acq 0 2 ∧
      (waitS (.acq 0 2) (.seal 0x4001 true)).respOf 0 0 = some (.seal 0x4001 true)) ∧
    ((waitS (.rel 0) (.relAck false)).live 0 = true ∧ ((waitS (.rel 0) (.relAck false)).thr 0).pend = .rel 0 ∧
      (waitS (.rel 0) (.relAck false)).respOf 0 0 = some (.relAck false)) := by unfold State.CanIssue; decide +kernel
/-- R125: a granted acquire sets Z, and C from bit 14 of the seal word. -/
theorem test_sealGrant : (thrOf (exec (.sealGrant 0) (waitS (.acq 0 2) (.seal 0x4001 true)))).sts = 0x6 ∧
    (thrOf (exec (.sealGrant 0) (waitS (.acq 0 2) (.seal 0x4001 true)))).reg 2 = 0x4001 := by decide +kernel

/-! ### Chutes -/

/-- base with n words staged in thread 0. -/
def stagedS (n : Nat) : State := baseT fun h => { h with staging := List.replicate n 7 }
/-- base with chute (0, c) of depot 0 as given. -/
def chuteS (c : Nat) (x : Chute) : State := baseD fun D => D.setChute 0 c x
/-- base with the unit message m waiting, and depot 0 changed. -/
def umsgS (m : UnitMsg) (f : Depot → Depot) : State := { baseD f with umsgs := [m] }
/-- 14 and 15 staged words; targets that name nothing, an engine chute with and without room, a queued sender, a follower engine, a long chute with and without outbound room; a unit message that is taken, held and dropped. -/
theorem witness_ChuteSending :
    ((stagedS 14).CanIssue 0 ∧ ((stagedS 14).thr 0).staging.length < 15 ∧ (stagedS 15).CanIssue 0 ∧ 15 ≤ ((stagedS 15).thr 0).staging.length) ∧
    (targetOf base.nDep 0 0x4010 = none ∧ targetOf base.nDep 0 0x0012 = some (.eng 1 2) ∧ targetOf base.nDep 0 0x8105 = some (.long 1 5) ∧ targetOf 8 0 0x8805 = none) ∧
    ((stagedS 15).CanIssue 0 ∧ ((stagedS 15).dep 0).chute 0 2 = {} ∧ (stagedS 15).twin 0 = false) ∧
    ((chuteS 2 { msgs := [List.replicate 16 0] }).CanIssue 0 ∧ 16 < (((chuteS 2 { msgs := [List.replicate 16 0] }).dep 0).chute 0 2).words + 1) ∧
    ((chuteS 2 { senders := [9] }).CanIssue 0 ∧ (((chuteS 2 { senders := [9] }).dep 0).chute 0 2).senders ≠ []) ∧
    (({ base with straps := { base.straps with twinCfg := 1 } } : State).CanIssue 0 ∧ ({ base with straps := { base.straps with twinCfg := 1 } } : State).twin 0 = true) ∧
    ((baseD fun D => { D with outbuf := [{ tid := 1, depot := 1, lc := 0, tag := 0, words := List.replicate 256 0 }] }).CanIssue 0 ∧
      256 < (baseD fun D => { D with outbuf := [{ tid := 1, depot := 1, lc := 0, tag := 0, words := List.replicate 256 0 }] }).outWords 0 + 1 ∧ base.outWords 0 + 1 ≤ 256) ∧
    (let m : UnitMsg := { unit := 1, depot := 0, engine := 0, chute := 2, words := [1] }
     let a := umsgS m id
     let b := umsgS m (fun D => { D with xfer := { D.xfer with phase := .freeze } })
     let c := umsgS m (fun D => { D with state := .off })
     a.umsgs = [m] ∧ bitAt (a.dep 0).redir 31 = false ∧ a.depRun 0 = true ∧ (a.dep 0).xfer.phase ≠ .freeze ∧ ((a.dep 0).chute 0 2).words + 1 ≤ 16 ∧
     (b.dep 0).xfer.phase = .freeze ∧ bitAt (b.dep 0).redir 31 = false ∧ c.umsgs = [m] ∧ ¬ c.depRun 0 = true) := by unfold State.CanIssue; decide +kernel
/-- R134 to R137: a message committed in this cycle by thread 9; a message whose room came free in the cycle before, and one whose room is not free yet; a thread queued in this cycle. -/
theorem witness_ChuteSending_cycle :
    (let s := chuteS 2 { msgs := [[1]], fresh := [(0, 9)] }
     let x := (s.dep 0).chute 0 2
     s.CanIssue 0 ∧ x.words + 1 ≤ 16 ∧ x.msgs.length < 16 ∧ x.senders = [] ∧ x.fresh = [(s.clk.ecyc, 9)] ∧ (0 : Tid).toNat < (9 : Tid).toNat ∧ x.msgs = [] ++ [[1]]) ∧
    (let s := chuteS 2 { msgs := [List.replicate 14 0], freed := [(0, 1)] }
     let x := (s.dep 0).chute 0 2
     s.CanIssue 0 ∧ x.words + ((x.freed.filter fun q => decide (s.clk.ecyc < q.1 + 2)).map (·.2)).sum + 1 ≤ 16 ∧ (∀ f ∈ x.fresh, f.1 = s.clk.ecyc → f.2.toNat ≤ (0 : Tid).toNat)) ∧
    (let s := chuteS 2 { msgs := [List.replicate 14 0], freed := [(0, 2)] }
     let x := (s.dep 0).chute 0 2
     s.CanIssue 0 ∧ 16 < x.words + ((x.freed.filter fun q => decide (s.clk.ecyc < q.1 + 2)).map (·.2)).sum + 1 ∧ (∀ u ∈ x.senders, (s.clk.ecyc, u) ∈ x.ties → u.toNat ≤ (0 : Tid).toNat)) ∧
    (let s := chuteS 2 { senders := [8, 9], ties := [(0, 9)] }
     let x := (s.dep 0).chute 0 2
     s.CanIssue 0 ∧ x.senders = [8] ++ [9] ∧ (s.clk.ecyc, 9) ∈ x.ties ∧ (0 : Tid).toNat < (9 : Tid).toNat ∧ ∀ v ∈ [(8 : Tid)], (s.clk.ecyc, v) ∉ x.ties) := by
  unfold State.CanIssue; refine ⟨?_, ?_, ?_, ?_⟩ <;> decide +kernel
/-- base with long chute 5 of depot 0 as given. -/
def lchuteS (x : LChute) : State := baseD fun D => D.setLchute 5 x
/-- Chute 15 and 16; a message waiting, none, a receiver queued; timed with 0 and 1 rotations; a good and a damaged message of a long chute; both sides of the pickup buffer. -/
theorem witness_ChuteReceiving :
    (15 < (16#8).toNat ∧ (15#8).toNat ≤ 15 ∧ (chuteS 15 { msgs := [[1, 2]] }).CanIssue 0 ∧ ((chuteS 15 { msgs := [[1, 2]] }).dep 0).chute 0 15 = { msgs := [[1, 2]] }) ∧
    ((base.dep 0).chute 0 15).msgs = [] ∧ (((chuteS 15 { receivers := [9] }).dep 0).chute 0 15).receivers ≠ [] ∧
    ((base.thr 0).tmo.toNat % 65536 = 0 ∧ ((baseT fun h => { h with tmo := 1 }).thr 0).tmo.toNat % 65536 ≠ 0 ∧ (baseT fun h => { h with tmo := 1 }).CanIssue 0) ∧
    ((lchuteS { msgs := [(9, [1, 2], none)] }).CanIssue 0 ∧ ((lchuteS { msgs := [(9, [1, 2], none)] }).dep 0).lchute 5 = { msgs := [(9, [1, 2], none)] }) ∧
    ((lchuteS { msgs := [(9, [1, 2], some 1), (8, [3], none)] }).CanIssue 0 ∧
      ((lchuteS { msgs := [(9, [1, 2], some 1), (8, [3], none)] }).dep 0).lchute 5 = { msgs := [(9, [1, 2], some 1), (8, [3], none)] } ∧
      ((lchuteS { msgs := [(9, [1, 2], some 1), (8, [3], none)] }).dep 0).dl.length < 8) ∧
    (((lchuteS {}).dep 0).lchute 5).msgs = [] ∧ (((lchuteS { receivers := [9] }).dep 0).lchute 5).receivers ≠ [] ∧
    ((baseT fun h => { h with pickup := [4] }).CanIssue 0 ∧ ((baseT fun h => { h with pickup := [4] }).thr 0).pickup[0]? = some 4 ∧
      ((baseT fun h => { h with pickup := [4] }).thr 0).pickup[1]? = none) := by unfold State.CanIssue; decide +kernel
/-- R134, R135: a chute whose latest message is not seen yet, beside one that is and alone; receivers queued in earlier cycles. -/
theorem witness_ChuteReceiving_cycle :
    (let s := chuteS 2 { msgs := [[1], [2]], fresh := [(0, 9)] }
     let x := (s.dep 0).chute 0 2
     s.CanIssue 0 ∧ x.msgs = [1] :: [[2]] ∧ (x.fresh.filter fun f => decide (s.clk.ecyc < f.1 + 2)).length ≤ 1 ∧ x.receivers = []) ∧
    (let s := chuteS 2 { msgs := [[1]], fresh := [(0, 9)] }
     let x := (s.dep 0).chute 0 2
     s.CanIssue 0 ∧ x.msgs.length ≤ (x.fresh.filter fun f => decide (s.clk.ecyc < f.1 + 2)).length ∧ ∀ u ∈ x.receivers, (s.clk.ecyc, u) ∈ x.ties → u.toNat ≤ (0 : Tid).toNat) ∧
    ∀ u ∈ ((lchuteS { receivers := [9] }).dep 0).lchute 5 |>.receivers, ((lchuteS { receivers := [9] }).clk.ecyc, u) ∈ (((lchuteS { receivers := [9] }).dep 0).lchute 5).ties → u.toNat ≤ (0 : Tid).toNat := by
  unfold State.CanIssue; decide +kernel
/-- base with thread 0 blocked on p, its chute (0, 2) and staging as given. -/
def queuedS (p : Pend) (x : Chute) (tmo : W32) : State :=
  (baseD fun D => D.setChute 0 2 x).setThr 0 { base.thr 0 with state := .blocked, pend := p, staging := [1, 2], tmo := tmo }
/-- A queued sender whose message fits exactly, and one that does not; a queued receiver; the two sides of each timeout. -/
theorem witness_ChuteQueues :
    (let x : Chute := { msgs := [List.replicate 13 0], senders := [0] }
     let s := queuedS (.sende 0 2 3 0) x 0x80000000
     s.depIssues 0 = true ∧ s.frozen 0 = false ∧ (s.setDep 0 { s.dep 0 with frozen := 1 }).frozen 0 = true ∧ (s.dep 0).chute 0 2 = x ∧ (s.thr 0).pend = .sende 0 2 3 0 ∧ x.words + ((s.thr 0).staging.length + 1) ≤ 16 ∧ x.msgs.length < 16 ∧
     s.live 0 = true ∧ bitAt (s.thr 0).tmo 31 = true ∧ 0 + (s.thr 0).tmo.toNat / 65536 % 32768 ≤ s.rot) ∧
    (let x : Chute := { msgs := [List.replicate 14 0], senders := [0] }
     let s := queuedS (.sende 0 2 3 0) x 0x80010000
     s.depIssues 0 = true ∧ 16 < x.words + ((s.thr 0).staging.length + 1) ∧ nxt (exec (.sendeQueuedCommit 0 0 2) s) = some s ∧ s.live 0 = true ∧ s.rot < 0 + (s.thr 0).tmo.toNat / 65536 % 32768) ∧
    (let x : Chute := { msgs := [[7]], receivers := [0] }
     let s := queuedS (.recv 1 (.eng 0 2) (some 1)) x 0
     s.depIssues 0 = true ∧ (s.dep 0).chute 0 2 = x ∧ (s.thr 0).pend = .recv 1 (.eng 0 2) (some 1) ∧ s.live 0 = true ∧ s.rot < 1) ∧
    (let s := queuedS (.recv 1 (.eng 0 2) (some 0)) { receivers := [0] } 0
     (s.thr 0).pend = .recv 1 (.eng 0 2) (some 0) ∧ s.live 0 = true ∧ 0 ≤ s.rot ∧ ((s.dep 0).chute 0 2).msgs = []) := by decide +kernel
/-- R137: a receiver at the head while a sender of 15 words waits; a receiver whose chute holds a message it may see; a wait for a message that ends at its rotation; a SENDE at its rotation that fits, and one behind a head that does not. -/
theorem witness_ChuteQueues_head :
    (let s := (queuedS (.recv 1 (.eng 0 2) (some 0)) { receivers := [0], senders := [1] } 0).setThr 1 { thr [] with state := .blocked, pend := .sende 0 2 3 0, staging := List.replicate 15 0 }
     let x := (s.dep 0).chute 0 2
     s.depIssues 0 = true ∧ x.receivers = [0] ∧ s.frozen 0 = false ∧ (s.thr 0).pend = .recv 1 (.eng 0 2) (some 0) ∧ x.msgs = [] ∧ x.fresh = [] ∧ x.freed = [] ∧ x.senders = [1] ∧ depOf (1 : Tid) = 0 ∧ s.frozen 1 = false ∧
     (s.thr 1).pend = .sende 0 2 3 0 ∧ (s.thr 1).staging.length < 16) ∧
    (let s := queuedS (.recv 1 (.eng 0 2) (some 0)) { receivers := [0], msgs := [[7], [8]], fresh := [(0, 9)] } 0
     let x := (s.dep 0).chute 0 2
     s.depIssues 0 = true ∧ x.senders = [] ∧ x.receivers = [0] ∧ x.msgs = [7] :: [[8]] ∧ (x.fresh.filter fun f => decide (s.rot * 8 < f.1 + 2)).length ≤ 1 ∧
     (s.setDep 0 { s.dep 0 with frozen := 1 }).frozen 0 = true ∧ s.frozen 0 = false) ∧
    (let s := queuedS (.recv 1 (.eng 0 2) (some 0)) { receivers := [0] } 0
     let x := (s.dep 0).chute 0 2
     s.live 0 = true ∧ 0 ≤ s.rot ∧ x.senders = [] ∧ x.msgs = []) ∧
    (let s := queuedS (.sende 0 2 3 0) { senders := [0], msgs := [List.replicate 12 0], freed := [(0, 1)] } 0x80000000
     let x := (s.dep 0).chute 0 2
     s.live 0 = true ∧ s.depIssues 0 = true ∧ bitAt (s.thr 0).tmo 31 = true ∧ 0 + (s.thr 0).tmo.toNat / 65536 % 32768 ≤ s.rot ∧ x.senders = [0] ∧
     x.words + ((x.freed.filter fun q => decide (s.rot * 8 < q.1 + 2)).map (·.2)).sum + ((s.thr 0).staging.length + 1) ≤ 16) ∧
    (let s := (queuedS (.sende 0 2 3 0) { senders := [1, 0], msgs := [List.replicate 12 0], freed := [(0, 1)] } 0x80000000).setThr 1 { thr [] with state := .blocked, pend := .sende 0 2 3 0, staging := [1, 2, 3] }
     let x := (s.dep 0).chute 0 2
     s.live 0 = true ∧ (s.thr 0).pend = .sende 0 2 3 0 ∧ x.senders = 1 :: [0] ∧ depOf (1 : Tid) = 0 ∧ (s.thr 1).pend = .sende 0 2 3 0 ∧
     16 < x.words + ((x.freed.filter fun q => decide (s.rot * 8 < q.1 + 2)).map (·.2)).sum + ((s.thr 1).staging.length + 1)) := by decide +kernel
/-- base with a reservation of n words of thread 9 for long chute 5 of depot 0, and that chute as given. -/
def resvS (n : Nat) (x : LChute) : State :=
  { lchuteS x with srt := { base.srt with arr := [{ code := 0, target := 64, beats := 1, tag := 0, tid := 9, op := .resv 0 5 n }] } }
/-- A reservation at a depot that runs and one that does not, with the last word of room and without; a grant; a burst; a dead letter. -/
theorem witness_LongChutes :
    ((resvS 1 { msgs := [(9, List.replicate 15 0, none)] }).srt.arr.find? (fun q => q.target == 64 + 0) ≠ none ∧
      bitAt ((resvS 1 { msgs := [(9, List.replicate 15 0, none)] }).dep 0).redir 31 = false ∧ (resvS 1 { msgs := [(9, List.replicate 15 0, none)] }).depRun 0 = true ∧
      (((resvS 1 { msgs := [(9, List.replicate 15 0, none)] }).dep 0).lchute 5).words + 1 ≤ 16 ∧ (resvS 1 {}).depNormal (depOf 9) = (resvS 1 {}).depNormal 0) ∧
    16 < (((resvS 2 { msgs := [(9, List.replicate 15 0, none)] }).dep 0).lchute 5).words + 2 ∧
    ((resvS 1 {}).setDep 0 { (resvS 1 {}).dep 0 with state := .off }).depRun 0 = false ∧
    ((waitS (.sendeLong 0 1 5 7 0) .grant).live 0 = true ∧ ((waitS (.sendeLong 0 1 5 7 0) .grant).thr 0).pend = .sendeLong 0 1 5 7 0 ∧
      (waitS (.sendeLong 0 1 5 7 0) .grant).respOf 0 0 = some .grant ∧ bitAt ((waitS (.sendeLong 0 1 5 7 0) .grant).dep 1).redir 31 = false) ∧
    (let b : Burst := { code := 1, target := 64, beats := 4, msg := { tid := 128, depot := 0, lc := 5, tag := 0, words := [1] } }
     let at' (g : List Resv) : State := { lchuteS { granted := g } with srt := { base.srt with bursts := [b] } }
     let v (k : Nat) : Resv := { tid := 128, len := 1, tag := k }
     (at' [v 0, v 1]).srt.bursts.find? (fun q => q.target == 64 + 0) = some b ∧ (at' []).depRun 0 = true ∧ (((at' [v 0, v 1]).dep 0).lchute 5).granted = [v 0, v 1] ∧
     (((at' [v 1, v 0]).dep 0).lchute 5).granted = [v 1, v 0] ∧ (v 1).msg = [] ∧ (((at' []).dep 0).lchute 5).granted = [] ∧ ((at' []).dep 1).dl.length < 8) ∧
    (base.depUp 0 = true ∧ base.depWriter .hostS 0 = true) := by decide +kernel
/-- R173: a burst that an earlier reservation of its input precedes. -/
theorem witness_LongChutes_order :
    let b : Burst := { code := 0, target := 64, beats := 4, no := 1, msg := { tid := 128, depot := 0, lc := 5, tag := 0, words := [1] } }
    let s : State := { resvS 1 {} with srt := { (resvS 1 {}).srt with bursts := [b] } }
    s.srt.bursts = [b] ∧ b.target = 64 + 0 ∧ (∃ q ∈ s.srt.arr, q.target = 64 + 0 ∧ q.code = b.code ∧ q.no < b.no) ∧ ∀ c ∈ s.srt.bursts, c.target = 64 + 0 → c.code = 0 → 0 ≤ c.no := by decide +kernel
theorem witness_ChuteQueuesAndLongChutes : (∃ s : State, s.depIssues 0 = true) ∧ ∃ s : State, s.srt.arr.find? (fun q => q.target == 64 + 0) ≠ none :=
  ⟨⟨_, witness_ChuteQueues.1.1⟩, ⟨_, witness_LongChutes.1.1⟩⟩
/-- R137: the head of the queued senders commits its whole message when it fits. -/
theorem test_sende_commit :
    (((nxt (exec (.sendeQueuedCommit 0 0 2) (queuedS (.sende 0 2 3 0) { senders := [0] } 0))).getD base).dep 0).chute 0 2 = { msgs := [[1, 2, 3]] } := by decide +kernel

/-! ### Postmark and pin instructions -/

/-- base at block time 1000, with PM0 a postmark of block time (reference 5) at x, the pairs captured at 936 and at 1000. -/
def pmS (x : Nat) : State :=
  let s := baseT fun h => { h with pm := #v[BitVec.ofNat 48 (5 * 2 ^ 45 + x), 0] }
  let s := captureRefs { s with clk := { s.clk with bt := 936 } }
  captureRefs { s with clk := { s.clk with bt := 1000 } }
/-- R36 for the postmark x against a captured pair. -/
def passedS (c : RefCap) (x : Nat) : Prop := (c.pos + 2 ^ 45 - x) % 2 ^ 45 < 2 ^ 44
/-- The triple bases 13 and 14; sel 0, 14 and 15; a reference that is not valid; a postmark reached before the present rotation, within it, and not yet. -/
theorem witness_PostmarkOperations :
    base.CanIssue 0 ∧ (13 : Reg).val ≤ 13 ∧ 13 < (14 : Reg).val ∧ (14 : Fin 16).val ≠ 15 ∧
    (base.pair (((base.thr 0).pm[0]).extractLsb' 45 3).toNat).valid = false ∧
    ((pmS 936).CanIssue 0 ∧ ((pmS 936).pair 5).valid = true ∧ passedS ((pmS 936).pairBefore 5) 936) ∧
    ((pmS 937).CanIssue 0 ∧ ¬ passedS ((pmS 937).pairBefore 5) 937 ∧ passedS ((pmS 1000).pair 5) 1000) ∧
    ((pmS 1001).CanIssue 0 ∧ ¬ passedS ((pmS 1001).pair 5) 1001 ∧ (((pmS 1001).thr 0).pm[0]).extractLsb' 45 3 = 5) ∧
    (baseT fun h => { h with state := .blocked, pend := .waitp 7 }).live 0 = true := by unfold State.CanIssue passedS; decide +kernel
/-- R53: WAITP on a postmark one rotation past is LATE, on the present time REACHED. -/
theorem test_waitp :
    (thrOf (exec (.waitp 0 0) (pmS 936))).sts = 0x8002 ∧ (thrOf (exec (.waitp 0 0) (pmS 1000))).sts = 0x4 ∧
    (thrOf (exec (.waitp 0 0) (pmS 1001))).state = .blocked := by decide +kernel

/-- s with pin 5 owned by depot 0 and changed by f. -/
def pinS (s : State) (f : Pin → Pin) : State := s.setPin 5 (f { ownKind := 3, ownDep := 0 })
/-- A BT quad in W8 to W11 and one at a bad base; room for one edge and none; a reference that is not valid; a pin of another owner. -/
theorem witness_PinPosting :
    (let s := pinS base id
     s.CanIssue 0 ∧ s.ownsPin 0 (((s.thr 0).reg 0).toNat % 1024) = true ∧ (8 : Reg).val % 4 = 0 ∧ (9 : Reg).val % 4 ≠ 0 ∧
     ¬ 4 ≤ (s.pin 5).eq.length + (s.pin 5).eqX.length ∧ s.ownsPin 0 (((s.thr 0).reg 1).toNat % 1024) = false ∧
     (s.pairConvert (((s.thr 0).pm[0]).extractLsb' 45 3 ++ (((s.thr 0).pm[0]).extractLsb' 0 45 + 0)) = .invalidRef)) ∧
    (let s := pinS base fun p => { p with eq := List.replicate 4 (0, false) }
     s.CanIssue 0 ∧ s.ownsPin 0 5 = true ∧ 4 ≤ (s.pin 5).eq.length + (s.pin 5).eqX.length) ∧
    (let s := pinS (pmS 1001) id
     s.CanIssue 0 ∧ s.pairConvert (((s.thr 0).pm[0]).extractLsb' 45 3 ++ (((s.thr 0).pm[0]).extractLsb' 0 45 + 0)) = .ok 1001) ∧
    (let s := pinS (pmS (2 ^ 34)) id
     s.CanIssue 0 ∧ s.pairConvert (((s.thr 0).pm[0]).extractLsb' 45 3 ++ (((s.thr 0).pm[0]).extractLsb' 0 45 + 0)) = .far) ∧
    (let s := (pinS base id).setThr 0 { base.thr 0 with state := .blocked, pend := .pedge 5 9 true }
     s.live 0 = true ∧ (s.thr 0).pend = .pedge 5 9 true ∧ ¬ 4 ≤ (s.pin 5).eq.length + (s.pin 5).eqX.length) := by unfold State.CanIssue; decide +kernel
/-- A serializer with three and four words; a deserializer with and without a word; pins 0 to 15 with pin 5 owned, and the group above the last. -/
theorem witness_PinPosting_serial :
    (let s := pinS base fun p => { p with func := 3, fn := .ser, serq := [1, 2, 3] }
     s.CanIssue 0 ∧ s.ownsPin 0 5 = true ∧ (s.pin 5).fsel = 3 ∧ (s.pin 5).serq.length < 4) ∧
    (let s := pinS base fun p => { p with func := 3, fn := .ser, serq := [1, 2, 3, 4] }
     s.CanIssue 0 ∧ (s.pin 5).fsel = 3 ∧ 4 ≤ (s.pin 5).serq.length) ∧ (pinS base id).ownsPin 0 5 = true ∧ ((pinS base id).pin 5).fsel ≠ 3 ∧
    (let s := pinS base fun p => { p with func := 0x8004, fn := .des, desq := [7] }
     s.CanIssue 0 ∧ (s.pin 5).fn = .des ∧ (s.pin 5).sink = 1 ∧ (s.pin 5).desq = [7]) ∧
    (let s := pinS base fun p => { p with func := 0x8004, fn := .des }
     s.CanIssue 0 ∧ (s.pin 5).fn = .des ∧ (s.pin 5).desq = []) ∧
    (16 * ((base.thr 0).reg 7).toNat < base.nPin ∧ base.nPin ≤ 16 * ((base.thr 0).reg 6).toNat ∧
      (∀ i, i < 16 → bitAt (0x20#16) i = true → (pinS base id).ownsPin 0 (16 * 0 + i) = true)) ∧
    (let s := (pinS base fun p => { p with func := 3, fn := .ser }).setThr 0 { base.thr 0 with state := .blocked, pend := .pser 5 1 }
     s.live 0 = true ∧ (s.thr 0).pend = .pser 5 1 ∧ (s.pin 5).fsel = 3 ∧ (s.pin 5).serq.length < 4) ∧
    (let s := (pinS base fun p => { p with func := 0x8004, fn := .des, desq := [7] }).setThr 0 { base.thr 0 with state := .blocked, pend := .pdes 0 5 }
     s.live 0 = true ∧ (s.thr 0).pend = .pdes 0 5 ∧ (s.pin 5).sink = 1) := by unfold State.CanIssue; decide +kernel

/-! ### Threads and depots -/

/-- base with thread 0 in state x waiting on p. -/
def stS (x : TState) (p : Pend) : State := baseT fun h => { h with state := x, pend := p }
/-- The conditions under which a thread command reaches thread 0. -/
def reachesS (s : State) : Prop := s.depUp 0 = true ∧ s.depWriter .hostS 0 = true ∧ s.follower 0 = false ∧ s.depRun 0 = true ∧ s.frozen 0 = false
theorem witness_ThreadCommands :
    (reachesS (stS .idle .none) ∧ ((stS .idle .none).thr 0).state = .idle ∧ bitAt ((stS .idle .none).thr 0).slice 15 = true) ∧
    (reachesS base ∧ (base.thr 0).state = .running ∧ (base.thr 0).pend = .none) ∧
    (reachesS (stS .blocked (.xstore 0)) ∧ ((stS .blocked (.xstore 0)).thr 0).pend.inFlight = true) ∧
    (reachesS (stS .blocked (.recv 1 (.eng 0 2) none)) ∧ ((stS .blocked (.recv 1 (.eng 0 2) none)).thr 0).state = .blocked) ∧
    (reachesS (stS .stopped .none) ∧ ((stS .stopped .none).thr 0).state = .stopped ∧ ((stS .stopped .none).thr 0).state ≠ .idle) ∧
    (((stS .stopping .none).thr 0).state = .stopping ∧ ((stS .stopping .none).thr 0).stopTo = .stopped ∧ (stS .stopping .none).depUp 0 = true) ∧
    (base.depUp 0 = true ∧ base.depWriter .dbg 0 = false) := by unfold reachesS; decide +kernel
/-- R80: START runs the thread at the pc with W15 at the slice size, 256 × 2² words; a START of a running thread sets cmd_err. -/
theorem test_start :
    ((thrOf (exec (.start .hostS 0 0x40) (stS .idle .none))).state = .running ∧ (thrOf (exec (.start .hostS 0 0x40) (stS .idle .none))).pc = 0x40 ∧
      (thrOf (exec (.start .hostS 0 0x40) (stS .idle .none))).reg 15 = 1024) ∧
    bitAt (((nxt (exec (.start .hostS 0 0x40) base)).getD base).dep 0).fstat 5 = true := by decide +kernel
/-- Slice values at the ends of the legal ranges (size code 5 and 6, base a multiple of its size or not); loader address 0xBFFF and 0xC000; with and without a transfer; a stall that is due; a waiter of higher priority. -/
theorem witness_DepotRegistersAndStalls :
    (base.depUp 0 = true ∧ base.depWriter .hostS 0 = true ∧ (0 : Nat) = depOf 0) ∧
    (((stS .idle .none).thr 0).state = .idle ∧ ((0x8504#32).toNat / 256 % 8 ≤ 5) ∧ (0x8500#32).toNat % 32 % 2 ^ 5 = 0 ∧ ¬ (0x8501#32).toNat % 32 % 2 ^ 5 = 0 ∧
      ¬ (0x8600#32).toNat / 256 % 8 ≤ 5) ∧
    (base.xferActive 0 = false ∧ (baseD fun D => { D with xfer := { D.xfer with phase := .code } }).xferActive 0 = true) ∧
    ((baseD fun D => { D with ldAddr := 0xBFFF }).dep 0).ldAddr.toNat ≤ 0xBFFF ∧ 0xBFFF < ((baseD fun D => { D with ldAddr := 0xC000 }).dep 0).ldAddr.toNat ∧
    (let s := (baseD fun D => { D with stallFrom := some 0, wideFrom := some 0, stallLim := 1 }).setThr 0 { base.thr 0 with state := .blocked, pend := .recv 1 (.eng 0 2) none }
     let s : State := { s with clk := { s.clk with ecyc := 8 } }
     (s.dep 0).stallFrom = some 0 ∧ (s.dep 0).stallLim ≠ 0 ∧ 0 + (s.dep 0).stallLim.toNat ≤ s.rot ∧ (s.dep 0).stallFired = false ∧ s.stallCond 0 false = true ∧
     s.blockStalled = true ∧ s.irq.bstallFired = false) ∧ base.blockStalled = false ∧ (base.dep 0).stallFrom = none ∧
    (let s : State := { base with seals := { base.seals with held := [(64, some { owner := 0, orphan := false, expiry := none })], waits := [{ agent := 1, addr := 64, tag := 0 }] } }
     let s := s.setThr 1 { s.thr 1 with prio := 3, state := .blocked }
     s.live 0 = true ∧ (s.thr 0).prio.toNat < s.prioOf ((0 : Tid).setWidth 13)) ∧
    (let s := baseT fun h => { h with boost := some 3 }
     s.live 0 = true ∧ (s.thr 0).boost ≠ none ∧ s.prioOf ((0 : Tid).setWidth 13) = (s.thr 0).prio.toNat) := by decide +kernel
/-- R87: the loader writes at DEP_LD_ADDR and steps it. -/
theorem test_loader :
    (((nxt (exec (.depLdDataWrite .hostS 0 0x60681000) base)).getD base).dep 0).codeWord 0 = 0x60681000 ∧
    (((nxt (exec (.depLdDataWrite .hostS 0 0x60681000) base)).getD base).dep 0).ldAddr = 1 := by decide +kernel
/-- A depot that is OFF, OFF and due to lose power, in RUN with a pin, DRAINING (by another agent's leave too) and CLEARING; draining with nothing outstanding, with a held enable and while zeroised; draining past its limit with a seal of its own, and before it. -/
theorem witness_DepotPower :
    (base.depUp 0 = true ∧ base.depWriter .hostS 0 = true ∧ base.depWriter .dbg 0 = false ∧ (base.dep 0).state = .run ∧ (base.dep 0).state ≠ .draining) ∧
    (base.depUp 1 = true ∧ base.depWriter .hostS 1 = true ∧ (base.dep 1).state = .off ∧ base.dueOff 1 = false) ∧
    (let s : State := { base with pwr := { base.pwr with target := some .hold } }
     s.depUp 1 = true ∧ s.depWriter .hostS 1 = true ∧ (s.dep 1).state = .off ∧ s.dueOff 1 = true) ∧
    (let s := (pinS base id).setThr 0 { base.thr 0 with state := .blocked, pend := .xstore 0 }
     s.depUp 0 = true ∧ s.depWriter .hostS 0 = true ∧ (s.dep 0).state = .run ∧ s.ownsPin 0 5 = true ∧ (s.thr 0).pend.inFlight = true ∧ (s.thr 1).pend.inFlight = false) ∧
    (let s := baseD fun D => { D with state := .clearing }
     s.depUp 0 = true ∧ s.depWriter .hostS 0 = true ∧ (s.dep 0).state = .clearing) ∧
    (let s := baseD fun D => { D with state := .draining }
     s.depUp 0 = true ∧ s.depWriter .hostS 0 = true ∧ (s.dep 0).state = .draining ∧ s.outstanding 0 = 0 ∧ bitAt s.sec.zdDeps 0 = false ∧ s.dueOff 0 = false ∧ s.srt.reqs = [] ∧ s.seals.waits = [] ∧
     s.clk.bt < (s.dep 0).drainFrom + (s.dep 0).drainTmo.toNat * 9600) ∧
    (let s := baseD fun D => { D with state := .draining, enHeld := some true }
     let s : State := { s with sec := { s.sec with zdDeps := 1 } }
     s.depUp 0 = true ∧ (s.dep 0).state = .draining ∧ s.outstanding 0 = 0 ∧ bitAt s.sec.zdDeps 0 = true) ∧
    (let s := (baseD fun D => { D with state := .draining, drainTmo := 0 }).setThr 0 { base.thr 0 with state := .blocked, pend := .xstore 0 }
     s.depUp 0 = true ∧ (s.dep 0).state = .draining ∧ s.outstanding 0 ≠ 0 ∧ (s.dep 0).drainFrom + (s.dep 0).drainTmo.toNat * 9600 ≤ s.clk.bt ∧ bitAt s.sec.zdDeps 0 = false ∧ s.srt.reqs = [] ∧ s.seals.waits = []) := by
  decide +kernel


/-! ### Exchange memory, seals and sorter -/

/-- A request of thread 0 for operation op at bank 0, tag 0. -/
def rq (op : SOp) : SReq := { code := 0, target := 0, beats := 1, tag := 0, tid := 0, op := op }
/-- base with the given requests at the sorter. -/
def sortS (rs : List SReq) : State := { base with srt := { base.srt with reqs := rs, nextTag := 9 } }
/-- base with pair-word 32 in error e. -/
def errS (s : State) (e : EccErr) : State := { s with xch := { s.xch with err := [(32, some e)] } }
/-- s with every depot normal and no normal region. -/
def normS (s : State) : State := { s with sec := { s.sec with depDom := 0xFFFFFFFF } }
/-- Nothing presented, two requests of which one is overdue, one of each kind alone, clean and uncorrectable words, and a bank the build lacks. -/
theorem witness_SorterArbitrationAndAccess :
    base.inReset = false ∧ base.presented 0 = [] ∧
    (sortS [rq (.rel 64), { rq (.rel 64) with code := 1, tag := 1, tid := 128, overdue := true }]).presented 0 ≠ [] ∧
    (∀ op ∈ [SOp.store 64 [7], .load 64 1 [], .resv 1 5 3, .burst { tid := 0, depot := 1, lc := 5, tag := 0, words := [1] }],
      (sortS [rq op]).presented 0 = [rq op] ∧ (rq op).overdue = false ∧ (sortS [rq op]).inReset = false) ∧
    (base.bankHere 64 = true ∧ base.bankOn 64 = true ∧ base.depNormal (depOf 0) = false) ∧ base.xch.err.get (64 / 2) none = none ∧
    (errS (sortS [rq (.load 64 1 [])]) .double).xch.err.get (64 / 2) none = some .double ∧
    ({ base with pwr := { base.pwr with bankPow := 0 } } : State).bankOn 64 = false ∧
    (let s : State := { normS (sortS [rq (.store 64 [7])]) with srt := (sortS [rq (.store 64 [7])]).srt }
     s.presented 0 = [rq (.store 64 [7])] ∧ s.bankHere 64 = true ∧ s.bankOn 64 = true ∧ s.depNormal (depOf 0) = true ∧ s.wordNormal 64 = false) ∧
    (let s : State := { sortS [rq (.load 0x200000 1 [])] with straps := { base.straps with build := .fl128 } }
     s.presented 0 = [rq (.load 0x200000 1 [])] ∧ s.bankHere 0x200000 = false) := by decide +kernel
/-- An oldest request that is presented; a burst in progress at a target that has a request; a presented request to an Off bank; an overdue request of the host's among two. -/
theorem witness_SorterArbitrationAndAccess_ranks :
    (let l := [rq (.load 64 1 []), rq (.load 65 1 [])]
     ((sortS l).srt.reqs.filter fun r => r.code == 0) = rq (.load 64 1 []) :: [rq (.load 65 1 [])] ∧ (∀ b ∈ (sortS l).srt.bursts, b.code ≠ 0)) ∧
    (let q : SReq := { rq (.store 64 [7]) with code := 1, tid := 128 }
     let s : State := { sortS [q] with srt := { (sortS [q]).srt with bursts := [{ code := 2, target := 0, beats := 4, msg := { tid := 0, depot := 1, lc := 5, tag := 0, words := [1] } }] } }
     (∀ r ∈ s.presented 0, ¬ r.off s = true) ∧ s.presented 0 = [q] ∧ (∃ b ∈ s.srt.bursts, b.target = 0)) ∧
    (let s : State := { sortS [rq (.store 64 [7])] with pwr := { base.pwr with bankPow := 0 } }
     s.inReset = false ∧ (∀ r ∈ s.presented 0, r.off s = true) ∧ s.presented 0 = [rq (.store 64 [7])] ∧ (∀ q ∈ s.srt.reqs, q.tag = 0 → q = rq (.store 64 [7]))) ∧
    (let a : SReq := rq (.store 64 [7])
     let q : SReq := { rq (.store 66 [7]) with code := 42, tag := 1, overdue := true }
     let s := sortS [a, q]
     (∀ r ∈ s.presented 0, ¬ r.off s = true) ∧ s.presented 0 = [a, q] ∧ (∀ b ∈ s.srt.bursts, b.target ≠ 0)) := by decide +kernel
/-- R175: the higher input wins in one rank; R176: an overdue request wins over both. -/
theorem test_grant :
    ((((nxt (exec (.sorterGrant 0) (sortS [rq (.load 64 1 []), { rq (.load 65 1 []) with code := 1, tag := 1, tid := 128 }]))).getD base).srt.reqs.map (·.tag)) = [0]) ∧
    ((((nxt (exec (.sorterGrant 0) (sortS [{ rq (.load 64 1 []) with overdue := true }, { rq (.load 65 1 []) with code := 1, tag := 1, tid := 128 }]))).getD base).srt.reqs.map (·.tag)) = [1]) := by
  decide +kernel
/-- base at FCLK cycle n with a house operation of cycle 0 on pair-word 32 waiting, the last inserted in cycle m. -/
def houseS (n m : Nat) : State := { base with srt := { base.srt with house := [(0, 32, 0, 0)], houseAt := if m = 0 then [] else [(0, m)] }, clk := { base.clk with fcyc := n } }
/-- Both sides of the window of the counters and of its next; a request at the limit of its count, one below it and one blocked; a writer with and without the right; a map that is a permutation and one that is not; a house operation on a clean, correctable and uncorrectable pair-word, with 16 and 15 cycles passed and with 17 and 16 since the last; a bank with a request. -/
theorem witness_SorterMapAndEcc :
    (let s : State := { base with clk := { base.clk with bt := 19200000 }, srt := { base.srt with starveWin := 1 } }
     s.srt.winTick + 2000 * max 1 s.srt.starveWin.toNat ≤ s.usTick ∧ s.usTick < s.srt.winTick + (2000 + 1) * max 1 s.srt.starveWin.toNat ∧
      base.usTick < base.srt.winTick + max 1 base.srt.starveWin.toNat) ∧
    (let q (n : Nat) : SReq := { rq (.store 64 [7]) with wait := n }
     (sortS [q 16]).presented 0 = [q 16] ∧ max 1 ((sortS [q 16]).srt.wlim.get 0 0x10).toNat ≤ (q 16).wait ∧ (q 15).wait < max 1 ((sortS [q 15]).srt.wlim.get 0 0x10).toNat ∧
     (∀ b ∈ (sortS [q 16]).srt.blockers, ¬(b.1 = 0 ∧ b.2.1 = 0)) ∧ ∃ b ∈ ({ base.srt with blockers := [(0, 0, [1])] } : Sorter).blockers, b.1 = 0 ∧ b.2.1 = 0) ∧
    (base.globalWriter .hostS = true ∧ base.globalWriter .hostN = false ∧ base.inReset = false ∧ base.shUp = false) ∧
    (((List.range 44).map fun i => base.srt.shadow.get i i).Perm (List.range 44) ∧
      ¬ ((List.range 44).map fun i => ({ base.srt with shadow := [(0, 1)] } : Sorter).shadow.get i i).Perm (List.range 44)) ∧
    (let s := houseS 16 0
     s.srt.house.find? (fun x => x.2.1 == 32) = some (0, 32, 0, 0) ∧ s.presented (2 * 32 / 65536) = [] ∧ s.srt.house.find? (fun x => x.1 == 0 && decide (x.2.2.1 + 16 ≤ s.clk.fcyc)) = some (0, 32, 0, 0) ∧
     s.xch.err.get 32 none = none ∧ (errS s .single).xch.err.get 32 none = some .single ∧ (errS s .double).xch.err.get 32 none = some .double ∧
     (∀ x ∈ (houseS 15 0).srt.house, x.1 = 0 → (houseS 15 0).clk.fcyc < x.2.2.1 + 16)) ∧
    ((houseS 20 4).srt.houseAt.get 0 0 + 17 ≤ (houseS 20 4).clk.fcyc + 1 ∧ ¬ ((houseS 20 5).srt.houseAt.get 0 0 = 0 ∨ (houseS 20 5).srt.houseAt.get 0 0 + 17 ≤ (houseS 20 5).clk.fcyc + 1)) ∧
    (sortS [rq (.store 64 [7])]).presented (2 * 32 / 65536) ≠ [] := by decide +kernel
/-- The scrubber at its last pair-word: in its slot with a clean, a correctable and an uncorrectable pair-word, before the slot, and disabled. -/
theorem witness_SorterMapAndEcc_scrub :
    (let s : State := { base with xch := { base.xch with scrubPos := 2097151 } }
     let e (x : EccErr) : State := { s with xch := { s.xch with err := [(2097151, some x)] } }
     let q := (e .single).atPoint 46 4194302
     s.xch.scrubEn = true ∧ s.pwr.state ≠ .hold ∧ s.pwr.target ≠ some .hold ∧ s.xch.scrubPos < s.nBank * 32768 ∧ s.xch.scrubPos + 1 = s.nBank * 32768 ∧
     bitAt s.pwr.bankPow (s.xch.scrubPos / 32768) = true ∧ s.xch.scrubDue ≤ s.clk.bt * (s.nBank * 32768) ∧
     (s.atPoint 46 4194302).xch.err.get 2097151 none = none ∧ q.xch.err.get 2097151 none = some .single ∧
     (({ q with xch := { q.xch with ceCnt := satInc q.xch.ceCnt } } : State).houseCycle 4194302).xch.err.get 2097151 none = some .single ∧
     ((e .double).atPoint 46 4194302).xch.err.get 2097151 none = some .double) ∧
    base.clk.bt * (base.nBank * 32768) < ({ base.xch with scrubDue := 1 } : Xch).scrubDue ∧
    ({ base.xch with scrubEn := false } : Xch).scrubEn = false ∧ base.srt.reqs = [] := by decide +kernel
/-- R152: the scrubber corrects and counts a single error. -/
theorem test_scrub :
    (let s := { base with xch := { base.xch with err := [(0, some EccErr.single)] } }
     let t := (nxt (exec .scrubRead s)).getD base
     t.xch.err = [] ∧ t.xch.ceCnt = 1 ∧ t.xch.scrubPos = 1) := by decide +kernel

/-- base with the alias of host secure at word 64, and a seal there of owner o that ends at tick e. -/
def sealS (o : Option (BitVec 13)) (e : Option Nat) : State :=
  { base with seals := { base.seals with banks := [(2, { addr := 64 })], held := match o with | some a => [(64, some { owner := a, orphan := false, expiry := e })] | none => [] } }
/-- Word 64 at a powered bank with no error (R151, R152). -/
def cleanS (s : State) : Prop := s.bankHere 64 = true ∧ s.bankOn 64 = true ∧ s.xch.err.get (64 / 2) none = none
/-- The alias at a clean word that is free, held by the agent and held by another; one agent waiting; a lease at its end and before it, alone and with the holder's release presented; a Postmaster in an FL256. -/
theorem witness_Seals :
    (let s := sealS none none
     s.inReset = false ∧ s.MayAccess .hostS 64 ∧ (s.alias .hostS).addr.toNat = 64 ∧ cleanS (s.atPoint 42 64) ∧ (s.atPoint 42 64).sealAt 64 = none ∧ (s.atPoint 42 64).seals.held.length < 1024) ∧
    (let p := (sealS (some 0x1010) none).atPoint 42 64
     cleanS p ∧ p.sealAt 64 = some { owner := 0x1010, orphan := false, expiry := none } ∧ (sealS none none).sealId .hostS = 0x1010 ∧
      (¬ ∃ y ∈ p.seals.waits, y.addr = 64 ∨ p.sealAt y.addr = none)) ∧
    (((sealS (some 5) none).atPoint 42 64).sealAt 64 = some { owner := 5, orphan := false, expiry := none } ∧ (sealS (some 5) none).MayAccess .hostS 64) ∧
    (let s : State := { sealS (some 0x1010) none with seals := { (sealS (some 0x1010) none).seals with waits := [{ agent := 0x1011, addr := 64, tag := 0 }] } }
     s.MayAccess .hostS 64 ∧ cleanS (s.atPoint 42 64) ∧ (s.atPoint 42 64).seals.waits = [{ agent := 0x1011, addr := 64, tag := 0 }] ∧ agentId .hostN = 0x1011 ∧
      (s.atPoint 42 64).sealAt 64 = some { owner := 0x1010, orphan := false, expiry := none }) ∧
    ((0 : Nat) ≤ (sealS (some 5) (some 0)).usTick ∧ (sealS (some 5) (some 0)).srt.reqs = [] ∧ cleanS (sealS (some 5) (some 0)) ∧ (sealS (some 5) (some 1)).usTick < 1 ∧
      (sealS (some 5) (some 1)).sealAt 64 = some { owner := 5, orphan := false, expiry := some 1 } ∧ (¬ ∃ y ∈ (sealS (some 5) (some 0)).seals.waits, y.addr = 64 ∨ (sealS (some 5) (some 0)).sealAt y.addr = none)) ∧
    (let r : SReq := { rq (.rel 64) with tid := 5 }
     let s : State := { sealS (some 5) (some 0) with srt := (sortS [r]).srt }
     s.sealAt 64 = some { owner := 5, orphan := false, expiry := some 0 } ∧ s.presented (64 / 65536) = [r] ∧ (∀ b ∈ s.srt.bursts, b.target ≠ 64 / 65536) ∧ r.tid.setWidth 13 = 5#13 ∧
      s.depNormal (depOf r.tid) = false) ∧
    (let s : State := { sealS (some 5) none with straps := { base.straps with build := .fl256 } }
     s.straps.build ≠ .fl512 ∧ s.srt.reqs = [] ∧ cleanS s ∧ s.sealAt (64 % 2 ^ 22) ≠ none) := by
  unfold State.MayAccess cleanS; refine ⟨?_, ?_, ?_, ?_, ?_, ?_, ?_⟩ <;> decide +kernel
/-- Table 5.3: the word of a seal held by host secure; released, the mirror is 0. -/
theorem test_seal :
    (let t := (nxt (exec (.sealAliasAcq .hostS) (sealS none none))).getD base
     t.rdata = 0x9010 ∧ t.xch.mem.read16 128 = 0x9010 ∧ ((nxt (exec (.sealAliasRel .hostS) t)).getD base).xch.mem.read16 128 = 0) := by decide +kernel
/-- An aligned pair-word at the start and the end of exchange memory, a burst outside, a register access of 4 bytes asked with 8. -/
theorem witness_HostPort :
    base.portUp = true ∧ base.hrsp.length < 32 ∧ (0x7FFFFC#25).toNat < 0x800000 ∧ (0x7FFFFC#25).toNat % 4 = 0 ∧ base.inHold = false ∧ base.MayAccess .hostS (0x7FFFFC / 2) ∧
    (base.atPoint 42 (0x7FFFFC / 2)).xch.err.get (0x7FFFFC / 4) none = none ∧ (base.atPoint 43 (0x7FFFFC / 2)).xch.err.get (0x7FFFFC / 4) none = none ∧ (3#3) ≠ 0 ∧ 64 < 48 % 64 + 8 * ((3#3).toNat + 1) ∧ 0x810000 ≤ (0x1090000#25).toNat ∧
    ¬(0x10C0000 ≤ (0x1090000#25).toNat ∧ (0x1090000#25).toNat < 0x1100000) ∧ ¬(0x1400000 ≤ (0x1090000#25).toNat ∧ (0x1090000#25).toNat < 0x1500000) ∧ (3#2) ≠ 2 := by
  unfold State.MayAccess; decide +kernel
/-- R149: the low half of a pair-word lies at the lower address; a read gives it back on the upper lanes at address 4. -/
theorem test_hostWrite :
    (let t := (nxt (exec (.hostWrite 1 true 4 2 [(0x1234567800000000, 0xF0)]) base)).getD base
     t.xch.mem.read16 4 = 0x5678 ∧ t.xch.mem.read16 6 = 0x1234 ∧ t.hrsp = [{ id := 1, beats := [(0, false)] }] ∧
     ((nxt (exec (.hostRead 2 true 4 2 0) t)).getD base).hrsp = [{ id := 1, beats := [(0, false)] }, { id := 2, beats := [(0x1234567800000000, false)] }]) := by decide +kernel

/-! ### The postmark unit -/

/-- base with reference k as r, at block time bt. -/
def refS (k : Nat) (r : Ref) (bt : Nat) : State := { base with clk := { base.clk with bt := bt } }.setRef k r
/-- An agent that reads and one that does not; each outcome of a conversion; an enabled and a disabled reference in a mode it has and one it lacks. -/
theorem witness_PostmarkReadsAndControl :
    base.mayRead .hostN = true ∧ base.mayRead .dbg = false ∧ (7 : Nat) < 8 ∧
    (let s := (pmS 1001).setPbank .hostS { convLo := 1001 }
     s.convert ((0xA000#32).extractLsb' 0 16 ++ (s.pbank .hostS).convLo) = .ok 1001 ∧ s.convert ((0x0#32).extractLsb' 0 16 ++ (s.pbank .hostS).convLo) = .invalidRef ∧
     s.convert ((0xA003#32).extractLsb' 0 16 ++ (s.pbank .hostS).convLo) = .far) ∧
    ((BitVec.ofNat 48 (5 * 2 ^ 45 + 7)).extractLsb' 45 3 = 5 ∧ (7 : Int) % 2 ^ 45 = ((BitVec.ofNat 48 (5 * 2 ^ 45 + 7)).extractLsb' 0 45).toNat ∧ ((base.clk.bt : Int) - 2 ^ 44 ≤ 7)) ∧
    (base.pmkWriter .hostS = true ∧ base.pmkWriter .hostN = false ∧ bitAt (base.ref 0).cfg 31 = false ∧ (0x80000000#32).toNat / 2 ^ 26 % 4 ≤ 1 ∧
      (0x88000000#32).toNat / 2 ^ 26 % 4 = 2 ∧ (0x8C000000#32).toNat / 2 ^ 26 % 4 = 3) ∧
    bitAt ((refS 0 { cfg := 0x80004000, state := .locked } 9).ref 0).cfg 31 = true ∧ bitAt ((refS 3 { cfg := 0x88004000, state := .locked } 9).ref 3).cfg 31 = true := by decide +kernel
/-- R48, R57: a pair of block time, with a postmark 8 ahead that rounds to 8, one 2^33 + 1 ahead and a pair that is not valid. -/
theorem witness_PostmarkReadsAndControl_pair :
    (let s := pmS 0
     let y (n : Nat) : BitVec 48 := BitVec.ofNat 48 (5 * 2 ^ 45 + n)
     let c := s.pair 5
     c.valid = true ∧ c.pos < 2 ^ 45 ∧ ((y 1008).extractLsb' 45 3).toNat = 5 ∧ ((8 : Int) - (((y 1008).extractLsb' 0 45).toNat - c.pos)) % 2 ^ 45 = 0 ∧
     2 * (8 : Int) * c.rho + 2 ^ 40 - 2 ^ 41 < 8 * 2 ^ 41 ∧ 8 * 2 ^ 41 ≤ 2 * (8 : Int) * c.rho + 2 ^ 40 ∧ ¬ (s.clk.bt : Int) + 2 ^ 33 < c.b + 8 ∧
     (let d : Int := 2 ^ 33 + 1
      (d - (((y (1000 + 2 ^ 33 + 1)).extractLsb' 0 45).toNat - c.pos)) % 2 ^ 45 = 0 ∧ 2 * d * c.rho + 2 ^ 40 - 2 ^ 41 < d * 2 ^ 41 ∧ d * 2 ^ 41 ≤ 2 * d * c.rho + 2 ^ 40 ∧ (s.clk.bt : Int) + 2 ^ 33 < c.b + d) ∧
     (s.pair 0).valid = false) := by decide +kernel
/-- refS with pin 0, that of the reference, as function f. -/
def compS (f : PinFn) (k : Nat) (r : Ref) (bt : Nat) : State := (refS k r bt).setPin 0 { base.pin 0 with fn := f }
/-- A LOCKED tracker with a crossing on time and one 45° late, a crossing missed the second and the third time; the first crossing of an acquisition and the fourth of its second stage; the second good one of a holdover; both sides of the holdover time. -/
theorem witness_TrackerEvents :
    (let ok (s : State) (tx : Nat) : Prop := s.inReset = false ∧ (s.ref 0).samp = false ∧ (s.pin ((s.ref 0).cfg.toNat / 65536 % 1024)).fn = .comp ∧ tx ≤ s.clk.bt ∧ (s.ref 0).lastX < (tx + tx) / 2
     let on : Ref := { cfg := 0x80004000, state := .locked, p := 2 ^ 31, b := 1000, freq := 50 * 2 ^ 32, lastX := 1 }
     let late : Ref := { on with p := 2 ^ 31 + 2 ^ 29 }
     let acq : Ref := { cfg := 0x80004000, state := .acquiring }
     let two : Ref := { acq with stage2 := some (3, 192000000, 768000000) }
     let hld : Ref := { cfg := 0x80004000, state := .holdover, good := 1, lastX := 1000, lastRise := false, freq := 50 * 2 ^ 32, nom := 0x00E60000, hold := 1 }
     (ok (compS .comp 0 on 1000) 1000 ∧ 12 * ((nearHalf (on.line 1000) false) * 2 ^ 31 - on.line 1000).natAbs ≤ 2 ^ 32) ∧
     (ok (compS .comp 0 late 1000) 1000 ∧ 2 ^ 32 < 12 * ((nearHalf (late.line 1000) false) * 2 ^ 31 - late.line 1000).natAbs) ∧
     (ok (compS .comp 0 acq 1000) 1000 ∧ acq.acq = [] ∧ acq.stage2 = none) ∧
     (ok (compS .comp 0 two 960000000) 960000000 ∧ ((4 * 960000000 : Int) - 4 * 192000000 - 4 * 768000000).natAbs * 360 < 768000000) ∧
     (ok (compS .comp 0 hld 96001000) 96001000 ∧ goodCrossing hld 0 true 96001000 0 = true ∧ hld.good = 1) ∧
     (((on.nextC * 2 ^ 31 + 2 ^ 29 : Nat) : Int) ≤ on.line 1000000000) ∧ on.miss < 2 ∧ on.nextC + 1 ≠ on.nextC ∧ 2 ≤ ({ on with miss := 2 } : Ref).miss ∧
     (0 + hld.holdBt ≤ 9600000 ∧ 9599999 < 0 + hld.holdBt ∧ hld.state = .holdover)) := by
  refine ⟨?_, ?_, ?_, ?_, ?_, ?_, ?_, ?_, ?_, ?_⟩ <;> decide +kernel
/-- A SAMP tracker whose samples cross, at a level below its bound; an edge of a user reference's pin; a disabled reference; pins of another function. -/
theorem witness_TrackerEvents_sample :
    (let r : Ref := { cfg := 0x84004000, state := .acquiring, dec := { x0 := -1, x1 := 1, t0 := 500, t1 := 700 }, lastX := 1 }
     let s := compS .des 0 r 1000
     s.inReset = false ∧ (s.ref 0).samp = true ∧ (s.pin ((s.ref 0).cfg.toNat / 65536 % 1024)).fn = .des ∧ r.dec.crosses true = true ∧ r.lastX < r.dec.crossAt ∧ r.dec.crossAt ≤ s.clk.bt ∧
     s.halfLevel 0 < 100 * (r.bound.toNat / 65536 % 256) ∧ r.sagged = false ∧ ((compS .gpio 0 r 1000).pin 0).fn ≠ .des) ∧
    (let r : Ref := { cfg := 0x8C004000, state := .acquiring }
     let s := compS .ref 6 r 1000
     (s.ref 6).state = .acquiring ∧ (s.ref 6).samp = false ∧ (s.pin ((s.ref 6).cfg.toNat / 65536 % 1024)).fn = .ref ∧ (s.pin 0).blankBt ≤ 1000 ∧ (1000 : Nat) ≤ s.clk.bt ∧ r.lastX < 1000 ∧ r.acq = [] ∧ r.stage2 = none) ∧
    (base.ref 0).state = .disabled ∧ (base.ref 0).samp = false ∧ (base.pin 0).fn ≠ .comp ∧ (base.pin 0).fn ≠ .ref := by decide +kernel
theorem witness_PtpCommands :
    isPm .pmA = true ∧ isPm .hostS = false ∧ base.inReset = false ∧ base.refValid 3 = false ∧ base.refValid 4 = false ∧
    (refS 3 { cfg := 0x88004000, state := .locked } 0).refValid 3 = true ∧ (base.ref 4).state = .disabled ∧
    ((1000000000#32).toInt.natAbs ≤ 1000000000 ∧ 1000000000 < (1000000001#32).toInt.natAbs) ∧
    (let s := refS 3 { cfg := 0x88004000, state := .locked } 960000000
     s.pmk.wdog ≠ 0 ∧ s.pmk.wdogFrom + s.pmk.wdog.toNat * 9600000 ≤ s.clk.bt ∧ (s.ref 3).state = .locked) ∧ ({ base.pmk with wdog := 0 } : Pmk).wdog = 0 ∧
    (let s : State := { pmS 0 with pmk := { base.pmk with alarmEn := true, alarmPm := BitVec.ofNat 48 (5 * 2 ^ 45 + 1000) } }
     s.pmk.alarmEn = true ∧ s.refValid 5 = true ∧ (s.posAt 5 s.clk.bt + 2 ^ 45 - 1000) % 2 ^ 45 < 2 ^ 44) ∧ base.pmk.alarmEn = false := by decide +kernel
/-- R451: the first crossing starts the first stage. -/
theorem test_crossing : (((nxt (exec (.mainsCrossing 0 true 998 1002) (compS .comp 0 { cfg := 0x80004000, state := .acquiring } 1002))).getD base).ref 0).acq = [1000] := by decide +kernel

/-! ### The pin unit -/

/-- base with pin 5 as given. -/
def pinP (p : Pin) : State := base.setPin 5 p
/-- A change of owner by a global writer, normal pins, other writers; each cause of a refused function and one that is taken. -/
theorem witness_PinConfiguration :
    (base.inReset = false ∧ 767 < base.nPin ∧ base.globalWriter .hostS = true ∧ base.globalWriter .hostN = false ∧ base.pinNormal 5 = false ∧
      (0x61#32).toNat / 32 % 4 = 3 ∧ (0x61#32).toNat / 32 % 4 ≠ (base.pin 5).ownKind.toNat ∧ base.depNormal 1 = false ∧ (0x40#32).toNat / 32 % 4 = 2) ∧
    ((3 : Nat) = ((pinS base id).pin 5).ownKind.toNat ∧ ¬((3 : Nat) ≠ ((pinS base id).pin 5).ownKind.toNat ∨ (3 = 3 ∧ 0 ≠ ((pinS base id).pin 5).ownDep.toNat)) ∧ ¬((0 : Nat) ≠ (base.pin 5).ownKind.toNat ∨ ((0 : Nat) = 3 ∧ 1 ≠ (base.pin 5).ownDep.toNat))) ∧
    ((0x41#32).toNat % 4 = 1 ∧ (base.pin 5).elec.toNat % 4 = 1 ∧ (0x43#32).toNat % 4 = 3) ∧
    (base.pinWriter .hostS 5 = true ∧ base.pinWriter .hostN 5 = false ∧ funcCause base 5 1 = none ∧ funcCause base 5 2 = some 2) ∧
    (bitAt (0x40#32) 6 = true ∧ (base.pin 5).fsel = 0 ∧ ((pinP { func := 1, fn := .gpio }).pin 5).fsel = 1 ∧ (3#32).toNat % 4 = 3) ∧
    (8 < (9#32).toNat % 16 ∧ (base.pin 5).ownKind ≠ 3 ∧ ((pinS base id).pin 5).ownKind = 3) ∧
    (bitAt (base.pin 5).elec 6 = false ∧ bitAt ((pinP { elec := 0x40 }).pin 5).elec 6 = true) ∧
    (bitAt (base.pring 0).cfg 4 = false ∧ (∃ e ∈ (base.setPin 6 { func := 0x10004 }).pins.pins, e.1 ≠ 5 ∧ e.2.fsel = 4 ∧ e.2.sink = 2 ∧ e.2.ring = 0) ∧
      ((base.setBck 0 { per := 12287 }).bck 0).per.toNat < 12288) := by decide +kernel
/-- base with pin 5 as given at block time bt, an entry of depot 0 for pin 5 crossing. -/
def xpin (p : Pin) (bt : Nat) : State :=
  let s := pinP p
  { s with clk := { s.clk with bt := bt }, pins := { s.pins with xord := [(0, 5)] } }
/-- A takeover due, one to the safe state, one rotation early and one that waits for ECLK; an entry of each fate: on a pin of another function, within 24 BT, behind others, in time by 8 BT and late; an entry of pin 6 before it; a late level to drive; the head entry due and not. -/
theorem witness_PinEdges :
    base.pinRuns = true ∧ (let p := (pinP { func := 1, ho := some (0, false) }).pin 5; p.ho = some (0, false) ∧ p.hoHeld = false ∧ 0 ≤ base.pinRot ∧ p.fsel = 1) ∧
    (let p := (pinP { ho := some (0, true), elec := 0x300 }).pin 5; p.ho = some (0, true) ∧ p.hoHeld = false ∧ p.fsel = 0 ∧ p.elec.toNat / 256 % 4 = 3) ∧
    base.pinRot < 1 ∧ ((pinP { ho := some (0, false), hoHeld := true }).pin 5).hoHeld = true ∧ (base.pin 5).ho = none ∧
    (let s := xpin { func := 2, fn := .edge, eqX := [(1008, true)] } 1000
     s.pinRuns = true ∧ (s.pin 5).fsel = 2 ∧ (s.pin 5).fn = .edge ∧ (s.pin 5).eqX = (1008, true) :: [] ∧ s.pins.xord = (0, 5) :: [] ∧ (s.pin 5).eq = [] ∧ (s.pin 5).lastTau = none ∧
     s.clk.bt + 8 ≤ (1008#64).toNat / 8 * 8 ∧ (1008#64).toNat / 8 * 8 < 1001 + 8) ∧
    ((1023#64).toNat < (1000#64).toNat + 24 ∧ ¬ (1024#64).toNat < (1000#64).toNat + 24 ∧ ((xpin { func := 2, eq := [(1000, true)], eqX := [(1024, false)] } 0).pin 5).eq ≠ []) ∧
    ((pinP { func := 1, eqX := [(1024, false)] }).pin 5).fsel ≠ 2 ∧
    (let s := (xpin { func := 2, eqX := [(1024, false)] } 0).setPin 6 { func := 2, eqX := [(9, true)] }
     let s : State := { s with pins := { s.pins with xord := [(0, 6), (0, 5)] } }
     (6 : Nat) ≠ 5 ∧ (s.pin 5).eqX = (1024, false) :: [] ∧ (s.pin 6).eqX = (9, true) :: [] ∧ s.pins.xord = (0, 6) :: (0, 5) :: []) ∧
    (let s := xpin { func := 2, fn := .edge, emit := some (1008, true) } 1000
     s.pending = [] ∧ (s.pin 5).emit = some (1008, true) ∧ 1008 ≤ s.clk.bt + 8) ∧
    (let s := xpin { func := 2, fn := .edge, eq := [(1000, true)] } 1000
     (s.pin 5).eq = [(1000, true)] ∧ (s.pin 5).fn = .edge ∧ (1000#64).toNat / 8 * 8 ≤ s.clk.bt ∧ ({ s with clk := { s.clk with bt := 999 } } : State).clk.bt < (1000#64).toNat / 8 * 8) := by decide +kernel
/-- R207: the head entry drives the pin at the edge its time names. R208, Table 7.4: an edge found late at 1000 is not driven in its own edge. -/
theorem test_edge :
    (((nxt (exec (.edgeApply 5) { pinP { func := 2, fn := .edge, eq := [(1000, true)] } with clk := { base.clk with bt := 1000 } })).getD base).pin 5).drv = true ∧
    (((nxt (exec (.edgeEntry 5) (xpin { func := 2, fn := .edge, eqX := [(900, true)] } 1000))).getD base).pin 5).emit = some (1008, true) := by decide +kernel
/-- pinP with bit clock 0 on, 24 BT a bit from 0, at block time bt. -/
def bitS (p : Pin) (bt : Nat) : State :=
  let s := (pinP p).setBck 0 { en := true }
  { s with clk := { s.clk with bt := bt } }
/-- The write alias of both kinds; bit clocks off and on; a serializer at its boundary with a word and with none, and 8 BT past it; a deserializer at the centre of its last bit and 1 BT before, with three words and four; one that samples by edges of pin 0. -/
theorem witness_PinStreams :
    (base.mayRead .hostS = true ∧ 16 * ((0x2F000001#32).toNat / 2 ^ 24 % 64) < base.nPin ∧ bitAt (0x2F000001#32) 31 = false ∧ bitAt (0xAF000001#32) 31 = true ∧ isPm .hostS = false) ∧
    (base.globalWriter .hostS = true ∧ base.globalWriter .hostN = false ∧ base.inReset = false ∧ (31 : Nat) < 32 ∧ (base.bck 31).en = false ∧ ((base.setBck 0 { en := true }).bck 0).en = true) ∧
    (let s := bitS { func := 3, fn := .ser, serq := [7] } 0
     let c := s.bck (s.pin 5).bclk
     s.pinRuns = true ∧ c.en = true ∧ c.bit s.clk.bt / 16 = 0 ∧ c.t0.toNat + (16 * 0 * c.per.toNat + 128) / 256 ≤ s.clk.bt ∧ s.clk.bt < c.t0.toNat + (16 * 0 * c.per.toNat + 128) / 256 + 8 ∧
     (s.pin 5).foBt ≤ c.t0.toNat + (16 * 0 * c.per.toNat + 128) / 256 ∧ c.enBt ≤ c.t0.toNat + (16 * 0 * c.per.toNat + 128) / 256 ∧ (s.pin 5).wordJ.getD 0 ≤ 0 ∧
     (s.pin 5).serq = 7 :: [] ∧ bitAt (s.pin 5).func 21 = false ∧ bitAt ((pinP { func := 0x200003 }).pin 5).func 21 = true) ∧
    (let s := bitS { func := 0x100003, fn := .ser, serOn := true, wordJ := some 1 } 384
     let c := s.bck (s.pin 5).bclk
     s.pinRuns = true ∧ c.bit s.clk.bt / 16 = 1 ∧ c.t0.toNat + (16 * 1 * c.per.toNat + 128) / 256 = s.clk.bt ∧ (s.pin 5).serq = [] ∧ (s.pin 5).idle = 2 ∧ (s.pin 5).serOn = true) ∧
    (let s := bitS { func := 3, fn := .ser, serq := [7] } 8
     let c := s.bck (s.pin 5).bclk
     c.bit s.clk.bt / 16 = 0 ∧ c.t0.toNat + (16 * 0 * c.per.toNat + 128) / 256 + 8 ≤ s.clk.bt) ∧
    (let s := bitS { func := 0x8004, fn := .des, desq := [1, 2, 3], wordJ := some 0 } 372
     let c := s.bck (s.pin 5).bclk
     let m (i : Nat) : Nat := c.t0.toNat + (2 * i * c.per.toNat + c.per.toNat + 256) / 512
     s.pinRuns = true ∧ (s.pin 5).fn = .des ∧ bitAt (s.pin 5).func 23 = false ∧ c.en = true ∧ (s.pin 5).wordJ = some 0 ∧ m (16 * 0 + 15) ≤ s.clk.bt ∧ 371 < m (16 * 0 + 15) ∧ (∀ i, i < 16 → (s.pin 5).blankBt ≤ m (16 * 0 + i)) ∧
     (s.pin 5).sink = 1 ∧ (s.pin 5).desq.length < 4 ∧ 4 ≤ ((s.pin 5).desq ++ [4]).length) ∧
    (let s := pinP { func := 0x808004, fn := .des, desq := [1, 2, 3] }
     s.pinRuns = true ∧ (s.pin 5).fn = .des ∧ bitAt (s.pin 5).func 23 = true ∧ (s.pin (16 * (5 / 16) + (s.pin 5).func.toNat / 2 ^ 24 % 16)).ana = false ∧ (s.pin 5).blankBt ≤ s.clk.bt ∧ (s.pin 5).sink = 1 ∧ (s.pin 5).desq.length < 4) := by
  refine ⟨?_, ?_, ?_, ?_, ?_, ?_, ?_⟩ <;> decide +kernel
/-- A RECORDS ring with 28 words buffered and with 29; an edge within 16 TCLK edges of a record still in the buffer; a pattern that matches after its dwell, one before it and one that is left; the settle time over; rings that keep and break the rules of R218. -/
theorem witness_CapturesAndRings :
    (let s := (pinP { func := 0x20006, fn := .capture }).setPring 0 { cfg := 0x80000010, buf := List.replicate 28 0 }
     s.pinRuns = true ∧ (s.pin 5).fn = .capture ∧ (s.pin 5).capBt = none ∧ (s.pin 5).blankBt ≤ s.clk.bt ∧ (s.pin 5).edges % 2 = 1 ∧ (s.pring (s.pin 5).ring).en = true ∧
     (s.pring 0).records = true ∧ (s.pring 0).buf.length ≤ 28 ∧ (s.pring 0).stage = 0 ∧ 28 < ((s.pring 0).buf ++ [0]).length) ∧
    (let s := (pinP { func := 0x20006, fn := .capture, capBt := some 0, capRec := 1 }).setPring 0 { cfg := 0x80000010, buf := List.replicate 4 0 }
     (s.pin 5).capBt = some 0 ∧ s.clk.bt < 0 + 128 ∧ (s.pin 5).blankBt ≤ s.clk.bt ∧ (s.pring 0).cnt.toNat < (s.pin 5).capRec ∧ (s.pring 0).en = true ∧ (s.pring 0).records = true ∧
     4 * ((s.pin 5).capRec - (s.pring 0).cnt.toNat) + 3 < ({ (s.pring 0) with buf := List.replicate 8 0 } : PRing).buf.length) ∧
    (base.pin 5).fn ≠ .capture ∧ base.clk.bt < ({ blankBt := 1 } : Pin).blankBt ∧
    (let g : SReq := { code := 40, target := 0, beats := 2, tag := 0, tid := 0, op := .ring 0 }
     ∀ st ∈ [1, 2, 3], let s := (sortS [g]).setPring 0 { cfg := 0x80000010, buf := [1, 2, 3, 4], stage := st, base := 64, ch := 0x80000000 }
       let x := s.pring 0
       s.inReset = false ∧ s.presented 0 = [g] ∧ (∀ e ∈ s.srt.bursts, e.target ≠ 0) ∧ x.en = true ∧ s.bankOn x.base.toNat = true ∧ s.bankHere (x.dataAt + 3) = true ∧ x.base.toNat % 8 = 0 ∧ x.base.toNat ≤ x.dataAt ∧
       x.records = true ∧ 4 ≤ x.buf.length ∧ x.stage = st ∧ bitAt x.ch 31 = true) ∧
    (let s : State := { base with pins := { base.pins with pats := [(31, { cfg := 0x10000001, mp := 0xFFFF0003, ch := 0x80000000 })] }, clk := { base.clk with bt := 9600 } }
     let q := s.pins.pats.get 31 {}
     s.inReset = false ∧ 16 * (q.cfg.toNat / 2 ^ 22 % 64) < s.nPin ∧ q.cfg.toNat / 2 ^ 28 % 2 = 1 ∧ (((s.seen 0 3 ^^^ q.mp.extractLsb' 0 16) &&& q.mp.extractLsb' 16 16 = 0)) ∧
     q.since + q.cfg.toNat % 65536 * 9600 + 0 ≤ s.clk.bt ∧ 9599 < q.since + q.cfg.toNat % 65536 * 9600 + 0) ∧
    (let s : State := { base with pins := { base.pins with pats := [(31, { cfg := 0x20000000, mp := 0xFFFF0003, last := some true })] }, clk := { base.clk with bt := 8 } }
     let q := s.pins.pats.get 31 {}
     2 ≤ q.cfg.toNat / 2 ^ 28 % 4 ∧ ¬ (((s.seen 0 4 ^^^ q.mp.extractLsb' 0 16) &&& q.mp.extractLsb' 16 16 = 0)) ∧ q.since + q.cfg.toNat % 65536 * 9600 + 8 ≤ s.clk.bt) ∧
    (let s : State := { pinP { oe := true } with clk := { base.clk with bt := 384 } }
     let p := s.pin 5
     p.oe = true ∧ p.ana = false ∧ s.lastChange 5 + 8 * s.pins.mmSettle.toNat ≤ 384 ∧ 127 < s.lastChange 5 + 8 * (16#32).toNat) ∧ (base.pin 5).oe = false := by
  refine ⟨?_, ?_, ?_, ?_, ?_, ?_, ?_, ?_, ?_⟩ <;> decide +kernel
/-- R218: rings that keep and break its rules; one that is on. -/
theorem witness_CapturesAndRings_rings :
    (base.pring 15).en = false ∧ (base.setPring 0 { cfg := 0x80000000 } |>.pring 0).en = true ∧ base.globalWriter .hostS = true ∧ base.srt.reqs = [] ∧ (0 : Nat) % 8 = 0 ∧ (9#32).toNat % 16 ≤ 9 ∧ ¬ (10#32).toNat % 16 ≤ 9 ∧
    0 / 65536 = (0 + 7 + 64 * 2 ^ ((9#32).toNat % 16)) / 65536 ∧ base.bankOn 0 = true ∧ (∀ i, i < 4 → base.bankHere (0 + 2 * i) = true) := by decide +kernel
/-! ### Power, faults and reset -/

/-- base with the power unit changed. -/
def pwrS (f : Pwr → Pwr) : State := { base with pwr := f base.pwr }
/-- Every listed transition from a state that lists it, and Off, which none lists; masks outside and in Trim; units that the target drops, and units cleared. -/
theorem witness_PowerStates :
    (base.globalWriter .pmA = true ∧ base.globalWriter .hostN = false ∧ base.inReset = false ∧ base.pwr.busy = false ∧ base.pwr.state = .run ∧ base.pwr.target = none ∧
      (pwrS fun p => { p with state := .trim }).pwr.state = .trim ∧ (pwrS fun p => { p with busy := true }).pwr.busy = true ∧
      ((List.range 8).filter (fun l => bitAt base.pwr.vlanes l)).length ≤ 2 ∧ isPm .pmA = true ∧ base.dbg.haltA = false ∧ base.dbg.haltB = false ∧
      (∀ e ∈ base.deps, ∀ h ∈ e.2.threads, h.2.state ≠ .halted) ∧ base.pwr.retention = false) ∧
    (let s := pwrS fun p => { p with target := some .trim, bankEn := 0xFFFFFFFFFFFFFFFE, depEn := 0xFFFFFFFD }
     s.pwr.target = some .trim ∧ s.wantsBank 0 .trim = false ∧ 0 < s.nBank ∧ bitAt s.pwr.bankPow 0 = true ∧ s.wantsDep 1 .trim = false ∧ 1 < s.nDep ∧ (s.dep 1).powered = true ∧ (s.dep 1).state = .off) ∧
    (let s := pwrS fun p => { p with target := some .vigil }
     s.wantsLane 7 .vigil = false ∧ 7 < s.nLane ∧ bitAt s.pwr.lanePow 7 = true ∧ (s.lane 7).state = .off) ∧
    (let s := pwrS fun p => { p with bankClr := 2 }
     1 < s.nBank ∧ bitAt s.pwr.bankClr 1 = true ∧ s.clk.fHz ≠ 0 ∧ s.pwr.clrDep = 0) ∧
    (let s := baseD fun D => { D with state := .clearing }
     s.depUp 0 = true ∧ (s.dep 0).state = .clearing ∧ s.pwr.target = none ∧ (s.dep 0).enHeld = none ∧ bitAt s.sec.zdDeps 0 = false) := by decide +kernel
/-- A block whose units are all off, ready for Hold; a wake source in Hold; retention outside Hold. -/
theorem witness_PowerStates_hold :
    (let s : State := { State.reset with pwr := { ({} : Pwr) with target := some .hold, bankPow := 1, bankRet := 1, lanePow := 0 }, deps := (List.range 32).map fun d => (d, { ({} : Depot) with powered := false }) }
     s.pwr.target = some .hold ∧ (∀ d, d < s.nDep → (s.dep d).powered = false) ∧ (∀ l, l < s.nLane → bitAt s.pwr.lanePow l = false) ∧ (∀ b, b < s.nBank → bitAt s.pwr.bankPow b = bitAt s.pwr.bankRet b) ∧
     s.dbg.haltA = false ∧ s.dbg.haltB = false ∧ (∀ e ∈ s.deps, ∀ h ∈ e.2.threads, h.2.state ≠ .halted) ∧ s.inReset = false ∧ s.pwr.wakePend &&& s.pwr.wakeEn = 0) ∧
    (let s := pwrS fun p => { p with state := .hold, wakePend := 4, retention := true, holdFrom := .trim }
     s.pwr.state = .hold ∧ bitAt s.pwr.wakePend (2 : Fin 4).val = true ∧ bitAt s.pwr.wakeEn (2 : Fin 4).val = true ∧ bitAt s.pwr.wakeEn (3 : Fin 4).val = false) ∧
    (let s := pwrS fun p => { p with retention := true }
     s.pwr.retention = true ∧ s.pwr.state ≠ .hold ∧ s.clk.eHz ≠ 0 ∧ s.clk.fHz ≠ 0 ∧ s.clk.pHz ≠ 0) := by decide +kernel
/-- R402: Hold by host secure is refused; by the Postmaster the block is busy towards it. -/
theorem test_hold : ((nxt (exec (.pwrCmdHold .hostS) base)).getD base).pwr.evt = 8 ∧ ((nxt (exec (.pwrCmdHold .pmA) base)).getD base).pwr.target = some .hold := by decide +kernel
theorem witness_MismatchAndWatchdog :
    (let s : State := { base with straps := { base.straps with twinCfg := 1, pmTwin := true } }
     s.twin 0 = true ∧ s.twin 1 = false ∧ s.depUp 0 = true ∧ s.clk.eHz ≠ 0 ∧ (7 : Nat) < 8 ∧ (15 : Nat) < 16 ∧ bitAt (s.dep 0).frozen 7 = false ∧ (s.dep 0).state ≠ .off ∧ (s.dep 0).twinValid = false ∧
     s.straps.pmTwin = true ∧ s.irq.pmFrozen = false ∧ 16 ≤ 16 ∧ 23 < 24 ∧ s.pinRuns = true) ∧ base.straps.pmTwin = false ∧ base.inReset = false ∧ isPm .pmB = true ∧ isPm .hostS = false ∧
    ({ ({} : Depot) with twinValid := true }).twinValid = true ∧
    (let s : State := { base with irq := { base.irq with wdogFrom := some 0, wdogEn := true, wdogLim := 1 }, clk := { base.clk with bt := 9600000 } }
     s.irq.wdogFrom = some 0 ∧ 0 < s.irq.wdogLim.toNat ∧ 0 + s.irq.wdogLim.toNat * 9600000 ≤ s.clk.bt) ∧ base.irq.wdogFrom = none ∧ bitAt (1#32) 0 = true ∧ bitAt (2#32) 0 = false := by decide +kernel
theorem witness_MasksAndDoorbells : base.inReset = false ∧ (∃ k, k < 16 ∧ bitAt (0x8000#32) k = true) ∧ (pwrS fun p => { p with state := .hold }).pwr.state = .hold ∧
    base.pwr.state ≠ .hold ∧ base.pwr.target ≠ some .hold := ⟨rfl, ⟨15, by decide +kernel⟩, rfl, by decide, by decide⟩

/-- base in a boot phase, with boot list l. -/
def bootS (p : BPhase) (l : BitVec 16) : State := { base with boot := { base.boot with phase := p }, straps := { base.straps with bootList := l } }
/-- bootS with a committed, unencrypted record of 64 bytes at the start of exchange memory. -/
def recS : State :=
  let s := bootS .select 8
  { s with xch := { s.xch with mem := ((s.xch.mem.write32 0 0x464C4252).write32 8 64).write32 320 0x5A3CC3A5 } }
/-- In and out of reset; each boot phase; a record whose checks before the signature pass (the signature itself is the opaque function Config.ecdsaOk); clocks at the ends of Table 16.3. -/
theorem witness_ResetAndBoot :
    (({ base with inReset := true } : State).inReset = true ∧ base.dft = false ∧ base.inReset = false ∧ ({ base with dft := true } : State).dft = true ∧ true ≠ base.dft) ∧
    ((bootS .selftest 0).boot.phase = .selftest ∧ (0 : BitVec 24) &&& (if base.straps.pmTwin then 0xFF0000 else 0) = (if base.straps.pmTwin then 0xFF0000 else 0)) ∧
    ((0 : BitVec 24) &&& (if ({ base.straps with pmTwin := true } : Straps).pmTwin then 0xFF0000 else 0) ≠ 0xFF0000) ∧
    ((bootS .waitGo 0).boot.phase = .waitGo ∧ bitAt (1#32) 0 = true) ∧ ((bootS .select 0).boot.phase = .select ∧ (bootS .select 0).straps.bootList.toNat % 16 = 0) ∧
    (recS.boot.phase = .select ∧ recS.inReset = false ∧ recS.straps.bootList.toNat % 16 = 8 ∧ recS.headCause recS.xchSlot = none ∧ recS.xchSlot.bodyErr = false ∧ hdrEnc recS.xchSlot.hdr = false) ∧
    base.boot.phase ≠ .select ∧ (100000000 ≤ 1200000000 ∧ ¬ 100000000 ≤ 99999999) ∧
    ((pwrS fun p => { p with state := .hold, retention := true }).pwr.state = .hold ∧ (pwrS fun p => { p with state := .hold, retention := true }).pwr.retention = true) := by decide +kernel
/-- R428: DFT_MODE outside reset is no supported operation. -/
theorem test_dft : exec (.dftMode true) base = .fault .unsupportedDft := rfl
/-- R362: GO of host secure in WAIT_GO; an empty boot list halts with code 15. -/
theorem test_boot : ((nxt (exec (.bootGo .hostS 1) (bootS .waitGo 0))).getD base).boot.phase = .select ∧
    ((nxt (exec (.bootSelect []) (bootS .select 0))).getD base).boot.err = 15 := by decide +kernel
/-- Depots 0 and 1 in RUN, the transfer of depot 0 to depot 1 in phase p, with the given boundary period. -/
def xferS (p : XPhase) (per : W32) : State :=
  (baseD fun D => { D with threads := [], xfer := { D.xfer with phase := p, spare := 1, per := per } }).setDep 1 { state := .run, en := true }
/-- Each phase of a transfer, quiet with the guard kept and not, both sides of the limit; depots and lanes in and out of reset. -/
theorem witness_TransfersAndResets :
    base.inReset = false ∧ (0 < base.nDep ∧ (base.dep 0).rst = false ∧ (∀ f, f < 32 → (base.dep f).xfer.phase = .freeze → f ≠ 0 ∧ (base.dep f).xfer.spare ≠ 0)) ∧
    ((xferS .freeze 1).dep 0).xfer.phase = .freeze ∧ ((baseD fun D => { D with rst := true }).dep 0).rst = true ∧ (7 < base.nLane ∧ (base.lane 7).rst = false ∧ (base.lane 7).tx = none ∧ (base.lane 7).wait = none ∧ (base.lane 0).rst = false ∧ bitAt base.pwr.lanePow 0 = true) ∧
    (let s := xferS .idle 1
     isPm .pmA = true ∧ s.depUp 0 = true ∧ s.depRun 0 = true ∧ s.depRun ((0x200000#32).toNat / 2 ^ 21 % 32) = true ∧ (∀ e ∈ (s.dep 1).threads, e.2.state = .idle) ∧ s.twin 0 = s.twin 1 ∧
     s.xferActive 0 = false ∧ s.xferActive 1 = false) ∧ base.depRun 1 = false ∧
    (((xferS .code 1).dep 0).xfer.phase = .code ∧ ((xferS .code 1).dep 0).xfer.spare ≠ 0 ∧ (xferS .code 1).depUp 0 = true) ∧
    (let s : State := { xferS .wait 0xFFFFFFFF with clk := { base.clk with bt := 1 } }
     s.depUp 0 = true ∧ s.quiescent 0 = true ∧ s.clk.bt + (s.dep 0).xfer.guard * s.rotBt ≤ s.nextBoundary (s.dep 0).xfer ∧ s.clk.bt < (s.dep 0).xfer.waitFrom + (s.dep 0).xfer.tmo * 9600) ∧
    (let s := xferS .wait 1
     ¬ s.clk.bt + (s.dep 0).xfer.guard * s.rotBt ≤ s.nextBoundary (s.dep 0).xfer ∧ (s.dep 0).xfer.waitFrom + 0 * 9600 ≤ s.clk.bt) ∧
    (let s := xferS .freeze 1
     (s.dep 0).xfer.rstHeld = false ∧ (s.dep 1).xfer.rstHeld = false ∧ (s.dep 0).xfer.spare = 1) := by decide +kernel

/-! ### Lanes -/

/-- base with lane 0 as given. -/
def laneS (x : Lane) : State := base.setLane 0 x
/-- A good frame of n zero bytes. -/
def fr (n : Nat) : RxFrame := { bytes := List.replicate n 0, fcsOk := true, ts := 1000, fifoFull := false }
/-- A flow entry that takes those frames from lane 0 to ring 0; discards them with act. -/
def flow (act : W32) : Flow := { w0 := 0x80100000, w3 := act }
/-- base with lane 0 running, that flow, and ring 0 configured as given with its count. -/
def rxS (act cfg cnt : W32) : State :=
  let s := laneS { state := .run, link := true }
  { s with lan := { s.lan with flows := [(0, flow act)], rings := [(0, { cfg := cfg, cnt := cnt })] } }
/-- A lane off, a full FIFO, frames of 63 and 64 bytes, a bad FCS, a pause frame; no flow, a discarding flow, an enabled ring with room and without, a disabled one; rings that keep and break the rules of R236. -/
theorem witness_LaneReception :
    ((base.lane 0).state = .off ∧ (laneS { state := .run, link := true }).laneOn 0 = true ∧ ((laneS { state := .run, link := true }).lane 0).state = .run) ∧
    (let x : Lane := { state := .stopping, stopBt := 999, lostBt := 999 }
     x.state ≠ .off ∧ x.state ≠ .run ∧ x.stopBt < (fr 64).ts ∧ x.link = false ∧ x.lostBt < (fr 64).ts ∧ (fr 64).ts ≤ ({ x with stopBt := 1000, lostBt := 1000 } : Lane).stopBt ∧ (fr 64).ts ≤ ({ x with lostBt := 1000 } : Lane).lostBt) ∧
    ({ fr 64 with fifoFull := true }.fifoFull = true ∧ (fr 63).bytes.length < 64 ∧ 64 ≤ (fr 64).bytes.length ∧ (fr 64).bytes.length ≤ 4096 ∧ { fr 64 with fcsOk := false }.fcsOk = false) ∧
    (let bs : List Byte := List.replicate 12 0 ++ [0x88, 0x08, 0, 1] ++ List.replicate 48 0
     64 ≤ bs.length ∧ beBytes bs 12 2 = 0x8808 ∧ beBytes bs 14 2 = 1) ∧ ¬ beBytes (fr 64).bytes 12 2 = 0x8808 ∧ (base.prp 0).en = false ∧
    ((laneS { state := .run }).classify 0 (fr 64).bytes = none ∧ bitAt (base.lane 0).defRing 31 = false) ∧
    ((rxS 0x40000000 0 0).classify 0 (fr 64).bytes = some (0, flow 0x40000000) ∧ (flow 0x40000000).w3.toNat / 2 ^ 30 ≠ 0) ∧
    (let s := rxS 0 0x80030000 0
     s.laneOn 0 = true ∧ s.classify 0 (fr 64).bytes = some (0, flow 0) ∧ (flow 0).w3.toNat / 2 ^ 30 = 0 ∧ (flow 0).w3.toNat % 256 = 0 ∧ bitAt (s.fring 0).cfg 31 = true ∧ (s.fring 0).cfg.toNat / 2 ^ 26 % 8 = 0 ∧
     (s.fring 0).base.toNat % 64 = 0 ∧ s.bankOn 0 = true ∧ bitAt (s.fring 0).cfg 30 = false ∧ s.srt.reqs = [] ∧ s.xch.err.get ((0 + 2) / 2) none = none) ∧
    ({ base with pwr := { base.pwr with bankPow := 0 } } : State).bankOn 0 = false ∧
    (let s := rxS 0 0xC0030000 8
     s.classify 0 (fr 64).bytes = some (0, flow 0) ∧ bitAt (s.fring 0).cfg 30 = true ∧ ((s.fring 0).cnt - (s.xword 3 ++ s.xword 2)).toNat = 2 ^ ((s.fring 0).cfg.toNat / 2 ^ 16 % 16)) ∧
    (let s := rxS 0 0x30000 0
     s.classify 0 (fr 64).bytes = some (0, flow 0) ∧ bitAt (s.fring 0).cfg 31 = false) ∧
    (base.globalWriter .hostN = false ∧ base.globalWriter .hostS = true ∧ base.pinRuns = true ∧ bitAt (base.fring 255).cfg 31 = false ∧ (base.fring 255).base.toNat % 64 = 0 ∧ base.bankOn 0 = true ∧ base.srt.reqs = [] ∧
      (let v : W32 := 0x30000; 3 ≤ v.toNat / 2 ^ 16 % 16 ∧ v.toNat / 2 ^ 16 % 16 ≤ 10 ∧ v.toNat / 2 ^ 20 % 8 ≤ 6 ∧ 0 / 65536 = (0 + (64 + 8 * 8 + 8 * (256 * 2 ^ (v.toNat / 2 ^ 20 % 8)) / 2) - 1) / 65536) ∧
      ¬ 3 ≤ (0x20000#32).toNat / 2 ^ 16 % 16 ∧ (∀ a, a < 64 → base.bankHere a = true)) := by
  refine ⟨?_, ?_, ?_, ?_, ?_, ?_, ?_, ?_, ?_, ?_, ?_, ?_, ?_⟩ <;> decide +kernel
theorem witness_LaneReception_words : ∀ a, 0 ≤ a → a < 0 + 64 + 8 * 8 + 8 * (256 / 2) → (rxS 0 0x80030000 0).bankHere a = true := by
  intro a _ h
  have e : (rxS 0 0x80030000 0).bankHere a = decide (a / 65536 < 64) := rfl
  rw [e]; exact decide_eq_true (by omega)
/-- R239: the descriptor of a frame of 64 bytes names its 60 stored bytes; the count rises. -/
theorem test_rxFrame :
    (let t := (nxt (exec (.rxFrame 0 (fr 64)) (rxS 0 0x80030000 0))).getD base
     t.xword 0 = 1 ∧ t.xword 1 = 0 ∧ t.xword 64 = 60 ∧ (t.fring 0).cnt = 1 ∧ (t.lane 0).cnt.get 0 0 = 1) := by decide +kernel

/-- Lane 0 running with its link up and queue 7 of 8 descriptors whose head has first word w0, sending c. -/
def txS (w0 : W32) (c : Option TxCur) : State :=
  laneS { state := .run, link := true, tx := c, txqs := [(7, { cfg := 0x80000003, prod := 1, head := some { w0 := w0, w1 := 0, launch := 0 } })] }
/-- A frame of queue 7 on the line. -/
def cur (w0 : W32) : TxCur := { queue := 7, w0 := w0, w1 := 0, start := 1000, bytes := List.replicate 60 0, seq := none, copy := false }
/-- A poll at BT 0 and one in the period of the last; the head of 60 and of 59 bytes, its data in a bank that is on; a PRP pair both of whose lanes are free; a frame on the line of 60 bytes and of 4,097; link and lane states; queues that keep and break the rules of R243; agents with and without the right. -/
theorem witness_LaneTransmission :
    (let s := txS 60 none
     let x := s.lane 0
     s.laneOn 0 = true ∧ x.state = .run ∧ x.polled = none ∧ s.srt.reqs = [] ∧ s.xch.err = [] ∧ bitAt (x.txq 7).cfg 31 = true ∧ s.bankOn (x.txq 7).base.toNat = true ∧
     ({ x with polled := some 0 } : Lane).polled = some 0 ∧ ¬ 0 / (960 * max 1 x.txPoll.toNat) < 19199 / (960 * max 1 x.txPoll.toNat) ∧ 0 / (960 * max 1 x.txPoll.toNat) < 19200 / (960 * max 1 x.txPoll.toNat)) ∧
    (let s := txS 60 none
     let x := s.lane 0
     s.laneOn 0 = true ∧ x.state = .run ∧ x.tx = none ∧ s.eligible 0 7 = true ∧ (∀ j, j < 8 → 7 < j → s.eligible 0 j = false) ∧ (x.txq 7).head = some { w0 := 60, w1 := 0, launch := 0 } ∧ bitAt (60#32) 19 = false ∧ bitAt (60#32) 21 = false ∧
     60 ≤ (60#32).toNat % 65536 ∧ s.dataOn 0 0 (min 4096 60) = true ∧ x.link = true) ∧
    (let w : W32 := 0x8003C
     let s := (txS w none).setLane 1 { state := .run, link := true }
     let s : State := { s with lan := { s.lan with prps := [(0, { en := true })] } }
     s.eligible 0 7 = true ∧ bitAt w 19 = true ∧ bitAt w 21 = false ∧ (s.prp 0).en = true ∧ s.lineUp 0 = true ∧ s.lineUp 1 = true ∧ (s.lane 1).tx = none ∧ 60 ≤ w.toNat % 65536 ∧ w.toNat % 65536 ≤ 9206) ∧
    (let s := txS 59 none
     s.eligible 0 7 = true ∧ ((s.lane 0).txq 7).head = some { w0 := 59, w1 := 0, launch := 0 } ∧ (59#32).toNat % 65536 < 60 ∧ ((s.lane 0).txq 7).base.toNat % 64 = 0 ∧ s.bankHere 0 = true ∧ s.bankOn 0 = true ∧ (∀ j, j < 8 → s.bankHere (64 + j) = true)) ∧
    (let s := txS 60 (some (cur 0x80003C))
     (s.lane 0).tx = some (cur 0x80003C) ∧ s.laneOn 0 = true ∧ (cur 0x80003C).queue = 7 ∧ (cur 0x80003C).seq = none ∧ (cur 0x80003C).copy = false ∧ (s.lane 0).wait = none ∧ s.bankOn 0 = true ∧ s.srt.reqs = [] ∧ (cur 0x80003C).w0.toNat % 65536 ≤ 4096 ∧
     4096 < (cur 4097).w0.toNat % 65536 ∧ bitAt (cur 0x80003C).w0 22 = false ∧ bitAt (cur 0x80003C).w0 23 = true ∧ bitAt (s.lane 0).ctl 28 = false) ∧
    ((laneS { state := .run, link := true }).laneOn 0 = true ∧ ((laneS { state := .run, link := true }).lane 0).link = true ∧ ((laneS { state := .run, link := true }).lane 0).tx = none ∧ (base.lane 0).link = false ∧ ((laneS { state := .run }).lane 0).link = false ∧
      ((laneS { state := .run }).lane 0).state ≠ .off ∧ (base.lane 0).state ≠ .run ∧ (base.lane 0).state ≠ .stopping ∧ base.eligible 0 0 = false) ∧
    (base.globalWriter .pmA = true ∧ base.pinRuns = true ∧ base.laneOn 0 = true ∧ base.globalWriter .hostN = false ∧ ((base.lane 0).txq 0).base.toNat % 64 = 0 ∧ 3 ≤ (3#32).toNat % 16 ∧ (10#32).toNat % 16 ≤ 10 ∧
      0 / 65536 = (0 + 63 + 8 * 2 ^ ((3#32).toNat % 16)) / 65536 ∧ ¬ 3 ≤ (2#32).toNat % 16 ∧ base.inReset = false) ∧
    (let x : Lane := (laneS { state := .stopping }).lane 0
     (laneS { state := .stopping }).laneOn 0 = true ∧ x.state = .stopping ∧ x.tx = none ∧ x.wait = none ∧ x.dup = none ∧ ({ x with wait := some (cur 60) } : Lane).wait ≠ none) := by
  refine ⟨?_, ?_, ?_, ?_, ?_, ?_, ?_, ?_⟩ <;> decide +kernel
/-- R246: a frame that ends well writes status 1 and the consumer count. -/
theorem test_txFrameEnd :
    (let t := (nxt (exec (.txFrameEnd 0 false) (txS 60 (some (cur 60))))).getD base
     t.xword 2 = 1 ∧ t.xword 65 = 0x1000 ∧ t.xword 64 = 0x3C ∧ (t.lane 0).tx = none) := by decide +kernel

/-! ### Security and debug -/

/-- base with the security registers changed, and block time bt. -/
def secS (f : Sec → Sec) : State := { base with sec := f base.sec }
/-- Rights of each agent; a depot that is running and one that is off; WAIT_GO; the AES engine idle and busy; a challenge of each level, fresh and 60 s old; an escalation whose depots are off. -/
theorem witness_SecurityUnit :
    (base.inReset = false ∧ isPm .pmA = true ∧ bitAt (1#32) 0 = true ∧ base.sec.esc = false ∧ (∀ d, d < 32 → ¬(d < base.nDep ∧ bitAt (2#32) d ≠ bitAt base.sec.depDom d ∧ (base.dep d).powered = true ∧ (base.dep d).state ≠ .off)) ∧
      (2#32) ≠ base.sec.depDom ∧ (0 < base.nDep ∧ bitAt (1#32) 0 ≠ bitAt base.sec.depDom 0 ∧ (base.dep 0).powered = true ∧ (base.dep 0).state ≠ .off)) ∧
    ((47 : Nat) < 48 ∧ 16 * 47 < base.nPin ∧ ({ base with straps := { base.straps with build := .fl128 } } : State).nPin ≤ 16 * 47 ∧ (∀ b, b < 16 → bitAt (base.sec.pinDom.get 47 0) b = false)) ∧
    ((bootS .waitGo 0).boot.phase = .waitGo ∧ base.straps.lifecycle ≠ 3 ∧ base.boot.phase ≠ .waitGo) ∧
    ((base.hart 0).priv = .m ∧ base.sec.aesStatus ≠ 1 ∧ (secS fun x => { x with aesStatus := 1 }).sec.aesStatus = 1) ∧
    (let s : State := { base with straps := { base.straps with lifecycle := 1 } }
     s.straps.lifecycle = 1 ∧ s.sec.dbgLock = false ∧ bitAt (0x80000003#32) 31 = true ∧ 2 ≤ (0x80000003#32).toNat % 4) ∧ base.straps.lifecycle = 0 ∧ (23 : Nat) < 24 ∧
    (let s := secS fun x => { x with chalPend := true, chalLevel := 3 }
     s.sec.chalPend = true ∧ s.clk.bt ≤ s.sec.chalT + 60 * 9600000000 ∧ s.sec.chalLevel = 3 ∧ s.dbg.level.toNat < 3 ∧ s.sec.esc = false ∧ s.sec.fails.toNat < 4) ∧
    ({ base.sec with chalLevel := 2 } : Sec).chalLevel = 2 ∧ base.dbg.level.toNat < 2 ∧ ¬ base.sec.chalPend = true ∧
    (let s := secS fun x => { x with esc := true, zdDeps := 2 }
     s.sec.esc = true ∧ s.sec.lowerTo = none ∧ (∀ d, d < s.nDep → bitAt s.sec.zdDeps d = true → (s.dep d).state = .off) ∧ s.dbg.level.toNat < 3) := by decide +kernel
/-- R423: a grant of level 2 sets the level and ends the challenge. -/
theorem test_grantOk : ((nxt (exec (.dbgGrantOk .pmA) (secS fun x => { x with chalPend := true, chalLevel := 2 }))).getD base).dbg.level = 2 := by decide +kernel

/-- base at debug level n with thread 0 in state x. -/
def dbgS (n : BitVec 2) (x : TState) : State := { stS x .none with dbg := { base.dbg with level := n } }
/-- Levels up, equal and down in the life cycles; rights on threads and harts; a halted thread with a MOVI to step; the windows; trace at its codes 12 and 13; the access port below level 2. -/
theorem witness_DebugUnit :
    (base.inReset = false ∧ (0#32).toNat % 4 = base.dbg.level.toNat ∧ base.sec.esc = false ∧ (secS fun x => { x with esc := true }).sec.esc = true ∧ base.dbg.level.toNat < (2#32).toNat % 4 ∧
      base.straps.lifecycle = 0 ∧ base.pwr.state ≠ .hold ∧ ({ base.straps with lifecycle := 1 } : Straps).lifecycle = 1 ∧ (1#32).toNat % 4 < (dbgS 3 .halted).dbg.level.toNat) ∧
    (2 ≤ (dbgS 2 .running).dbg.level.toNat ∧ (pwrS fun p => { p with state := .hold }).pwr.state = .hold) ∧
    (let s := dbgS 3 .running
     s.depUp (depOf 0) = true ∧ s.dbg.level.toNat = 3 ∧ s.follower 0 = false ∧ s.frozen 0 = false ∧ (s.thr 0).state = .running ∧ s.pwr.state ≠ .off ∧ s.pwr.retention = false ∧ s.dbg.haltA = false) ∧
    (let s := { dbgS 3 .halted with dbg := { (dbgS 3 .halted).dbg with haltA := true } }
     let s := s.setDep 0 { s.dep 0 with code := (s.dep 0).code.write32 0 (0x06#6 ++ 9#4 ++ 0#6 ++ 0x1234#16) }
     (s.thr 0).state = .halted ∧ s.depIssues 0 = true ∧ (s.thr 0).pc.toNat ≤ 0xBFFF ∧ (s.dep 0).codeErr.get (s.thr 0).pc.toNat none = none ∧
     decodeEng 0 ((s.dep 0).codeWord (s.thr 0).pc.toNat) = some (.movi 0 9 0x1234) ∧ (s.thr 0).ldep = 0 ∧ s.dbg.haltA = true ∧ (0 : BitVec 12) = s.dbg.winCtl.extractLsb' 0 12) ∧
    ((base.setDep 0 { base.dep 0 with frozen := 1 }).frozen 0 = true ∧ 1023 < sliceSize (base.thr 0).slice ∧ (base.dep 0).edmErr.get (sliceBase (idxOf 0) (base.thr 0).slice + 1023) none = none ∧
      ({ (base.dep 0) with edmErr := [(sliceBase (idxOf 0) (base.thr 0).slice + 1023, some .single)] } : Depot).edmErr.get (sliceBase (idxOf 0) (base.thr 0).slice + 1023) none = some .single ∧ ((dbgS 3 .idle).thr 0).state = .idle) ∧
    ((0x00C00000#32).toNat / 2 ^ 20 % 16 ≤ 12 ∧ ¬ (0x00D00000#32).toNat / 2 ^ 20 % 16 ≤ 12) ∧
    (let s := { dbgS 3 .running with dbg := { (dbgS 3 .running).dbg with trcCtl := 0x80000000 } }
     bitAt s.dbg.trcCtl 31 = true ∧ s.dbg.trcNext ≤ s.rot ∧ s.dbg.level = 3 ∧ s.bankOn 0 = true ∧ s.bankHere 0 = true ∧ s.dbg.trcBase.toNat % 4 = 0 ∧ s.depUp 0 = true) ∧ bitAt base.dbg.trcCtl 31 = false ∧
    (base.pwr.state ≠ .off ∧ busTarget (0x1090000#32).toNat = .regs ∧ base.dbg.level.toNat < 2 ∧ (0x100#32).toNat < 0x800000 ∧ (0x100#32).toNat % 4 = 0 ∧ base.bankHere (0x100 / 2) = true ∧ base.wordNormal (0x100 / 2) = false) := by
  decide +kernel
/-- R421: a step of a halted thread runs its MOVI and halts again. -/
theorem test_dbgStep :
    (let s := dbgS 3 .halted
     let s := s.setDep 0 { s.dep 0 with code := (s.dep 0).code.write32 0 0x1A401234 }
     let t := (nxt (exec (.dbgStep .tap 0) s)).getD base
     (t.thr 0).reg 9 = 0x1234 ∧ (t.thr 0).state = .halted ∧ (t.thr 0).pc = 1) := by decide +kernel

/-! ### The Postmaster -/

/-- base with hart 0 changed. -/
def hartS (f : Hart → Hart) : State := base.setHart 0 (f (base.hart 0))
/-- base with hart 0 in mode pr under page tables whose root is the first page of SRAM; the root's entry 3 is p0, and entry 1 of the second page is p1. -/
def pgS (pr : Priv) (p0 p1 : W32) (satp : W32 := 0x80010000) : State :=
  let s := hartS fun x => { x with priv := pr, eff := [(0x180, satp)] }
  { s with pm := { s.pm with sram := (s.pm.sram.write32 12 p0).write32 0x1004 p1 } }
/-- A hart that runs and one that waits; words at both ends of SRAM, misaligned, and on either side of it; the reservation within and past its bound; each mode; the timer; one enabled interrupt pending. -/
theorem witness_PostmasterHarts :
    (base.hartUp 0 = true ∧ (base.hart 0).pendW = [] ∧ (base.hart 0).priv = .m ∧ (hartS fun x => { x with wfi := true }).hartUp 0 = false) ∧
    ([0x10000000, 0x100FFFFC].all fun (addr : Nat) => decide (addr % 4 = 0 ∧ 0x10000000 ≤ addr ∧ addr < 0x10100000 ∧ base.pm.sramErr.get ((addr - 0x10000000) / 4) none = none)) = true ∧
    ((0x10000002#32).toNat % 4 ≠ 0 ∧ (0x0FFFFFFC#32).toNat < 0x10000000 ∧ 0x10100000 ≤ (0x10100000#32).toNat) ∧
    ([0x10000000, 0x100FFFFC, 0x0FFFFFFC, 0x10100000].all fun (a : Nat) => decide (xlate base 0 false a = (base, .ok a false) ∧ xlate base 0 true a = (base, .ok a false))) = true ∧
    (let s := pgS .s 0x040001C7 0
     xlate s 0 false 0xC01004 = (s, .ok 0x10001004 true) ∧ xlate s 0 true 0xC01004 = (s, .ok 0x10001004 true) ∧ s.hartUp 0 = true ∧ (s.hart 0).pendW = [] ∧ s.pm.sramErr.get (0x1004 / 4) none = none) ∧
    (let s := (pgS .m 0 0).setHart 0 { (pgS .m 0 0).hart 0 with eff := [(0x180, 0x80010000), (0x300, 0x20000)] }
     (s.hart 0).priv = .m ∧ s.hartUp 0 = true ∧ xlate s 0 false 0xC01004 = (s, .fault 13) ∧ xlate s 0 true 0xC01004 = (s, .fault 15)) ∧
    ((hartS fun x => { x with resv := some 0, resvAge := 64 }).hart 0 |> fun x => (x.resv == some 0 && decide (x.resvAge ≤ 64))) = true ∧
    ((hartS fun x => { x with resv := some 0, resvAge := 65 }).hart 0 |> fun x => (x.resv == some 0 && decide (x.resvAge ≤ 64))) = false ∧
    ((base.hart 0).mayWrite .mie = true ∧ (hartS fun x => { x with priv := .u }).hartUp 0 = true ∧ ((hartS fun x => { x with priv := .u }).hart 0).priv ≠ .m ∧
      bitAt (((hartS fun x => { x with priv := .u }).hart 0).csrOf 0x302) 2 = false ∧ ((hartS fun x => { x with priv := .u }).hart 0).mayWrite .mie = false) ∧
    (base.straps.pmTwin = false ∧ base.inReset = false ∧ base.clk.pHz ≠ 0) ∧
    (let s := hartS fun x => { x with mtip := true, eff := [(0x300, 8), (0x304, 0x80)] }
     s.irqUp 0 = true ∧ (s.hart 0).pendW = [] ∧ (s.hart 0).priv = .m ∧ bitAt ((s.hart 0).effOf 0x300) 3 = true ∧ s.mip 0 &&& (s.hart 0).effOf 0x304 &&& ~~~ (s.hart 0).effOf 0x303 = BitVec.ofNat 32 (2 ^ 7)) ∧
    base.mip 0 &&& (base.hart 0).effOf 0x304 = 0 ∧ bitAt ((base.hart 0).effOf 0x300) 3 = false ∧ ({ base with irq := { base.irq with pmFrozen := true } } : State).irqUp 0 = false := by decide +kernel
/-- R342: SC without a reservation stores nothing and answers 1; an AMO answers the old value. -/
theorem test_sc_amo :
    (((nxt (exec (.pmSc 0 5 0x10000000 7) base)).getD base).hart 0).getX 5 = 1 ∧ ((nxt (exec (.pmSc 0 5 0x10000000 7) base)).getD base).pm.sram = [] ∧
    ((nxt (exec (.pmAmo 0 .add 5 0x10000000 7) base)).getD base).pm.sram.read32 0 = 7 := by decide +kernel
/-- Accesses at both ends of SRAM, split in an effectful region, between the regions, in the host window; a request that waits for its response. -/
theorem witness_PostmasterAccesses :
    (let ac (st : Bool) (a : W32) : PmAccess := { store := st, size := 4, sgn := false, addr := a, data := 7, rd := 5 }
     let q : HmReq := { id := 0, hart := 0, fill := false, host := 0, part := (0x80000000, 4), acc := ac false 0x80000000, rest := [], got := [] }
     let s : State := { base with pm := { base.pm with hm := [q] } }
     (base.hartUp 0 = true ∧ (ac true 0x10000000).size = 4 ∧ (base.hart 0).pendW = [] ∧ ({ ac true 0 with size := 3 } : PmAccess).size ≠ 4) ∧
     ([0x10000000, 0x100FFFFC, 0x10000003].all fun (a : Nat) => decide (0x10000000 ≤ a ∧ a + 4 ≤ 0x10100000 ∧ base.pm.sramErr.get ((a - 0x10000000) / 4) none = none ∧ base.pm.sramErr.get ((a - 0x10000000 + 3) / 4) none = none)) = true ∧
     ([0x10000000, 0x100FFFFC, 0x10000003].all fun (a : Nat) => decide (∀ p ∈ partsOf a 4, xlate base 0 true p.1 = (base, .ok (a + (p.1 + 2 ^ 32 - a) % 2 ^ 32) false))) = true ∧
     (bitAt ((base.hart 0).effOf 0x180) 31 = false ∧ bitAt ((base.hart 0).csrOf 0x302) 4 = false) ∧
     (0x40000000 ≤ (0x40000001#32).toNat ∧ (0x40000001#32).toNat < 0x80000000 ∧ (0x40000001#32).toNat % 4 ≠ 0) ∧ (0x30000000 ≤ (0x30000000#32).toNat ∧ (0x3FFFFFEF#32).toNat < 0x3FFFFFF0) ∧
     ((base.hart 0).priv = .m ∧ (base.hart 0).det = true ∧ 0x80000000 ≤ (0x80000000#32).toNat ∧ (0x80000000#32).toNat % 4 = 0) ∧ (∀ r ∈ base.pm.hm, r.id ≠ 0) ∧
     (s.pm.hm = [q] ∧ q.id = 0 ∧ q.hart = 0 ∧ q.rest = [] ∧ q.got = [] ∧ q.fill = false ∧ s.inReset = false ∧ s.irq.pmFrozen = false ∧ (s.hart 0).pendW = [] ∧ q.part.2 = 4)) ∧
    isPm .pmA = true ∧ isPm .hostS = false := by decide +kernel
/-- R340, Table 12.1: a translated access with a superpage, with a second table, of another mode, of a table outside SRAM, and one that a region or the host window answers. -/
theorem witness_PostmasterAccesses_translated :
    ((pgS .s 0 0).hartUp 0 = true ∧ ((pgS .s 0 0).hart 0).pendW = [] ∧ bitAt (((pgS .s 0 0).hart 0).csrOf 0x302) 13 = false) ∧
    ¬ (bitAt (((pgS .s 0 0).hart 0).effOf 0x180) 31 = false ∨ ((pgS .s 0 0).hart 0).priv = .m) ∧
    (let root := fld (((pgS .s 0 0).hart 0).effOf 0x180) 0 22 * 4096 + 0xC01004 / 2 ^ 22 * 4
     let second := fld (0x04000401#32) 10 22 * 4096 + 0xC01004 / 4096 % 1024 * 4
     root = 0x1000000C ∧ second = 0x10001004 ∧
     ([(0x040000C7#32, 0#32), (0x040000D7, 0), (0x04000401, 0x040000C7), (0x04000401, 0x04000001), (0, 0)].all fun p =>
       (pgS .s p.1 p.2).pm.sram.read32 (root - 0x10000000) == p.1 && (pgS .s p.1 p.2).pm.sram.read32 (second - 0x10000000) == p.2) = true) ∧
    ([0, 1, 2, 6, 7].map (bitAt 0x040000C7#32) = [true, true, true, true, true] ∧ fld (0x040000C7#32) 10 10 = 0 ∧ fld (0x040004C7#32) 10 10 ≠ 0 ∧ [0, 1, 2, 3].map (bitAt 0x04000401#32) = [true, false, false, false]) ∧
    (let s := pgS .s 0x200001C7 0
     xlate s 0 false 0xC01004 = (s, .ok 0x80001004 true) ∧ 0xC01004 % 4 = 0) ∧
    fld (((pgS .s 0 0 0x80020000).hart 0).effOf 0x180) 0 22 * 4096 = 0x20000000 := by decide +kernel
/-- R340: through a second table to another page, a page not there, a table outside SRAM, and a page of user mode. -/
theorem test_translate :
    (xlate (pgS .s 0x04000401 0x040008C7) 0 true 0xC01004).2 = .ok 0x10002004 false ∧ (xlate (pgS .s 0 0) 0 true 0xC01004).2 = .fault 15 ∧
    (xlate (pgS .s 0 0 0x80020000) 0 false 0xC01004).2 = .fault 5 ∧ (xlate (pgS .s 0x040000D7 0) 0 false 0xC01004).2 = .fault 13 ∧ (xlate (pgS .u 0x040000D7 0) 0 false 0xC01004).2 = .ok 0x10001004 false := by decide +kernel
/-- R343: a misaligned store in SRAM moves its bytes, low byte first. -/
theorem test_unaligned :
    ((nxt (exec (.pmUnalignedAccess 0 { store := true, size := 4, sgn := false, addr := 0x10000001, data := 0x11223344, rd := 0 }) base)).getD base).pm.sram =
      [(1, 0x44), (2, 0x33), (3, 0x22), (4, 0x11)] := by decide +kernel
theorem witness_RegisterReads :
    base.inReset = false ∧ base.pwr.state ≠ .off ∧ base.pwr.state ≠ .hold ∧ (767 < base.nPin) ∧ (7 < base.nLane ∧ bitAt base.pwr.lanePow 7 = true) ∧ (base.depUp 31 = true) ∧
    (let s : State := { base with straps := { base.straps with build := .fl128 } }; s.nDep ≤ 8 ∧ s.pwr.state ≠ .hold) ∧
    (let s := baseD fun D => { D with powered := false }; 0 < s.nDep ∧ s.depUp 0 = false) ∧ (0xFFFFFC < 0x1000000 ∧ 0x1000002 % 4 ≠ 0 ∧ 0x1300000 ≤ 0x1300000) := by decide +kernel
/-- Table 16.6: ID_MAGIC; R8: an RC counter reads its value and clears. -/
theorem test_regRead :
    ((nxt (exec (.rcRegisterRead .hostN 0x1090000) base)).getD base).rdata = 0x464C4E44 ∧
    (let s : State := { base with srt := { base.srt with cutCnt := 5 } }
     let t := (nxt (exec (.rcRegisterRead .hostS 0x1000018) s)).getD base
     t.rdata = 5 ∧ t.srt.cutCnt = 0) := by decide +kernel
theorem witness_RegisterWrites :
    base.inReset = false ∧ base.pwr.state ≠ .off ∧ base.pwr.state ≠ .hold ∧ Agent.hostN ≠ .dbg ∧ pmOrHostS .hostS = true ∧ (31 < 32 ∧ base.depUp 31 = true ∧ 15 < 16 ∧ 127 < 128) ∧
    (baseD fun D => { D with powered := false }).depUp 0 = false ∧ isPm .hostS = false ∧ (0x58 ≤ 0x7C ∧ 0x7C < 0x80) ∧ (0#32).toNat % 8 = 0 ∧ (1#32).toNat % 8 = 1 ∧ (0x10000040#32).toNat / 2 ^ 28 = 1 := by decide +kernel

/-! ### Letters -/

/-- A letter of class cls and op op. -/
def lt (cls op : Nat) (body : List W32) (begun : Bool := false) : Letter := { cls := cls, op := op, tag := 7, quiet := false, body := body, begun := begun }
/-- s with the firmware in state st and letter l in service on letterbox n. -/
def serveS (s : State) (st : ShState) (n : Nat) (l : Letter) : State :=
  let s : State := { s with sheow := { s.sheow with state := st } }
  s.setBox n { s.box n with svc := some l }
/-- The letter of class cls and op op in service on letterbox 3 of base. -/
def letS (st : ShState) (cls op : Nat) (body : List W32) : State := serveS base st 3 (lt cls op body)
/-- The letter is in service in s on letterbox n. -/
theorem inService_serveS (st : ShState) (n : Nat) (l : Letter) (h : (serveS base st n l).shUp = true) (g : ((serveS base st n l).box n).svc = some l)
    (k : n = 2 ∨ ((serveS base st n l).box 2).svc = none) :
    (serveS base st n l).InService n l.cls l.op l := ⟨h, g, k, rfl, rfl⟩
/-- base in RUN with letter l in service on letterbox n, and the words ws at the start of its H2P ring, rung with producer index p. -/
def ringS (n p : Nat) (ws : List W32) (f : Box → Box) : State :=
  let s : State := { base with sheow := { base.sheow with state := .run }, irq := { base.irq with h2p := setBit base.irq.h2p n } }
  let s := s.setBox n (f { s.box n with classes := 0x1FFE })
  let m := ((List.range ws.length).foldl (fun m j => m.write32 (ringAddr (h2pBase n) j) (ws[j]?.getD 0)) s.xch.lb).write32 (h2pBase n) (BitVec.ofNat 32 p)
  { s with xch := { s.xch with lb := m } }
/-- A letter waits in the ring of letterbox 3, and may be served. -/
def rungS (s : State) : Bool :=
  decide (s.shUp = true ∧ (s.box 3).outq = [] ∧ s.mayServe 3 = true ∧ bitAt s.irq.h2p 3 = true ∧ s.h2pProd 3 < 504 ∧ (s.box 3).cons < 504 ∧ (s.box 3).cons ≠ s.h2pProd 3 ∧ s.xch.lbErr = [])
/-- Replies with and without room; a letter that is good, of an unexpected number, of a class the box lacks, unknown, and with a bad header; waits; polls and timeouts on both sides of their time; a dead letter of a depot. -/
theorem witness_LetterRings :
    (let s := letS .run 1 2 [9]
     s.shUp = true ∧ (s.box 3).svc = some (lt 1 2 [9]) ∧ (s.box 3).outq = [] ∧ (lt 1 2 [9]).quiet = false ∧ 4 + (lt 1 2 [9]).body.length ≤ s.p2hRoom 3 ∧ 5 ≤ s.p2hRoom 3) ∧
    ({ lt 1 2 [9] with quiet := true }.quiet = true ∧ (letS .run 1 1 [9]).shUp = true ∧ ((letS .run 1 1 [9]).box 3).svc = some (lt 1 1 [9])) ∧
    (let s := (letS .run 1 2 [9]).setBox 3 { (letS .run 1 2 [9]).box 3 with prodOut := 500 }
     let s : State := { s with xch := { s.xch with lb := s.xch.lb.write32 (p2hBase 3 + 4) 501 } }
     (s.box 3).svc = some (lt 1 2 [9]) ∧ (s.box 3).outq = [] ∧ s.p2hRoom 3 < 4 + (lt 1 2 [9]).body.length) ∧
    (let hd (w0 w1 w2 w3 : W32) : State := ringS 3 5 [w0, w1, w2, w3, 0xAB] id
     (rungS (hd 0x01020000 0x70000 1 0) = true ∧ (hd 0x01020000 0x70000 1 0).ringWords (h2pBase 3) 0 4 = [0x01020000, 0x70000, 1, 0] ∧ ((hd 0x01020000 0x70000 1 0).box 3).seqIn = 0 ∧ knownOp 1 2 = true ∧ bitAt ((hd 0x01020000 0x70000 1 0).box 3).classes 1 = true ∧
       4 + 1 ≤ ((hd 0x01020000 0x70000 1 0).h2pProd 3 + 504 - 0) % 504) ∧
     (rungS (hd 0x01020000 0x70005 1 0) = true ∧ (5 : Word) ≠ ((hd 0x01020000 0x70005 1 0).box 3).seqIn ∧ (hd 0x01020000 0x70005 1 0).sheow.dlLog.length < 512) ∧
     (rungS (hd 0x01FF0000 0x70000 1 0) = true ∧ knownOp 1 0xFF = false) ∧ (rungS (ringS 3 5 [0x01020000, 0x70000, 1, 0, 0xAB] fun b => { b with classes := 0 }) = true) ∧
     (rungS (hd 0x01020001 0x70000 1 0) = true ∧ ¬ fld (0x01020001#32) 0 16 = 0)) ∧
    (base.shUp = false ∧ ((letS .run 1 2 [9]).box 3).svc.isSome = true ∧ (serveS base .run 2 (lt 1 2 [9])).letterWaits 2 = false ∧ ((serveS base .run 2 (lt 1 2 [9])).box 2).svc.isSome = true) ∧
    (4 ∈ turnOrder ∧ ((serveS base .run 4 (lt 1 2 [9])).box 4).svc = some (lt 1 2 [9]) ∧ ¬ ((lt 1 2 [9]).cls = 10 ∧ (lt 1 2 [9]).op = 1)) ∧
    (let s : State := { base with sheow := { base.sheow with state := .run }, clk := { base.clk with bt := 10 * msBt } }
     s.shUp = true ∧ s.sheow.lastPoll + s.sheow.pollMs * msBt ≤ s.clk.bt ∧ s.xch.lbErr = [] ∧ (∀ m, m < 16 → (s.box m).outq = [] ∧ s.h2pProd m < 504) ∧ base.clk.bt < base.sheow.lastPoll + base.sheow.pollMs * msBt) ∧
    (let o : OutLetter := { cls := 1, op := 2, tag := 7, event := false, more := false, status := 0, body := [1], since := 0 }
     let s := (letS .run 1 2 []).setBox 3 { prodOut := 500, outq := [o] }
     let s : State := { s with xch := { s.xch with lb := s.xch.lb.write32 (p2hBase 3 + 4) 501 }, clk := { s.clk with bt := 100 * msBt } }
     s.shUp = true ∧ (s.box 3).outq = [o] ∧ s.p2hRoom 3 < 4 + o.body.length ∧ o.since + s.sheow.replyTmo * msBt ≤ s.clk.bt ∧ ({ s with clk := { s.clk with bt := 0 } } : State).clk.bt < o.since + s.sheow.replyTmo * msBt) ∧
    (let s := (letS .run 1 2 []).setDep 0 { (base.dep 0) with dl := [{ cause := 1, tid := 0, target := 0, words := [1, 2] }] }
     s.shUp = true ∧ s.depUp 0 = true ∧ (s.dep 0).dl ≠ [] ∧ (s.dep 0).dlLost = 0 ∧ s.pmk.evtLost = 0 ∧ s.pins.msgLost = 0 ∧ s.lan.msgLost = 0) ∧ (base.dep 0).dl = [] := by decide +kernel
/-- Table 11.3: a PING of one word answers its tag and word in the host ring. -/
theorem test_ping :
    (let t := (nxt (exec (.sysPing 3) (letS .run 1 2 [9]))).getD base
     t.lb32 (ringAddr (p2hBase 3) 0) = 0x01020000 ∧ t.lb32 (ringAddr (p2hBase 3) 1) = 0x00070000 ∧ t.lb32 (ringAddr (p2hBase 3) 4) = 9 ∧ bitAt t.irq.p2h 3 = true) := by decide +kernel

/-- s is up and l is in service on letterbox 3 (State.InService 3 l.cls l.op l). -/
def sv (s : State) (l : Letter) : Bool := s.shUp && decide ((s.box 3).svc = some l) && decide ((s.box 2).svc = none)
theorem sv_inService {s : State} {l : Letter} (h : sv s l = true) : s.InService 3 l.cls l.op l := by
  simp only [sv, Bool.and_eq_true, decide_eq_true_eq] at h
  exact ⟨h.1.1, h.1.2, .inr h.2, rfl, rfl⟩
/-- The letter of letS, and the Sheow of a state changed. -/
def shS (s : State) (f : Sheow → Sheow) : State := { s with sheow := f s.sheow }
/-- Regions 1, 2 and 5, one bank each. -/
def regs3 : List Region := [{ kind := 1, base := 0, len := 65536 }, { kind := 2, base := 65536, len := 65536 }, { kind := 5, base := 131072, len := 65536 }]
/-- Config.regionNeed is a free value: the commit's clause asks that the tables fit, and the rest of its hypotheses holds. -/
theorem witness_SystemLetters :
    (base.shUp = false ∧ (letS .down 1 1 []).shUp = false ∧ (base.box 3).svc = none) ∧
    (sv (letS .run 1 1 []) (lt 1 1 []) = true ∧ sv (letS .run 1 2 [5]) (lt 1 2 [5]) = true) ∧
    (let l (b0 b1 : W32) := lt 1 3 [b0, b1]
     let s (b0 b1 : W32) : State := letS .run 1 3 [b0, b1]
     (sv (s 15 0x1BFE) (l 15 0x1BFE) && sv (s 0x10F 2) (l 0x10F 2) && (s 15 2).secureBox 3 && decide (3 ≤ fld (15#32) 0 4) && bitAt (0x0400#32) 10 &&
       !bitAt (0x3FE#32) 10 && !bitAt (0x3FE#32) 12 && (0x3FE#32 &&& ~~~ 0x1FFE#32 == 0) && (s 15 2).h2pEmpty 15 && !(s 15 2).sec.esc && decide (fld (2#32) 0 4 < 3)) = true ∧
     ({ s 15 2 with xch := { (s 15 2).xch with lb := (s 15 2).xch.lb.write32 (h2pBase 15) 4 } } : State).h2pEmpty 15 = false) ∧
    (let s := (letS .run 1 4 [0x501]).setBox 5 { (base.box 5) with classes := 0x1FFE }
     sv s (lt 1 4 [0x501]) = true ∧ fld (0x501#32) 0 8 = 1 ∧ bitAt (s.box (fld (0x501#32) 8 4)).classes 1 = true ∧ fld (0#32) 0 8 = 0 ∧ 12 < fld (13#32) 0 8) ∧
    (let s (b0 : W32) (begun : Bool) : State := shS (serveS base .run 3 (lt 1 5 [b0, 0] begun)) id
     (sv (s 1 true) (lt 1 5 [1, 0] true) = true ∧ (s 1 true).pwr.busy = false ∧ ({ s 1 true with pwr := { (s 1 true).pwr with busy := true } } : State).pwr.busy = true) ∧
     (sv (s 1 false) (lt 1 5 [1, 0]) = true ∧ pwrTarget 1 ≠ .off ∧ (s 1 false).pwrListed (pwrTarget 1) = true ∧ (s 1 false).powerBlocked (pwrTarget 1) = false) ∧ ((s 0 false).pwrListed .run = false ∨ pwrTarget 0 = .run)) ∧
    (badRec 0x60 0x61 [0x60000064, 0x6100000A] = none ∧ badRec 0x60 0x61 [0x60000064, 0x01000000] = some 1 ∧ sv (letS .run 2 1 [0x60000064, 0x6100000A]) (lt 2 1 [0x60000064, 0x6100000A]) = true) ∧
    (fld (0#32) 0 2 = 0 ∧ fld (1#32) 0 2 = 1 ∧ fld (2#32) 0 2 = 2 ∧ fld (3#32) 0 2 = 3 ∧ (recId 0x60000000 = 0x60 ∧ recId 0x01000000 = 1 ∧ recId 0x38000000 = 0x38 ∧ recId 0x48000000 = 0x48) ∧ sv (letS .run 2 2 [2, 0x20000000]) (lt 2 2 [2, 0x20000000]) = true ∧
      ((shS base fun h => { h with chans := [(0, { pins := some { gateA := 0, gateB := 1, lowA := 2, lowB := 3, sense := 0, status := 0, relayA := 0, relayB := 0 } })] }).chan 0).pins ≠ none ∧
      ((shS base fun h => { h with supplies := [(15, { pins := some { gate := 0, cur := 0, volt := 0, relay := 0, batt := 1 } })] }).supply 15).pins ≠ none ∧ (base.chan 0).pins = none ∧
      (base.zone 1023).declared = false ∧ ((shS base fun h => { h with zones := [(1023, { declared := true })] }).zone 1023).declared = true) ∧
    (let s := letS .config 2 3 [1, 0, 65536]
     (sv s (lt 2 3 [1, 0, 65536]) = true ∧ s.sheow.state = .config ∧ s.banksOn 0 65536 = true ∧ s.overlaps 0 65536 = false ∧ s.regionsOf 4 = []) ∧ (letS .run 2 3 [1, 0, 65536]).sheow.state ≠ .config ∧ s.banksOn 0x3F0000 65536 = true ∧
     ({ s with straps := { s.straps with build := .fl128 } } : State).banksOn 0x3F0000 65536 = false ∧ (shS s fun h => { h with regions := regs3 }).overlaps 0 65536 = true) ∧
    (sv (letS .config 2 4 []) (lt 2 4 []) = true ∧ (letS .config 2 4 []).regionsOf 1 = [] ∧ (letS .run 2 4 []).sheow.state ≠ .config) ∧
    (let s := shS (letS .config 2 4 []) fun h => { h with regions := regs3 }
     let p := placeZones s
     let u := startServices p.1
     sv s (lt 2 4 []) = true ∧ s.regionsOf 1 ≠ [] ∧ s.regionsOf 2 ≠ [] ∧ s.regionsOf 5 ≠ [] ∧ (∀ e ∈ u.sheow.zones, e.2.declared = true → e.2.ringLen ≠ 0) ∧ p.2 = [] ∧ u.missing = 0) := by decide +kernel
/-- Table 11.11: CFG SET of reply_timeout 100 ms and poll_interval 20 ms. -/
theorem test_cfgSet :
    (let t := (nxt (exec (.cfgSet 3) (letS .run 2 1 [0x60000064, 0x61000014]))).getD base
     t.sheow.replyTmo = 100 ∧ t.sheow.pollMs = 20 ∧ (t.box 3).svc = none) := by decide +kernel
theorem findPlace_empty (pick lo hi n : Nat) (h : lo + n ≤ hi) : ∃ a, findPlace pick lo hi n [] = some a := by
  unfold findPlace
  split
  · exact ⟨_, rfl⟩
  · simp [placeFits, h]
/-- The low byte first. -/
def leB (n k : Nat) : List Byte := (List.range k).map fun i => BitVec.ofNat 8 (n / 256 ^ i)
/-- A parcel of one NOP and one entry, with its CRC-32 (IEEE 802.3, R334). -/
def parcelB : List Byte := leB 0x57430001 4 ++ leB 1 4 ++ leB 1 4 ++ leB 0 4 ++ leB 0 4 ++ leB 0x08A504D2 4 ++ leB 0 8 ++ leB 0x94000000 4 ++ leB 0 2
def parcelR : HostRead := { err := false, bytes := parcelB }
/-- A parcel loaded at 0x10 of depot 0. -/
def parcelQ : Parcel := { id := 9, depot := 0, base := 0x10, count := 1, entries := [0], current := true }
/-- An inbound stream: ring 0, 1 channel, 6 samples a packet. -/
def sinX (aaf : Bool) : StreamIn := { aaf := aaf, alarm := false, ring := 0, l24 := false, channels := 1, spp := 6, offset := 0, sid := 0, link := 48 }
/-- Letters of class 3 and 8 on the first and last depot, pin and thread; the place of the parcel is any findPlace gives. -/
theorem witness_DepotAndPinLetters :
    base.shUp = false ∧
    (let s := letS .run 3 1 [9, 0, 0, 38]
     (sv s (lt 3 1 [9, 0, 0, 38]) = true ∧ s.depUp 0 = true ∧ s.xferActive 0 = false ∧ parcelR.err = false ∧ 38 ≤ parcelR.bytes.length ∧ s.parcelOf (slice parcelB 0 38) = some { code := [0x94000000], entries := [0], relocs := [] } ∧
       ((freeParcels s).sheow.parcels.filter fun r => r.depot == 0) = [] ∧ 0 + 1 ≤ 0xC000 ∧ s.parcelOf (slice parcelB 0 37) = none ∧ HostRead.err { err := true, bytes := [] } = true) ∧
     ({ s with straps := { s.straps with build := .fl128 } } : State).nDep ≤ fld (0x1F00#32) 8 5) ∧
    (let s := shS (baseT fun h => { h with state := .idle }) fun h => { h with state := .run, parcels := [parcelQ] }
     let s := s.setBox 3 { (s.box 3) with svc := some (lt 3 2 [0, 9, 0x8200, 0, 0, 0]) }
     sv s (lt 3 2 [0, 9, 0x8200, 0, 0, 0]) = true ∧ s.depRun 0 = true ∧ s.frozen 0 = false ∧ s.follower 0 = false ∧ s.library 0 = false ∧ (s.thr 0).state = .idle ∧
     s.sheow.parcels.find? (fun r => r.id == 9 && r.depot == 0 && r.current) = some parcelQ ∧ parcelQ.entries[fld (9#32) 8 16]? = some 0 ∧ sliceOk 0x8200 = true ∧ bitAt (0x8200#32) 15 = true ∧
     (shS s fun h => { h with roles := [(0, some { service := 2, parcel := 9, base := 0, entry := 0 })] }).library 0 = true ∧ ((letS .run 3 2 []).thr 0).state ≠ .idle ∧ ((letS .run 3 2 []).thr 0).state ≠ .faulted) ∧
    (sv (letS .run 3 3 [0x10000]) (lt 3 3 [0x10000]) = true ∧ depOf 0 < base.nDep ∧ 1 ≤ fld (0x10000#32) 16 2 ∧ base.library 0 = false ∧ base.depUp 0 = true ∧ fld (0x30000#32) 16 2 = 3) ∧
    (let s := letS .config 3 4 [2, 1]
     let s1 : State := shS s fun h => { h with place := h.place.set 2 1 0 }
     sv s (lt 3 4 [2, 1]) = true ∧ s.sheow.state = .config ∧ s.maskAbsent 1 = false ∧ 1#32 &&& s.sheow.spares = 0 ∧ s1.threadShort 2 = 0) ∧
    (let s := letS .config 3 4 [2, 0]
     let s1 : State := shS s fun h => { h with place := h.place.set 2 0 0, streamsIn := [(0, some (sinX false))] }
     s1.threadShort 2 ≠ 0) ∧
    (let s := letS .run 3 5 [2]
     sv s (lt 3 5 [2]) = true ∧ s.maskAbsent 2 = false ∧ ((List.range 32).filter fun d => bitAt (2#32) d) = [1] ∧ s.depBusy 1 = false ∧ (∀ w ∈ s.sheow.place, bitAt w.2 1 = false) ∧ (s.setDep 1 { (s.dep 1) with state := .off }).depUp 1 = true ∧
     (s.dep 1).state = .off ∧ s.dueOff 1 = false ∧ 2 < ((List.range 32).filter fun d => bitAt (0x80000003#32) d).length) ∧
    (sv (letS .run 3 7 [0]) (lt 3 7 [0]) = true ∧ base.depUp 31 = true ∧ ({ base with straps := { base.straps with build := .fl128 } } : State).nDep ≤ 31) ∧
    (let s := letS .run 8 1 [0x2FF, 0]
     sv s (lt 8 1 [0x2FF, 0]) = true ∧ 767 + 1 ≤ s.nPin ∧ (∀ m, m < 768 → 767 ≤ m → (s.pin m).ownKind = 0 ∧ m ∉ s.libPins) ∧ s.secureBox 3 = true ∧ 0 < s.nDep ∧ fld (0x20#32) 5 2 = 1 ∧ fld (0x60#32) 5 2 = 3 ∧ s.pinNormal 767 = false ∧ s.depNormal 0 = false ∧
     ((s.setPin 767 { (s.pin 767) with ownKind := 1 }).pin 767).ownKind ≠ 0 ∧
     ({ s with sec := { s.sec with pinDom := [(47, 0xFFFF)] } } : State).pinNormal 767 = true) ∧
    (sv (letS .run 8 2 [0]) (lt 8 2 [0]) = true ∧ 0 + 1 ≤ base.nPin ∧ 0 ∉ base.libPins ∧ sv (letS .run 8 3 [0x2FF]) (lt 8 3 [0x2FF]) = true ∧ 767 < base.nPin ∧ ({ base with straps := { base.straps with build := .fl128 } } : State).nPin ≤ 767) := by (repeat' apply And.intro) <;> decide +kernel
/-- Table 11.7: TSTART starts thread 0 at the parcel's entry; GRANT gives pin 767 to depot 5. -/
theorem test_tstart_grant :
    (let s := shS (baseT fun h => { h with state := .idle }) fun h => { h with state := .run, parcels := [parcelQ] }
     let t := (nxt (exec (.depotTstart 3) (s.setBox 3 { (s.box 3) with svc := some (lt 3 2 [0, 9, 0x8200, 0, 0, 0]) }))).getD base
     (t.thr 0).state = .running ∧ (t.thr 0).pc = 0x10) ∧
    (((nxt (exec (.pinGrant 3) (letS .run 8 1 [0x2FF, 0x65]))).getD base).pin 767).ownKind = 3 ∧ (((nxt (exec (.pinGrant 3) (letS .run 8 1 [0x2FF, 0x65]))).getD base).pin 767).ownDep = 5 := by decide +kernel
/-- A record of kind 0 with sequence 5, a body of 64 zero bytes, and its trailer; key and signature are zeros. -/
def recB : List Byte := leB 0x464C4252 4 ++ leB 5 4 ++ leB 64 4 ++ leB 0 4 ++ leB 0 4 ++ List.replicate (236 + 64 + 128) 0
def recR : HostRead := { err := false, bytes := recB }
/-- Letter op of class 10 with the update in stage k. -/
def updS (op k : Nat) (body : List W32) : State := shS (letS .run 10 op body) fun h => { h with update := { h.update with stage := k } }
/-- The signature check is a free value (Config.ecdsaOk): where it holds, the record is good. -/
theorem recB_good (h : sigOk (slice recB 0 256) (slice recB 256 (hdrLen (slice recB 0 256))) = true) : (updS 1 0 [0, 0, 0, 448]).stageBad 0 recB = false := by
  simp only [State.stageBad, h]
  decide +kernel
/-- Every letter of class 10 in each stage, and of class 11 at each unit; recB_good covers the signature of the record staged. -/
theorem witness_UpdateAndDiagLetters :
    base.shUp = false ∧
    (let s := updS 1 0 [0, 0, 0, 448]
     sv s (lt 10 1 [0, 0, 0, 448]) = true ∧ fld (0#32) 0 4 < 2 ∧ s.sheow.update.stage ≠ 1 ∧ s.sheow.update.stage ≠ 2 ∧ recR.err = false ∧ 448 ≤ recR.bytes.length ∧ 384 ≤ 448 ∧ s.sheow.update.runSeq.toNat < hdrSeq (slice recB 0 256) ∧
     (match s.openBody (slice recB 0 256) (slice recB 256 64) with | .ok p => p == List.replicate 64 0 | .error _ => false) = true ∧ slice recR.bytes 0 448 = recB ∧
     s.stageBad 1 recB = true ∧ (updS 1 1 []).sheow.update.stage = 1 ∧ (updS 1 2 []).sheow.update.stage = 2 ∧ hdrSeq (slice recB 0 256) ≤ (5#32).toNat) ∧
    (sv (updS 2 1 []) (lt 10 2 []) = true ∧ sv (updS 3 2 []) (lt 10 3 []) = true ∧ (∀ m, m < 16 → m ≠ 3 → ((updS 3 2 []).box m).svc = none) ∧ (updS 3 2 []).sheow.update.kind = 0 ∧ (updS 3 2 []).seals.waits = [] ∧
      (shS (updS 3 2 []) fun h => { h with update := { h.update with kind := 1 } }).sheow.update.kind ≠ 0 ∧ (((updS 3 2 []).setBox 15 { (base.box 15) with svc := some (lt 1 2 []) }).box 15).svc ≠ none ∧ sv (updS 4 3 []) (lt 10 4 []) = true ∧ sv (updS 5 0 []) (lt 10 5 []) = true) ∧
    (let s := shS (updS 3 2 []) fun h => { h with halted := true }
     s.sheow.halted = true ∧ s.shUp = false ∧ ({ s with sheow := { s.sheow with halted := false } } : State).shUp = true ∧ (s.box 3).svc = some (lt 10 3 []) ∧ (s.box 2).svc = none ∧ s.sheow.update.kind = 0 ∧ base.sheow.halted = false) ∧
    (sv (letS .run 11 1 [30]) (lt 11 1 [30]) = true ∧ fld (30#32) 0 5 ≤ 30 ∧ 30 < fld (31#32) 0 5 ∧ fld (0#32) 0 5 = 0) ∧
    (sv (letS .run 11 2 [0]) (lt 11 2 [0]) = true ∧ base.depUp (fld (0x1F00#32) 8 16) = true ∧ fld (0x701#32) 0 4 = 1 ∧ 7 < base.nLane ∧ bitAt base.pwr.lanePow 7 = true ∧ fld (0x2FF02#32) 8 16 = 767 ∧ 767 < base.nPin ∧ base.nPin ≤ 768 ∧ base.nLane ≤ 8 ∧ base.nDep ≤ 32 ∧
      (shS base fun h => { h with zthreads := [(2, { tid := 1 })] }).sheow.zthreads = [(2, (shS base fun h => { h with zthreads := [(2, { tid := 1 })] }).zth 2)] ∧ base.sheow.zthreads = []) := by decide +kernel
/-- Table 11.10: CONFIRM with a good read-back ends the update. R377: a dead-letter entry is read once. -/
theorem test_confirm_dlRead :
    ((nxt (exec (.updateConfirm 3 0xC3A55A3C) (updS 4 3 []))).getD base).sheow.update.stage = 0 ∧
    (let e : DlEntry := { e0 := 1, bt := 2, e3 := 3, e4 := 4, e5 := 5, e6 := 6, e7 := 7 }
     let t := (nxt (exec (.diagDlRead 3) (shS (letS .run 11 1 [1]) fun h => { h with dlLog := [e, e] }))).getD base
     t.sheow.dlLog = [e] ∧ t.lb32 (ringAddr (p2hBase 3) 2) = 10 ∧ t.lb32 (ringAddr (p2hBase 3) 13) = 7) := by decide +kernel

/-- A plug-in of 4 bytes of code: header, code, signature of zeros. -/
def plugB : List Byte := leB 0x57430050 4 ++ leB 0 4 ++ leB 4 4 ++ leB 0 36 ++ leB 0 4 ++ List.replicate 96 0
theorem witness_SecurityLetters :
    base.shUp = false ∧
    (let w := List.replicate 25 (0#32)
     sv (letS .run 12 1 w) (lt 12 1 w) = true ∧ w.length = 25 ∧ (∀ e ∈ base.sheow.keys, e.1 ≠ 0) ∧ (∃ e ∈ base.sheow.keys.put 15 (w.drop 1), e.1 = 15)) ∧
    (let s := letS .run 12 2 [0, 0, 148]
     let k := shS s fun h => { h with keys := [(0, List.replicate 24 0)] }
     sv s (lt 12 2 [0, 0, 148]) = true ∧ sv k (lt 12 2 [0, 0, 148]) = true ∧ k.sheow.keys.find? (fun e => e.1 == 0) = some (0, List.replicate 24 0) ∧ slice plugB 0 148 = plugB ∧ 144 ≤ 148 ∧ leNum plugB 0 4 = 0x57430050 ∧ leNum plugB 4 4 < 4 ∧ leNum plugB 8 4 = 4 ∧
     144 + 4 + leNum plugB 12 4 ≤ 148 ∧ (∀ w ∈ pluginWindows plugB, k.windowShort w = 0) ∧ (List.range 8).find? (fun i => (k.sheow.plugins.get i none).isNone) = some 0 ∧ k.sheow.plugins = [] ∧ 0xC0000 + 4 ≤ 0x100000 ∧ leNum (0 :: plugB) 0 4 ≠ 0x57430050) ∧
    (let s (b : List W32) : State := letS .run 12 3 b
     (sv (s [0, 30, 2, 1]) (lt 12 3 [0, 30, 2, 1]) = true ∧ ({ s [] with sec := { (s []).sec with esc := true } } : State).sec.esc = true ∧ (s []).sec.esc = false ∧ 30 + 2 ≤ (s []).nDep ∧
       (∀ d, d < 32 → 30 ≤ d → bitAt (s []).sec.depDom d = false ∧ ((s []).dep d).state = .off) ∧ ((s []).dep 0).state ≠ .off ∧ ((s []).dep 0).powered = true ∧ bitAt (s []).sec.depDom 0 = false) ∧
     (4192256 % 2048 = 0 ∧ 4192256 + 2048 ≤ 2 ^ 22 ∧ (s []).xregFor 2047 1 = some 0 ∧ fld (1#32) 0 2 = 1) ∧
     ((∀ m, m < 16 → 3 ≤ m → (s []).ringsEmpty m = true) ∧ ({ s [] with xch := { (s []).xch with lb := (s []).xch.lb.write32 (h2pBase 15) 4 } } : State).ringsEmpty 15 = false ∧ bitAt (s []).sec.lbDom 15 = false) ∧
     (767 + 1 ≤ (s []).nPin ∧ (s []).pinNormal 767 = false ∧ bitAt (1#32) 0 = true)) ∧
    (let s := letS .run 12 4 [2]
     let u : State := { s with straps := { s.straps with lifecycle := 1 } }
     sv u (lt 12 4 [2]) = true ∧ 2 ≤ fld (2#32) 0 2 ∧ u.lc = 1 ∧ u.sec.dbgLock = false ∧ s.lc ≠ 1) ∧
    (let w : List W32 := 2 :: List.replicate 24 0
     let s := letS .run 12 5 w
     let c (v : BitVec 2) : State := { s with sec := { s.sec with chalPend := true, chalLevel := v } }
     sv (c 2) (lt 12 5 w) = true ∧ w.length = 25 ∧ (c 2).sec.chalPend = true ∧ (c 2).clk.bt ≤ (c 2).sec.chalT + 60 * secBt ∧ (2#32).toNat = (c 2).sec.chalLevel.toNat ∧ (c 2).dbg.level.toNat < 2 ∧ (3#32).toNat = (c 3).sec.chalLevel.toNat ∧ (c 3).dbg.level.toNat < 3 ∧ (c 3).sec.esc = false ∧ (c 2).sec.esc = false ∧ ¬ (2#32).toNat = (c 3).sec.chalLevel.toNat ∧ (c 2).sec.fails.toNat < 4 ∧
     s.sec.chalPend = false ∧ sv (serveS base .run 3 (lt 12 5 w true)) (lt 12 5 w true) = true) := by (repeat' apply And.intro) <;> decide +kernel
/-- Table 15.7: DOMAIN makes depots 30 and 31 normal. -/
theorem test_domain :
    ((nxt (exec (.secDomain 3) (letS .run 12 3 [0, 30, 2, 1]))).getD base).sec.depDom = 0xC0000000 := by decide +kernel

/-- Zones 0 (mapped to message 7, routed to message 7 in slot 0) and 1023 on a thread of depot 0 with its block's seal at 500; message 7 in a store region; sorter limits that admit the zones (R279). -/
def zoneX : Zone := { params := [(1, 8)], slots := [(0, { route := { src := .msg 7, prio := 5 } })], evac := 7, declared := true }
def zonS (st : ShState) (op : Nat) (body : List W32) : State :=
  let s := letS st 4 op body
  shS { s with srt := { s.srt with bmax := 3, wlim := [(0, 1)] } } fun h => { h with store := [{ id := 7, loop := true, off := 1024, len := 320, gap := 0 }], zones := [(0, zoneX), (1023, { declared := true })], zthreads := [(0, { tid := 3, zones := [0, 1023], sealAddr := 500 })], regions := [{ kind := 4, base := 65536, len := 65536 }] }
/-- The seal of the zone thread's block held by thread 5. -/
def sealedS (s : State) : State := s.setSeal 500 (some { owner := 5, orphan := false, expiry := none })
/-- A route of slot 1 of zones 0 and 1 to message 7, from a given cycle, with priority p. -/
def routeW (p : Nat) : List W32 := [0x10010000, BitVec.ofNat 32 (0x200 + p), 7, 0, 0x80000010]
/-- Each letter of class 4, on letterbox 3 and, for alarms, on LB2; blocks free and sealed. -/
theorem witness_ZoneLetters :
    base.shUp = false ∧
    (let w : List W32 := [0, 0x07000001]
     let s := zonS .config 1 w
     sv s (lt 4 1 w) = true ∧ badRec 1 15 (w.drop 1) = none ∧ (∀ i, i < 8 → 8 ≤ i → ((s.zone 0).slot i).used = false) ∧ ({ zoneX with params := setRecs zoneX.params (w.drop 1) } : Zone).delay = zoneX.delay ∧
     ({ zoneX with params := setRecs zoneX.params (w.drop 1) } : Zone).nSlots = 8 ∧ (joinThread (s.setZone 0 { zoneX with params := setRecs zoneX.params (w.drop 1) }) 0).2 = 0 ∧ s.blocksFree [0] = true ∧ (sealedS s).blocksFree [0] = false ∧ badRec 1 15 [0x01000004, 0x10000000] = some 1 ∧
     (({ zoneX with slots := [(7, { route := { src := .msg 7 } })] } : Zone).slot 7).used = true ∧ ({ zoneX with params := setRecs zoneX.params [0x01000002] } : Zone).nSlots ≤ 7 ∧
     ({ zoneX with slots := [(0, { route := { src := .msg 7, prio := 15 } })] } : Zone).at15 = true ∧ ({ zoneX with params := setRecs zoneX.params [0x0E000064] } : Zone).delay ≠ zoneX.delay) ∧
    (let s := shS (zonS .config 1 []) fun h => { h with regions := h.regions ++ [{ kind := 3, base := 131072, len := 65536 }], zones := h.zones.set 1023 { declared := true, ringBase := 131072, ringLen := 128, params := [(0xE, 64)] } {} }
     let y : Zone := { (s.zone 1023) with params := setRecs (s.zone 1023).params [0x0E000032] }
     y.delay ≠ (s.zone 1023).delay ∧ (s.zone 1023).at15 = false ∧ (s.zone 1023).ringLen = 2 ^ ringBits y.delay) ∧
    (let w : List W32 := [0x10000, 0, 1, 2, 3]
     let s := zonS .config 3 w
     sv s (lt 4 3 w) = true ∧ fld (w.headD 0) 16 4 ≤ 12 ∧ (eqBands 1 (w.drop 1)).isSome = true ∧ eqBands 1 [0, 1] = none ∧ (joinThread (s.setZone 0 { zoneX with eq := (eqBands 1 (w.drop 1)).getD [] }) 0).2 = 0 ∧ s.blocksFree [0] = true ∧ bitAt (0x80000000#32) 31 = true) ∧
    (let s := zonS .run 4 [0x50000]
     let mapped (s : State) : State := let u := s.setZone 0 { s.zone 0 with evac := 5 }; declareZone u 0
     let v : State := { s with straps := { s.straps with twinCfg := 2 } }
     sv s (lt 4 4 [0x50000]) = true ∧ fld (0x50000#32) 10 6 = 0 ∧ s.blocksFree [0] = true ∧ fld (0x400#32) 10 6 ≠ 0 ∧ (toAlarmPath (mapped s) 0).2 = 0 ∧ sv v (lt 4 4 [0x50000]) = true ∧ (toAlarmPath (mapped v) 0).2 ≠ 0) ∧
    (let w := routeW 5
     let s := zonS .run 2 w
     let u := (routeRecs w).foldl putRoute s
     let zs := ((routeRecs w).flatMap RouteRec.zones).eraseDups
     let r := ((routeRecs w).headD { first := 0, count := 0, slot := 0, prio := 0, kind := 0, ch := 0, id := 0, gain := 0, given := false, start := 0 })
     sv s (lt 4 2 w) = true ∧ w.length % 5 = 0 ∧ s.sheow.state = .run ∧ s.routesBad 3 0 (routeRecs w) = none ∧ zs = [0, 1] ∧ (∀ z ∈ zs, (u.zone z).slots15 ≤ 1) ∧ s.blocksFree zs = true ∧ (sealedS s).blocksFree zs = false ∧ routeRecs w = [] ++ [r] ∧ 1 ∈ r.zones ∧ r.kind = 2 ∧ r.given = true) ∧
    (let w := [0, 0x205, 7, 0, 0x80000010]
     let s := zonS .run 2 w
     let u := (routeRecs w).foldl putRoute s
     s.routesBad 3 0 (routeRecs w) = none ∧ (joinThread u 0).2 = 0 ∧ (∀ i ∈ (joinThread u 0).1.threadsOf [0], ((joinThread u 0).1.instances i).length ≤ 2)) ∧
    (let r := ((routeRecs (routeW 15)).headD { first := 0, count := 0, slot := 0, prio := 0, kind := 0, ch := 0, id := 0, gain := 0, given := false, start := 0 })
     let s := zonS .run 2 (routeW 15)
     sv s (lt 4 2 (routeW 15)) = true ∧ r.first + r.count ≤ 1024 ∧ r.kind ≠ 3 ∧ (∀ z ∈ r.zones, r.slot < (s.zone z).nSlots) ∧ r.prio = 15 ∧ r ∈ routeRecs (routeW 15)) ∧
    (let s := zonS .run 5 [4, 9]
     sv s (lt 4 5 [4, 9]) = true ∧ s.storeRegion = some { kind := 4, base := 65536, len := 65536 } ∧ s.sheow.storeSealed = false ∧ 4 + 4 * 1 ≤ 2 * 65536 ∧ s.xch.err = [] ∧ s.bankHere (65536 + 4 / 2) = true ∧ s.bankHere (65536 + 4 / 2 + 1) = true ∧ (2#32).toNat % 4 ≠ 0 ∧ 2 * 65536 < 131072 + 4) ∧
    (sv (zonS .run 6 []) (lt 4 6 []) = true ∧ (letS .run 4 6 []).storeRegion = none) ∧
    (sv (zonS .run 7 []) (lt 4 7 []) = true ∧ (∀ e ∈ (letS .run 4 7 []).sheow.zones, e.2.switched = none) ∧ (∃ e ∈ (zonS .run 7 []).sheow.zones, ∃ v ∈ e.2.slots, v.2.onStore = true)) ∧
    (let l := lt 4 8 [1, 0]
     let s := (zonS .run 8 []).setBox 2 { (base.box 2) with svc := some l }
     s.shUp = true ∧ (s.box 2).svc = some l ∧ bitAt (1#32) 0 = true ∧ s.mapped = [0] ∧ s.blocksFree s.mapped = true ∧ s.blocksFree s.taken = true ∧ (zonS .config 8 []).sheow.state ≠ .run ∧ (zonS .config 8 []).shUp = true ∧ sv (zonS .run 8 [1, 0]) l = true) ∧
    (let s := shS (zonS .run 8 []) fun h => { h with zones := [(0, { zoneX with slots := [(7, { saved := some { src := .msg 1 } })] })] }
     s.taken = [0] ∧ s.blocksFree s.taken = true ∧ s.sheow.zones = [(0, s.zone 0)] ∧ (s.zone 0).slots = [(7, (s.zone 0).slot 7)] ∧ ((s.zone 0).slot 7).saved = some { src := .msg 1 }) ∧
    (sv (zonS .run 9 [1023]) (lt 4 9 [1023]) = true ∧ ((zonS .run 9 [1023]).zone 1023).declared = true ∧ ((zonS .run 9 [1023]).zone 1).declared = false ∧ (zoneX).prio < 16 ∧ (zonS .run 9 []).sheow.zthreads = [(0, (zonS .run 9 []).zth 0)] ∧ 0 ∈ ((zonS .run 9 []).zth 0).zones) := by (repeat' apply And.intro) <;> decide +kernel
/-- R265: the record's zones have their slot 1 routed; R262: an alarm letter on LB3 routes nothing. -/
theorem test_route_alarm :
    (let t := (nxt (exec (.zoneRoute 3) (zonS .run 2 [0x10000000, 0x205, 7, 0, 0x80000010]))).getD base
     (((t.zone 0).slot 1).route.src = .msg 7 ∧ ((t.zone 0).slot 1).route.start = 16)) ∧
    ((nxt (exec (.zoneAlarm 3) (zonS .run 8 [1, 0]))).getD base).sheow.alarm = false := by decide +kernel

/-- An outbound stream on lane 0, queue 1. -/
def soutX : StreamOut := { aaf := false, lane := 0, queue := 1, prp := false, l24 := false, channels := 1, spp := 6, tmpl := 64, tmplLen := 50, txOff := 0, rtpOff := 0, sid := 0, zones := [0] }
/-- Letter op of class 5 with an inbound and an outbound stream 0, and flow ring 1 of 1024 slots. -/
def strS (st : ShState) (op : Nat) (body : List W32) : State :=
  let s := shS (letS st 5 op body) fun h => { h with streamsIn := [(0, some (sinX false))], streamsOut := [(0, some soutX)] }
  { s with lan := { s.lan with rings := [(1, { cfg := 0xA0000 })] } }
/-- Streams with 1 channel of 6 samples a packet at either end of the link offsets, with ring room and without; declared, used and absent ones. -/
theorem witness_StreamLetters :
    base.shUp = false ∧
    (let w : List W32 := [2047, 0x06010001, 0, 0, 12]
     let s := strS .config 1 w
     sv s (lt 5 1 w) = true ∧ (1 ≤ fld (w[1]?.getD 0) 16 4 ∧ fld (w[1]?.getD 0) 16 4 ≤ 8 ∧ 6 ≤ fld (w[1]?.getD 0) 24 8 ∧ fld (w[1]?.getD 0) 24 8 ≤ 192 ∧ 1 * 6 * 2 ≤ 1440) ∧ s.sin 2047 = none ∧ s.sin 0 ≠ none ∧ bitAt (2047#32) 12 = false ∧ fld (11#32) 0 13 < 12 ∧ 4800 < fld (4801#32) 0 13 ∧ 30 * 6 < fld (181#32) 0 13 ∧
     12 ≤ fld (180#32) 0 13 ∧ ringNeed ((6, 12) :: s.onRing 1) ≤ frSlots (s.fring 1).cfg ∧ frSlots (s.fring 0).cfg < ringNeed ((6, 12) :: s.onRing 0) ∧ s.runShort = 0 ∧ ¬ 1 ≤ fld (0x06000001#32) 16 4) ∧
    (let w : List W32 := [1023, 0x10, 0x06010000, 64, 50, 0, 0, 0, 0, 0, 0, 0]
     let s := strS .config 2 w
     let t := declareZone (s.setSout 1023 (some { soutX with cycle := s.mediaCycle })) 0
     sv s (lt 5 2 w) = true ∧ fld (w[1]?.getD 0) 0 3 < s.nLane ∧ s.sout 1023 = none ∧ s.sout 0 ≠ none ∧ (joinThread t 0).2 = 0 ∧ (joinThread t 0).1.runShort = 0 ∧ ({ s with straps := { s.straps with build := .fl128 } } : State).nLane ≤ 7) ∧
    (let s := strS .run 3 [0x10000]
     sv s (lt 5 3 [0x10000]) = true ∧ bitAt (0x10000#32) 16 = true ∧ s.sout 0 ≠ none ∧ s.sout 1 = none ∧ s.sin 0 ≠ none ∧ s.streamUsed 0 = false ∧ s.sin 1 = none ∧ (shS s fun h => { h with zones := [(0, { slots := [(0, { route := { src := .stream 0 0 } })] })] }).streamUsed 0 = true) ∧
    (sv (strS .run 4 [0]) (lt 5 4 [0]) = true ∧ (strS .run 4 [0]).sin 0 = some (sinX false) ∧ (strS .run 4 [0]).sout 0 = some soutX) := by (repeat' apply And.intro) <;> decide +kernel
/-- Table 11.8: IN declares stream 2047; R330: REMOVE removes it. -/
theorem test_streams :
    (let t := (nxt (exec (.streamIn 3) (strS .config 1 [2047, 0x06010001, 0, 0, 12]))).getD base
     (t.sin 2047).map (·.link) = some 12) ∧ ((nxt (exec (.streamRemove 3) (strS .run 3 [0]))).getD base).sin 0 = none := by decide +kernel

def lineP : LinePins := { gateA := 0, gateB := 1, lowA := 2, lowB := 3, sense := 4, status := 5, relayA := 6, relayB := 7 }
def supP : SupPins := { gate := 8, cur := 0, volt := 0, relay := 9, batt := 10 }
/-- Letter op of class cls with channel 0 and supply 15 set up. -/
def linS (st : ShState) (cls op : Nat) (body : List W32) (f : Chan → Chan) : State :=
  shS (letS st cls op body) fun h => { h with chans := [(0, f { pins := some lineP })], supplies := [(15, { pins := some supP })] }
/-- A valid PMK4. -/
def ref4S (s : State) : State := s.setRef 4 { (s.ref 4) with state := .locked }
/-- A channel with pins and one without, in use and not; each kind of baseline; latched and changed over; rounds to come, pending and past; a supply in each state of the letters. -/
theorem witness_LineAndPowerLetters :
    base.shUp = false ∧
    (let w : List W32 := [0x80000000, 0x20000008]
     let s := linS .config 6 1 w id
     sv s (lt 6 1 w) = true ∧ (s.chan 0).pins = some lineP ∧ (s.chan 1).pins = none ∧ badRec 0x20 0x38 (w.drop 1) = none ∧ badRec 0x20 0x38 [0x40000000] = some 0 ∧ (∀ e ∈ s.sheow.chans, e.1 ≠ 0 → e.2.enabled = true → e.2.zone ≠ 0) ∧ bitAt (w.headD 0) 9 = false ∧
     (joinThread (declareZone (s.setChan 0 { (s.chan 0) with enabled := true, params := setRecs (s.chan 0).params (w.drop 1) }) 0) 0).2 = 0 ∧ (joinThread (declareZone (s.setChan 0 { (s.chan 0) with enabled := true, params := setRecs (s.chan 0).params (w.drop 1) }) 0) 0).1.runShort = 0 ∧
     (∃ e ∈ (linS .config 6 1 w fun c => { c with enabled := true }).sheow.chans, e.1 ≠ 1 ∧ e.2.enabled = true ∧ e.2.zone = 0) ∧ (2 < s.nPin ∧ (s.pin 2).ownKind = 0)) ∧
    (let w : List W32 := [0, 0x000E000D, 0x0010000F, 17, 5, 19, 20]
     let s := linS .run 6 2 w id
     sv s (lt 6 2 w) = true ∧ (13 < s.nPin ∧ (s.pin 13).ownKind = 0) ∧ (5 < s.nPin ∧ (5 ∈ s.libPins)) ∧ ({ s with straps := { s.straps with build := .fl128 } } : State).nPin ≤ 767 ∧ ((s.setPin 13 { (s.pin 13) with ownKind := 1 }).pin 13).ownKind ≠ 0 ∧
     (∀ j, j < 4 → (linkAt (w[3]?.getD 0) j).1 < s.nPin ∧ ((s.pin (linkAt (w[3]?.getD 0) j).1).ownKind = 0 ∨ (linkAt (w[3]?.getD 0) j).1 ∈ s.libPins))) ∧
    (let w (k : Nat) (n : Nat) : List W32 := BitVec.ofNat 32 (k * 65536 + 1) :: List.replicate n 3
     sv (linS .run 6 3 (w 0 2) id) (lt 6 3 (w 0 2)) = true ∧ fld ((w 1 1).headD 0) 16 2 = 1 ∧ (w 2 18).length = 19 ∧ (w 3 2).length = 3 ∧ ((linS .run 6 3 (w 1 1) fun c => { c with loop := true }).chan 0).loop = true ∧ (1 % 2 == 1) = true ∧ ((linS .run 6 3 (w 1 1) id).chan 0).loop = false) ∧
    (sv (linS .run 6 4 [0] fun c => { c with trip := true }) (lt 6 4 [0]) = true ∧ ((linS .run 6 4 [0] fun c => { c with trip := true }).chan 0).latched = true ∧ ((linS .run 6 4 [0] id).chan 0).latched = false ∧
      sv (linS .run 6 5 [0] fun c => { c with loopOpen := true }) (lt 6 5 [0]) = true ∧ ((linS .run 6 5 [0] fun c => { c with loopOpen := true }).chan 0).loopOpen = true ∧ ((linS .run 6 5 [0] id).chan 0).loopOpen = false) ∧
    (let w (q : Nat) : List W32 := [BitVec.ofNat 32 q, 1, 0, 0, 0xFFFFFF00, 0xFFFFFFFF, 0xFFFFFFFF, 0xFFFFFFFF]
     let s (q : Nat) : State := linS .run 6 6 (w q) id
     let r : Round := { start := 0, stop := 1, idle := 30, groups := roundGroups 1 ((w 4).drop 4), baseline := false, active := false, group := 0 }
     sv (s 4) (lt 6 6 (w 4)) = true ∧ (w 4).length = 4 + 4 * (fld (0#32) 0 4 + 1) ∧ (s 4).sheow.round = none ∧ (s 4).refValid 4 = false ∧ (ref4S (s 4)).refValid 4 = true ∧ (ref4S (s 100000)).clk.bt < (ref4S (s 100000)).secBt4 100001 ∧
     (let t : State := { ref4S (s 4) with clk := { base.clk with bt := 50 * secBt } }; t.refValid 4 = true ∧ t.secBt4 (4 + 1) ≤ t.clk.bt) ∧ (shS (s 4) fun h => { h with round := some r }).sheow.round = some r) ∧
    (sv (linS .run 6 7 [] id) (lt 6 7 []) = true) ∧
    (let w : List W32 := [0x8000000F, 0x40000001]
     sv (linS .config 7 1 w id) (lt 7 1 w) = true ∧ ((linS .config 7 1 w id).supply 15).pins = some supP ∧ ((linS .config 7 1 w id).supply 0).pins = none ∧ ((linS .config 7 1 w id).supply 15).state = .off ∧ badRec 0x40 0x48 [0x20000000] = some 0 ∧
     ((linS .config 7 1 w id).setSupply 15 { pins := some supP, enabled := true, params := setRecs [] (w.drop 1) }).runShort = 0) ∧
    (let w : List W32 := [0, 767, 766, 9, 765, 764]
     sv (linS .run 7 2 w id) (lt 7 2 w) = true ∧ (∀ i, i < 768 → 764 ≤ i → i < base.nPin ∧ (base.pin i).ownKind = 0) ∧ 9 ∈ (linS .run 7 2 w id).libPins) ∧ sv (linS .run 7 3 [15] id) (lt 7 3 [15]) = true := by (repeat' apply And.intro) <;> decide +kernel
/-- Table 11.9: RESTART ends the latch; the supply's record is stored. -/
theorem test_restart :
    (((nxt (exec (.lineRestart 3) (linS .run 6 4 [0] fun c => { c with trip := true }))).getD base).chan 0).latched = false ∧
    (((nxt (exec (.powerSupply 3) (linS .config 7 1 [0x8000000F, 0x40000001] id))).getD base).supply 15).par 0x40 = 1 := by decide +kernel
/-- Tracker 2 in SAMP mode, user reference 7 and the servo; each refusal. -/
theorem witness_PostmarkLetters :
    base.shUp = false ∧
    (let w : List W32 := [0x80000002, 0x042FF000, 50, 0, 2000, 0]
     let s := letS .run 9 1 w
     sv s (lt 9 1 w) = true ∧ w.length = 6 ∧ fld (w.headD 0) 0 2 = 2 ∧ fld (w[1]?.getD 0) 26 2 = 1 ∧ fld (w[1]?.getD 0) 16 10 = 0x2F ∧ 0x2F < s.nPin ∧ (s.pin 0x2F).ownKind = 0 ∧ modeOk 2 (fld (s.ref 2).cfg 26 2) = true ∧ fld (3#32) 0 2 = 3 ∧ 1 < fld (0x08000000#32) 26 2 ∧
     ((s.setPin 0x2F { (s.pin 0x2F) with ownKind := 1 }).pin 0x2F).ownKind ≠ 0) ∧
    (let s := letS .run 9 2 [7, 0x0C000000, 60]
     sv s (lt 9 2 [7, 0x0C000000, 60]) = true ∧ fld (0x0C000000#32) 26 2 = 3 ∧ (s.pin 0).ownKind = 0 ∧ modeOk 7 (fld (s.ref 7).cfg 26 2) = true ∧ modeOk 6 (fld (s.ref 6).cfg 26 2) = true ∧ fld (5#32) 0 3 < 6) ∧
    (let s := letS .run 9 3 [0x80000000, 0, 0, 0]
     sv s (lt 9 3 [0x80000000, 0, 0, 0]) = true ∧ bitAt (0x80000000#32) 31 = true ∧ fld (0x80000000#32) 17 3 = 0 ∧ fld (0x80000000#32) 23 8 = 0 ∧ modeOk 3 (fld (s.ref 3).cfg 26 2) = true ∧ modeOk 4 (fld (s.ref 4).cfg 26 2) = true ∧ fld (0x20000#32) 17 3 ≠ 0 ∧ bitAt (8#32) 3 = true) ∧
    sv (letS .run 9 4 []) (lt 9 4 []) = true := by (repeat' apply And.intro) <;> decide +kernel
/-- R253: the servo's settings are taken, and PMK3 and PMK4 enabled. -/
theorem test_ptpLetter :
    (let t := (nxt (exec (.pmkPtp 3) (letS .run 9 3 [0x80000005, 0, 0, 0]))).getD base
     t.sheow.servo.ring = 5 ∧ (t.ref 3).en = true ∧ (t.ref 4).en = true) := by decide +kernel

/-! ### Plug-ins and services -/

/-- A plug-in at 0xC0000 with one window of 64 words at 100, in state st. -/
def plugX (st : PlState) : Plugin := { base := 0xC0000, size := 16, entry := 0, codeLen := 4, image := [1, 2, 3, 4], windows := [(100, true, 64), (0, false, 0)], state := st }
/-- Plug-in 7 in state st, the firmware in state q, with zone 0 mapped and its block's seal at 500. -/
def plS (q : ShState) (st : PlState) : State :=
  shS base fun h => { h with state := q, plugins := [(7, some (plugX st))], zones := [(0, { zoneX with slots := [(0, { saved := some { src := .msg 1 } })] })], zthreads := [(0, { tid := 3, zones := [0], sealAddr := 500 })] }
/-- A plug-in in each state; the first and last word of its window, and the word after; the seal free, its own, another's; alarms with blocks free and sealed; both sides of each time. -/
theorem witness_PlugIns :
    ((plS .run .ready).plugin 7 = some (plugX .ready) ∧ (plS .down .ready).shUp = false ∧ (plS .run .ready).shUp = true ∧ (plS .run .dead).plugin 7 = some (plugX .dead)) ∧
    (1 ≤ (1#32).toNat ∧ (1000000#32).toNat ≤ 1000000 ∧ (0#32).toNat = 0 ∧ 1000000 < (1000001#32).toNat) ∧
    ((plS .run (.sleeping 0)).plugin 7 = some (plugX (.sleeping 0)) ∧ 0 ≤ (plS .run .ready).clk.bt ∧ (plS .run .ready).clk.bt < 1 ∧ 0 + secBt ≤ ({ base with clk := { base.clk with bt := secBt } } : State).clk.bt ∧ base.clk.bt < 0 + secBt) ∧
    ((plugX .ready).windows[(0#32).toNat]? = some (100, true, 64) ∧ (64 : Nat) ≠ 0 ∧ (∀ v, v ∈ (plugX .ready).windows[(1#32).toNat]? → v.2.2 = 0) ∧ (plugX .ready).windows[(2#32).toNat]? = none) ∧
    ((∃ v ∈ (plugX .ready).windows, v.1 ≤ 100 ∧ 100 < v.1 + v.2.2) ∧ (∃ v ∈ (plugX .ready).windows, v.1 ≤ 163 ∧ 163 < v.1 + v.2.2) ∧ ¬ (∃ v ∈ (plugX .ready).windows, v.1 ≤ 164 ∧ 164 < v.1 + v.2.2)) ∧
    ((plS .run .ready).sealAt 100 = none ∧ (plS .run .ready).seals.held.length < 1024 ∧ (plS .run .ready).straps.pmTwin = false ∧ (plS .run .ready).seals.waits = [] ∧ ((plS .run .ready).setSeal 100 (some { owner := agentId .pmB, orphan := false, expiry := none })).sealAt 100 = some { owner := agentId .pmB, orphan := false, expiry := none } ∧ (5 : BitVec 13) ≠ agentId .pmB ∧
      (plS .run (.sealWait 100)).plugin 7 = some (plugX (.sealWait 100))) ∧
    (1 < (2#32).toNat ∧ 65535 < (65536#32).toNat ∧ (65535#32).toNat ≤ 65535 ∧ (plS .config .ready).sheow.state ≠ .run ∧ (plS .config .ready).shUp = true ∧ (plS .run .ready).blocksFree (plS .run .ready).mapped = true ∧ (sealedS (plS .run .ready)).blocksFree (plS .run .ready).mapped = false ∧ (plS .run .ready).blocksFree (plS .run .ready).taken = true) ∧
    ((plS .run (.stopped 0)).plugin 7 = some (plugX (.stopped 0)) ∧ (plugX .ready).image.length ≤ (plugX .ready).size) := by (repeat' apply And.intro) <;> decide +kernel
/-- Table 12.9: a window is answered in a0 and a1; R361: a plug-in that stops waits 1 s. -/
theorem test_plugin :
    (let t := (nxt (exec (.piWindow 7 0) (plS .run .ready))).getD base
     (t.plugin 7).map (fun x => (x.a0, x.a1)) = some (100, 64)) ∧
    (((nxt (exec (.pluginStop 7) (plS .run .ready))).getD base).plugin 7).map (·.state) = some (.stopped 0) := by decide +kernel

/-- base in RUN on the grid at cycle c0, with thread 0 of service n and no valid PMK3. -/
def srvS (n c0 : Nat) (f : Sheow → Sheow) : State :=
  shS base fun h => f { h with state := .run, grid := some (0, c0), roles := [(0, some { service := n, parcel := 0, base := 0, entry := 0 })] }
/-- Zone 0 on thread 0, due at cycle 48. -/
def zpS (z : Zone) (f : ZThread → ZThread) : State := srvS 1 48 fun h => { h with zones := [(0, z)], zthreads := [(0, f { tid := 0, zones := [0], cycle := 48, sealAddr := 500 })] }
/-- Due in bit form: the hypotheses of a zone period. -/
def ranZ (s : State) : Bool := decide (gridStep s = s) && s.libRuns (s.zth 0).tid && (s.zth 0).zones == [0] && s.cycleDue 48
def unity : Ramp := { cur := 0x8000, start := 0x8000, target := 0x8000 }
/-- A zone that plays message 7, which the store does not hold, so that it plays 0. -/
def playZ : Zone := { declared := true, vol := unity, slots := [(0, { route := { src := .msg 7 }, live := { src := .msg 7 }, active := true, g := unity })] }
/-- A zone whose ring is in a bank that is on, and one that is off; parameters changed; another's seal on the block; a stored message at unity gain; silence; noise windows; packets in order, repeated, lost and without a time; a stream out whose packet is due. -/
theorem witness_ZoneService :
    (let s := zpS { declared := true, ringBase := 128, ringLen := 128 } id
     ranZ s = true ∧ s.zoneBanks [0] = true ∧ s.mediaCycle = 48 ∧ s.bankHere (128 + 48 % 128) = true ∧ s.xch.err = [] ∧ s.srt.reqs = [] ∧ ranZ (zpS { declared := true } fun h => { h with cycle := 47 }) = true ∧ 47 ≠ (s.zth 0).cycle ∧ (zpS {} fun h => { h with cycle := 96 }).cycleDue 96 = false ∧ gridStep (zpS {} fun h => { h with cycle := 96 }) = (zpS {} fun h => { h with cycle := 96 }) ∧
     ({ s with pwr := { s.pwr with bankPow := 0 } } : State).zoneBanks [0] = false ∧ ranZ ({ s with pwr := { s.pwr with bankPow := 0 } } : State) = true) ∧
    (let s := zpS playZ fun h => { h with gen := 1 }
     ranZ s = true ∧ s.mediaCycle = (s.zth 0).cycle ∧ s.seals.held = [] ∧ s.seals.waits = [] ∧ (s.zth 0).gen ≠ (s.zth 0).liveGen ∧ s.zoneBanks [0] = true) ∧
    (let s := sealedS (zpS playZ id)
     ranZ s = true ∧ s.zoneBanks [0] = true ∧ s.sealAt 500 = some { owner := 5, orphan := false, expiry := none } ∧ (5 : BitVec 13) ≠ (0 : Tid).setWidth 13 ∧ s.mediaCycle = (s.zth 0).cycle ∧ s.sheow.chans = [] ∧ (s.zone 0).liveEq = [] ∧ (s.zone 0).slots.length = 1 ∧ (s.zone 0).vol = unity ∧ param (s.zone 0).live 2 = 0 ∧
     param (s.zone 0).live 7 % 2 = 0 ∧ s.play 7 0 48 = 0 ∧ ((sealedS (zpS { declared := true } id)).zone 0).slots = []) ∧
    (let s0 (z : Zone) : State := srvS 4 48 fun h => { h with zones := [(0, { z with declared := true, params := [(7, 1)] })], zthreads := [(0, { tid := 0, zones := [0] })] }
     let s (z : Zone) : State := { s0 z with clk := { (s0 z).clk with bt := 2400000000 } }
     gridStep (s {}) = s {} ∧ ((s {}).zone 0).angOn = true ∧ ((s {}).zone 0).declared = true ∧ ((s {}).role 0).map (·.service) = some 4 ∧ (s {}).libRuns 0 = true ∧ ((s {}).zone 0).angBt + 2400000000 ≤ (s {}).clk.bt ∧ 0 ≤ 2 * ((s {}).zone 0).par 0x0B ∧ 0 ≤ 2 * ((s {}).zone 0).par 0x0C ∧
     aboveLevel ((s {}).zone 0).outSq ((s {}).zone 0).angN (((s {}).zone 0).par 0x0D) = false ∧ 0 ∈ (s {}).threadsOf [0] ∧ (let q := (s { angN := 1, outSq := 2 ^ 31 }).zone 0; aboveLevel q.outSq q.angN (q.par 0x0D) = true) ∧
     (s0 {}).clk.bt < ((s0 {}).zone 0).angBt + 2400000000 ∧ ((s {}).zone 1).angOn = false) ∧
    (let s (q : Option Word) : State := srvS 2 48 fun h => { h with streamsIn := [(0, some { sinX false with lastSeq := q, tid := some 0 }), (1, some { sinX true with tid := some 0 }), (3, some (sinX false)), (4, some { sinX false with tid := some 1 })] }
     gridStep (s none) = s none ∧ (s none).libRuns 0 = true ∧ (s none).sin 0 = some { sinX false with tid := some 0 } ∧ (s none).sin 1 = some { sinX true with tid := some 0 } ∧ (s none).sin 2 = none ∧ ((s none).sin 3).map (·.tid) = some none ∧ ((s none).sin 4).map (·.tid) = some (some 1) ∧ (s none).libRuns 1 = false ∧
     ((s (some 5)).sin 0).map (·.lastSeq) = some (some 5) ∧ (6 : Word) ∉ (sinX false).seqs ∧ (6 : Word) ∈ ({ sinX false with seqs := [6] } : StreamIn).seqs ∧ (5 : Word) = 6 - 1 ∧ (5 : Word) = (32772 : Word) - 1 - BitVec.ofNat 16 32766 ∧ (5 : Word) = (7 : Word) - 1 - BitVec.ofNat 16 1 ∧ (5 : Word) = (4 : Word) + BitVec.ofNat 16 1 ∧
     1000 % 2 ^ 32 = (1000#32).toNat ∧ (s none).ptpNow / 844424930131968 ≤ 1000 + 2 ^ 31 ∧ 1000 < (s none).ptpNow / 844424930131968 + 2 ^ 31 ∧ ((s none).sin 1).map (·.lastSeq) = some none) ∧
    (let s0 := srvS 3 48 fun h => { h with streamsOut := [(0, some { soutX with cycle := 42 })], regions := [{ kind := 5, base := 1024, len := 4096 }] }
     let s1 : State := { s0 with lan := { s0.lan with lanes := [(0, { txqs := [(1, { cfg := 0x80000003 })], link := true })] } }
     let s : State := (shS s1 fun h => { h with pmkSeen := some 0 }).setRef 3 { (s1.ref 3) with state := .locked }
     gridStep s = s ∧ s.refValid 3 = true ∧ (∃ l ∈ soutX.lanes, (s.lane l).link = true) ∧ ¬ (∃ l ∈ soutX.lanes, (s0.lane l).link = true) ∧ s0.refValid 3 = false ∧ gridStep s0 = s0 ∧ soutX.down = false ∧ s.srt.reqs = [] ∧
     ({ soutX with down := true } : StreamOut).down = true ∧ s.serviceRuns 3 = true ∧ s.sout 0 = some { soutX with cycle := 42 } ∧ s.sout 1 = none ∧ s.cycleDue (42 + 6) = true ∧ bitAt ((s.lane 0).txq 1).cfg 31 = true ∧ ((s.xword 1 ++ s.xword 0) - ((s.lane 0).txq 1).cons).toNat < 2 ^ fld ((s.lane 0).txq 1).cfg 0 4 ∧ s.bankOn ((s.lane 0).txq 1).base.toNat = true ∧
     (s.regionsOf 5).head? = some { kind := 5, base := 1024, len := 4096 } ∧ ((s.frameOut soutX).length + 1) / 2 ≤ 2000 ∧ s.xch.err = [] ∧ s.bankHere 0 = true ∧ s.bankHere 1 = true ∧ (∀ j, j < 8 → s.bankHere (((s.lane 0).txq 1).desc 0 + j) = true) ∧ bitAt ((s0.lane 0).txq 1).cfg 31 = false) := by (repeat' apply And.intro) <;> decide +kernel
/-- The place of a frame (the free choice Config.choice) lies past the queue's words, whatever it is. -/
theorem framePlace_past (s : State) (n : Nat) (h : (s.regionsOf 5).head? = some { kind := 5, base := 1024, len := 4096 }) (hn : n ≤ 2000) : ∃ a, s.framePlace n = some a ∧ 2 ≤ a := by
  refine ⟨(1024 + 7) / 8 * 8 + Config.choice s.free % ((4096 - n) / 8) * 8, ?_, by omega⟩
  simp only [State.framePlace, h]
  rw [if_neg (by omega)]
/-- R25: a period that is done moves to the next cycle; R256: a lost AAF time is counted. -/
theorem test_period_tv :
    (((nxt (exec (.zonePeriod 0 48) (sealedS (zpS { declared := true } id)))).getD base).zth 0).cycle = 49 ∧
    (((nxt (exec (.receivePacket 1 { seq := 0, ts := 0, n := 6, slot := 0, tv := false }) (srvS 2 48 fun h => { h with streamsIn := [(1, some { sinX true with tid := some 0 })] }))).getD base).sin 1).map (·.tvLost) = some 1 := by decide +kernel

/-- Channel 0 of zone 0 on thread 0 in service 7, at block time bt (ms). -/
def chS (ms : Nat) (f : Chan → Chan) : State :=
  let s := srvS 7 0 fun h => { h with chans := [(0, f { pins := some lineP, tid := some 0, enabled := true, blankBt := 0, earthWin := 0 })] }
  { s with clk := { s.clk with bt := ms * msBt } }
def measX : LineMeas := { v := (100000, 0), a := (1000000, 0), b := (1000000, 0), insul := 1000000, iPos := 0, iNeg := 0, iPosB := 0, iNegB := 0, sweep := [], stuck := 0 }
/-- The hypotheses of a switching period, and of a supervision window that is judged, in bit form. -/
def modOk (s : State) : Bool := decide (gridStep s = s) && decide ((s.chan 0).live = (s.chan 0).params) && s.lateEdges (s.chan 0) == (s.chan 0).modLate
def sup0 (s : State) (m : LineMeas) : Bool :=
  decide (gridStep s = s) && decide ((s.chan 0).live = (s.chan 0).params) && (s.chan 0).enabled && s.serviceRuns 7 && (s.chan 0).fastWin != some (s.mediaCycle / 96) && m.stuck == 0 && (List.range 4).all fun i => !s.streamStuck 0 i
def open0 (s : State) (m : LineMeas) : Bool :=
  sup0 s m && (s.chan 0).sense == [] && !s.windowLost 0 && (s.chan 0).round == none && s.mediaCycle / 48000 == (s.chan 0).earthWin
def chOk (s : State) : Bool := decide ((s.chan 0).live = (s.chan 0).params ∧ (s.chan 0).tid = some 0 ∧ (s.chan 0).enabled = true ∧ s.libRuns 0 = true)
/-- The channel running and stopped, on both sides of each count and time of Tables 10.2 to 10.4; parameters set and not yet in force. -/
theorem witness_LineService :
    (let s := chS 100 id
     modOk s = true ∧ s.modulates 0 = some 0 ∧ (s.chan 0).pins = some lineP ∧ (s.chan 0).bridge4 = false ∧ lineP.gateA ≠ lineP.gateB ∧ 0 < (s.chan 0).parN 0x20 ∧ 4 ≤ (s.chan 0).parN 0x20 ∧ (s.chan 0).parN 0x20 ≤ 16 ∧ (s.chan 0).parN 0x22 ≤ 960 ∧ (s.chan 0).lastPer = none ∧
     (∀ g ∈ lineP.gates false, (s.pin g).eq.length + (s.pin g).eqX.length ≤ 2) ∧ modOk (chS 100 fun c => { c with stopped := true }) = true ∧ (chS 100 fun c => { c with stopped := true }).modulates 0 = none ∧ (s.chan 0).parN 0x20 ≤ 16 ∧
     (s.perBt 0 ((s.chan 0).parN 0x20) 0 0).isSome = true ∧ (let q := (s.setPin lineP.gateA { (s.pin lineP.gateA) with lateN := 1 }); (q.chan 0).modLate < q.lateEdges (q.chan 0))) ∧
    (let s := chS 100 id
     chOk s = true ∧ (lineP.gates false).Nodup ∧ (s.chan 0).stopped = false ∧ s.chanPrio 0 ≠ 15 ∧ 0 < (s.chan 0).parN 0x2A ∧ (shS s fun h => { h with zones := [(0, { slots := [(0, { route := { src := .msg 1, prio := 15 } })] })] }).chanPrio 0 = 15 ∧
     (let q := chS 100 fun c => { c with restarts := List.replicate 20 0 }; (q.chan 0).parN 0x2A ≤ ((q.chan 0).restarts.filter fun b => decide (q.clk.bt < b + 10 * secBt)).length) ∧
     (∃ g ∈ lineP.gates false, bitAt (({ s with pins := { s.pins with mm := [(0, 1)] } } : State).mmOf (g / 16)) (g % 16) = true) ∧ (∀ g ∈ lineP.gates false, bitAt (s.mmOf (g / 16)) (g % 16) = false) ∧ (s.chan 0).gate = false) ∧
    (let s := chS 10000 fun c => { c with limDeep := some 0 }
     chOk s = true ∧ (s.chan 0).limDeep = some 0 ∧ 0 + 10 * secBt ≤ s.clk.bt ∧ s.chanPrio 0 ≠ 15 ∧ (s.chan 0).ovlTrip = false ∧ ((chS 0 id).chan 0).limDeep = none) ∧
    (let s (b : Option Nat) : State := chS 100 fun c => { c with limAt := b }
     chOk (s none) = true ∧ ((s none).chan 0).hasCurrents = true ∧ 0 + 100 * msBt ≤ (s (some 0)).clk.bt ∧ ((s (some 1)).chan 0).limAt = some 1 ∧ (s (some 1)).clk.bt < 1 + 100 * msBt ∧ ((chS 100 fun c => { c with sense := [(1, none)] }).chan 0).hasCurrents = false) ∧
    (let s := chS 100000 fun c => { c with stopped := true }
     chOk s = true ∧ (s.chan 0).stopped = true ∧ (s.chan 0).latched = false ∧ (s.chan 0).stopAt + (s.chan 0).parN 0x2B * msBt ≤ s.clk.bt ∧ (chS 0 fun c => { c with stopped := true }).clk.bt < ((chS 0 fun c => { c with stopped := true }).chan 0).stopAt + ((chS 0 fun c => { c with stopped := true }).chan 0).parN 0x2B * msBt) ∧
    (let s (b : Bool) : State := chS 100 fun c => { c with params := [(0x20, 5)], setCyc := 1, stopped := false, enabled := b }
     ((s true).chan 0).live ≠ ((s true).chan 0).params ∧ ((s true).chan 0).setCyc ≠ (s true).mediaCycle ∧ (s true).modulates 0 = some 0 ∧ (s false).modulates 0 = none ∧ ((s false).chan 0).stopped = false) := by (repeat' apply And.intro) <;> decide +kernel
/-- Supervision windows that fail for the last time needed and the first; windows discarded, repeated and with stuck streams. -/
theorem witness_LineService_windows :
    (let s (f : Chan → Chan) : State := chS 100 f
     let g (f : Leg → Leg) : State := s fun c => { c with legA := f c.legA }
     (open0 (s id) measX = true ∧ measZ measX false = 100000 ∧ ((s id).chan 0).slowN < 4999 ∧ sup0 (chS 1 id) measX = true ∧ (chS 1 id).windowLost 0 = true ∧ ((s id).chan 0).fastWin = none ∧ ({ measX with stuck := 9 } : LineMeas).stuck.testBit 3 = true ∧ ((chS 100 fun c => { c with fastWin := some 50 }).chan 0).fastWin = some ((chS 100 id).mediaCycle / 96)) ∧
     (sup0 (s fun c => { c with sense := [(3, none)] }) measX = true ∧ 100 * msBt < 0 + secBt ∧ sup0 (chS 1000 fun c => { c with sense := [(3, some 0)] }) measX = true ∧ 0 + secBt ≤ (chS 1000 id).clk.bt) ∧
     (open0 (g fun l => { l with failShort := 2, zb := some 100000 }) { measX with v := (1, 0) } = true ∧ measZ { measX with v := (1, 0) } false = 1 ∧ ((g id).chan 0).isShort (some 100000) 1 = true ∧ ((g id).chan 0).isOpen (some 100000) 1 = false ∧ ((g id).chan 0).isShort none 3999 = true) ∧
     (measZ { measX with v := (10000000, 0) } false = 10000000 ∧ ((g fun l => { l with failOpen := 1 }).chan 0).isOpen (some 100) 10000000 = true ∧ ((g id).chan 0).isShort (some 100) 10000000 = false) ∧
     (((g id).chan 0).shortOver none 6001 = true ∧ ((g id).chan 0).isShort none 6001 = false ∧ ((g id).chan 0).isOpen none 6001 = false ∧ open0 (chS 6000 fun c => { c with legA := { c.legA with cls := some .short, okFrom := some 0 }, earthWin := 6 }) measX = true ∧ 0 + 5 * secBt ≤ (chS 6000 id).clk.bt) ∧
     (let q := s fun c => { c with slowN := 4999, legA := { c.legA with zb := some 100000, failDrift := 5 }, slowV := (10 ^ 9, 0), slowA := (10 ^ 9, 0) }
      open0 q measX = true ∧ (q.chan 0).slowBad = 0 ∧ beyond ((q.chan 0).parN 0x35) (zOf (10 ^ 9 + 100000, 0) (10 ^ 9 + 1000000, 0)) 100000 = true ∧ (q.chan 0).isShort (some 100000) 100000 = false ∧ (q.chan 0).isOpen (some 100000) 100000 = false) ∧
     (let e (b : Bool) : State := chS 1000 fun c => { c with failEarth := 4, earthBad := b }
      sup0 (e false) measX = true ∧ (e false).windowLost 0 = false ∧ (e false).mediaCycle / 48000 ≠ ((e false).chan 0).earthWin ∧ 0 < ((e false).chan 0).parN 0x33 ∧ ((e true).chan 0).earthBad = true) ∧
     (let q (b : Bool) : State := s fun c => { c with loop := true, loopOpen := b, failLoop := 1, legB := { c.legB with rhob := some 1000 } }
      open0 (q false) { measX with b := (0, 0) } = true ∧ measRho { measX with b := (0, 0) } = 0 ∧ ((q false).chan 0).isShort none 100000 = false ∧ ((q false).chan 0).isOpen none 100000 = false ∧ 100 * 0 < ((q false).chan 0).parN 0x32 * 1000 ∧
      open0 (q true) measX = true ∧ measSum { measX with v := (1, 0) } = 0 ∧ ((q true).chan 0).isShort none 0 = true ∧ measSum { measX with a := (0, 0), b := (0, 0) } = 2 ^ 31 - 1 ∧ ((q true).chan 0).isOpen none (2 ^ 31 - 1) = true ∧ ((q true).chan 0).isShort none (2 ^ 31 - 1) = false)) := by (repeat' apply And.intro) <;> decide +kernel
/-- R297: the third failing window classes a leg as short. -/
theorem test_short :
    (((nxt (exec (.supervisionWindow 0 { measX with v := (1, 0) }) (chS 100 fun c => { c with legA := { c.legA with failShort := 2 } }))).getD base).chan 0).legA.cls = some .short := by decide +kernel

/-- A round of channel 0, in its window of 10 s to 100 s, active or not. -/
def rndX (act bl : Bool) : Round := { start := 10 * secBt, stop := 100 * secBt, idle := 1, groups := [[0]], baseline := bl, active := act, group := 0 }
/-- Channel 0 with the round r and in round state q, at bt ms. -/
def rdS (ms : Nat) (r : Option Round) (q : Option RoundCh) (f : Chan → Chan := id) : State := shS (chS ms fun c => f { c with round := q }) fun h => { h with round := r }
def recX : Rec := { cls := 12, kind := 0, unitKind := 1, unit := 0, box := 3, lcls := 6, body := [1, 2, 3, 4, 5, 6, 7, 8] }
/-- Before, in and after the round's window; a channel that is idle and one in use; each kind of step; retries and the flush on both sides of their times, with room and without. -/
theorem witness_RoundsAndRecords :
    (let s := rdS 20000 (some (rndX false true)) none
     s.sheow.round = some (rndX false true) ∧ (rndX false true).start ≤ s.clk.bt ∧ s.clk.bt < (rndX false true).stop ∧ s.serviceRuns 7 = true ∧ (rndX false true).groups = [[0]] ∧ (s.chan 0).enabled = true ∧ (s.chan 0).loopOpen = false ∧ (s.zone 0).anyActive = false ∧
     (s.zone 0).idleFrom + 1 * secBt ≤ s.clk.bt ∧ (base.sheow.round = none) ∧ (rdS 9999 none none).clk.bt < (rndX false true).start ∧ (rndX false true).stop ≤ (rdS 100000 none none).clk.bt ∧ ((rdS 20000 none none fun c => { c with loopOpen := true }).chan 0).loopOpen = true ∧ (s.chan 0).live = (s.chan 0).params ∧ (s.chan 0).stopped = false) ∧
    (let s (i : Nat) (b : Bool) : State := rdS 20000 (some (rndX true b)) (some (.testing false i (20000 * msBt)))
     ((s 0 true).chan 0).round = some (.testing false 0 (20000 * msBt)) ∧ 20000 * msBt ≤ (s 0 true).clk.bt ∧ (s 0 true).serviceRuns 7 = true ∧ (rdS 19999 none none).clk.bt < 20000 * msBt ∧ (0 ∈ (rndX true true).groups[(rndX true true).group]?.getD []) ∧ ((s 1 false).chan 0).loop = false ∧
     ((s 1 false).chan 0).live = ((s 1 false).chan 0).params ∧ ((s 1 false).chan 0).stopped = false ∧ ((s 1 false).chan 0).sense = [] ∧ measZ { measX with v := (1, 0) } false = 1 ∧ measZ measX true = 100000 ∧
     ((rdS 20000 none none fun c => { c with stopped := true }).chan 0).stopped = true ∧ (rndX false true).active = false ∧ (0, none) ∈ ((rdS 20000 none none fun c => { c with sense := [(0, none)] }).chan 0).sense ∧
     ((s 14 true).chan 0).relaysNormal = true ∧ ((rdS 20000 none none fun c => { c with legA := { c.legA with relay := true } }).chan 0).relaysNormal = false ∧ (rndX true true).groups = [[0]] ∧ (rndX true true).group = 0 ∧
     ((s 1 false).chan 0).isShort none 1 = true ∧ ((s 1 false).chan 0).legA.cls = none ∧ ((s 1 false).chan 0).legB.cls = none ∧ ((s 1 false).chan 0).isShort none 100000 = false ∧ ((s 1 false).chan 0).isOpen none 100000 = false ∧ ((s 1 false).chan 0).pins ≠ none ∧
     ((rdS 20000 none none fun c => { c with loop := true }).chan 0).loop = true ∧ (rndX false true).active = false) ∧
    (let s := rdS 70000 (some (rndX true true)) (some (.waiting (10 * secBt)))
     (s.chan 0).round = some (.waiting (10 * secBt)) ∧ 10 * secBt + 60 * secBt ≤ s.clk.bt ∧ s.clk.bt < (rndX true true).stop ∧ (rdS 69999 none none).clk.bt < 10 * secBt + 60 * secBt ∧ 0 ∈ (rndX true true).chans) ∧
    (let s := shS (rdS 1000 none none) fun h => { h with records := [recX] }
     s.shUp = true ∧ s.sheow.flushSec < s.clk.bt / secBt ∧ s.sheow.recDropped = 0 ∧ s.recRoom recX = true ∧ recX.box < 16 ∧ recX.body.length = 8 ∧ (s.setBox 3 { (s.box 3) with outq := [{ cls := 1, op := 2, tag := 7, event := false, more := false, status := 0, body := [], since := 0 }] }).recRoom recX = false ∧
     (rdS 999 none none).clk.bt / secBt ≤ s.sheow.flushSec ∧ s.sheow.dlLog.length < 512 ∧ (rdS 1000 none none).sheow.records = []) := by (repeat' apply And.intro) <;> decide +kernel
/-- R301: step 0 leads to step 1; R311: a record that is held goes out at the end of the second. -/
theorem test_round_flush :
    (((nxt (exec (.roundStep 0 measX) (rdS 20000 (some (rndX true true)) (some (.testing false 0 (20000 * msBt)))))).getD base).chan 0).round.isSome = true ∧
    ((nxt (exec .recordFlush (shS (rdS 1000 none none) fun h => { h with records := [recX] }))).getD base).sheow.records = [] := by decide +kernel

/-- Supply 15 on thread 0 in service 8, at block time bt (ms). -/
def suS (ms : Nat) (f : Supply → Supply) (r : Ref → Ref := id) : State :=
  let s := srvS 8 0 fun h => { h with supplies := [(15, f { pins := some supP, tid := some 0, enabled := true, params := [(0x40, 0), (0x42, 4000), (0x43, 1000)], live := [(0x40, 0), (0x42, 4000), (0x43, 1000)] })] }
  let s : State := { s with clk := { s.clk with bt := ms * msBt } }
  s.setRef ((s.supply 15).phase) (r (s.ref (s.supply 15).phase))
def suOk (s : State) : Bool := decide ((s.supply 15).live = (s.supply 15).params ∧ (s.supply 15).tid = some 0 ∧ (s.supply 15).enabled = true ∧ (s.supply 15).pins = some supP ∧ s.libRuns 0 = true)
/-- A supply in every state, its tracker valid and not, its bus low and at the setpoint, and each time of the return on both sides. -/
theorem witness_SupplyService :
    (suOk (suS 0 id) = true ∧ ((suS 0 id).supply 15).pfcOn = false ∧ ((suS 0 fun x => { x with state := .mains }).supply 15).pfcOn = true ∧ (base.supply 15).enabled = false ∧ ((suS 0 id).ref ((suS 0 id).supply 15).phase).state.valid = false ∧
      (let s := suS 0 fun x => { x with enabled := false, live := [] }; (s.supply 15).live ≠ (s.supply 15).params ∧ (s.supply 15).setCyc = s.mediaCycle ∧ (let q := suS 0 fun x => { x with enabled := false, live := [], setCyc := 1 }; (q.supply 15).setCyc ≠ q.mediaCycle)) ∧
      (suS 0 fun x => { x with state := .mains }).powThread 15 ≠ none) ∧
    (let s := suS 0 id fun r => { r with state := .locked }
     suOk s = true ∧ (s.ref (s.supply 15).phase).state.valid = true ∧ 0 ≤ (s.supply 15).limit s.clk.bt ∧ (s.supply 15).sag = false) ∧
    (let s := suS 0 fun x => { x with state := .mains }
     suOk s = true ∧ (s.supply 15).state = .mains ∧ 100 * ((0 : Nat) : Int) < (s.supply 15).par 0x45 * (s.supply 15).par 0x42 ∧ ¬ 100 * ((1000000 : Nat) : Int) < (s.supply 15).par 0x45 * (s.supply 15).par 0x42 ∧ supP.gate ≠ supP.batt ∧ fld supP.relay 0 10 ≠ supP.batt ∧ fld supP.relay 0 10 ≠ supP.gate ∧ bitAt supP.relay 16 = false ∧
     (s.pin supP.batt).eqFull = false ∧ (s.pin (fld supP.relay 0 10)).eqFull = false) ∧
    (let s := suS 1000000 (fun x => { x with state := .battery, stableFrom := some 0 }) fun r => { r with state := .locked }
     suOk s = true ∧ (s.supply 15).state = .battery ∧ (s.supply 15).stableFrom = some 0 ∧ 0 + (s.supply 15).parN 0x46 * secBt ≤ s.clk.bt ∧ (s.ref (s.supply 15).phase).state = .locked ∧ (suS 0 id).clk.bt < 0 + (s.supply 15).parN 0x46 * secBt ∧ ((suS 0 fun x => { x with state := .battery }).supply 15).stableFrom = none) ∧
    (let s := suS 1000 (fun x => { x with state := .returning, retStep := 1 }) fun r => { r with freq := 50 * 2 ^ 32 }
     suOk s = true ∧ (s.supply 15).state = .returning ∧ (s.supply 15).retStep = 1 ∧ (s.supply 15).retBt + s.fourCycles (s.supply 15).phase ≤ s.clk.bt ∧ (let q := suS 79 (fun x => { x with state := .returning, retStep := 1 }) fun r => { r with freq := 50 * 2 ^ 32 }; q.clk.bt < (q.supply 15).retBt + q.fourCycles (q.supply 15).phase)) ∧
    (let s := suS 1000 fun x => { x with state := .returning, retStep := 2, busOk := some 0 }
     suOk s = true ∧ (s.supply 15).retStep = 2 ∧ (s.supply 15).nearBus ((s.supply 15).par 0x42).toNat = true ∧ (s.supply 15).nearBus (2 * ((s.supply 15).par 0x42).toNat + 1) = false ∧ (s.supply 15).busOk = some 0 ∧ 0 + secBt ≤ s.clk.bt ∧ ((suS 0 id).supply 15).busOk = none) := by (repeat' apply And.intro) <;> decide +kernel
/-- Table 10.6: SAG on the mains; R308: the change to battery. -/
theorem test_supply :
    (((nxt (exec (.mainsEventResponse 15 1) (suS 0 fun x => { x with state := .mains }))).getD base).supply 15).sag = true ∧
    (((nxt (exec (.batteryChangeover 15 0 0) (suS 0 fun x => { x with state := .mains }))).getD base).supply 15).state = .battery := by decide +kernel

/-- base in RUN with the servo enabled and changed, at bt ms; PMK3 valid or not. -/
def ptS (ms : Nat) (v : Bool) (f : Servo → Servo) : State :=
  let s := shS base fun h => { h with state := .run, servo := f { h.servo with en := true } }
  let s : State := { s with clk := { s.clk with bt := ms * msBt } }
  if v then s.setRef 3 { (s.ref 3) with state := .locked } else s
/-- base in RUN: depot 0 with fstat f and transfer x, depot 31 in RUN as a spare, the moves as given. -/
def tkS (fs : BitVec 7) (x : Xfer) (ms : List Move) (spares : W32) : State :=
  let s := (base.setDep 0 { (base.dep 0) with fstat := fs, xfer := x }).setDep 31 { (base.dep 31) with state := .run, en := true }
  shS s fun h => { h with state := .run, moves := ms, spares := spares }
def tkL (body : List W32) (begun : Bool) (s : State) : State := s.setBox 3 { (s.box 3) with svc := some (lt 3 6 body begun) }
def mov : Move := { f := 0, sp := 31, pairs := 0 }
/-- Offsets on either side of each bound, log intervals at both ends; takeovers asked for, going on, done; a mismatch with a spare and without; an ECC fault of a library thread. -/
theorem witness_TimeAndTakeovers :
    ((ptS 1000 false id).sheow.servo.en = true ∧ (ptS 1000 false id).shUp = true ∧ base.sheow.servo.en = false ∧ ((ptS 1000 false id).refValid 3 || (ptS 1000 false id).refValid 4) = false ∧ (ptS 1000 false id).sheow.servo.loaded = false ∧ (ptS 1000 true id).refValid 3 = true ∧ (-7 : Int) ≤ 0 ∧
      (255 : Nat) ≠ (ptS 1000 false id).sheow.servo.dom ∧ 1000000000 < (1000000001 : Int).natAbs ∧ (ptS 1000 true id).sheow.servo.tmplLen = 0 ∧ 50000 < (50001 : Int).natAbs ∧ (-1000000000 : Int).natAbs ≤ 1000000000 ∧ (-50000 : Int).natAbs ≤ 50000 ∧ (-7 : Int) ≠ (ptS 0 false id).sheow.servo.logInt ∧ (0 : Int) = (ptS 0 false fun v => { v with logInt := 0 }).sheow.servo.logInt) ∧
    (let s := ptS 1000 false fun v => { v with pairUsed := true, logInt := 0 }
     s.sheow.servo.pairUsed = true ∧ (ptS 2000 false fun v => { v with pairUsed := true, logInt := 0 }).sheow.servo.lastSync + 2 * (secBt / 2 ^ (-(0 : Int)).toNat) ≤ (ptS 2000 false id).clk.bt ∧ s.clk.bt < s.sheow.servo.lastSync + 2 * (secBt / 2 ^ (-(0 : Int)).toNat)) ∧
    (let s := tkL [0x1F00] false (tkS 0 {} [] 0x80000000)
     sv s (lt 3 6 [0x1F00]) = true ∧ fld (0x1F00#32) 8 5 = 31 ∧ 31 < s.nDep ∧ bitAt s.sheow.spares 31 = true ∧ s.xferOk 0 31 = true ∧ (s.dep 0).xfer.phase = .idle ∧ (tkS 0 {} [] 0).xferOk 0 0 = false ∧ ({ s with straps := { s.straps with build := .fl128 } } : State).nDep ≤ 31) ∧
    (let s (p : XPhase) : State := tkL [0x1F00] true (tkS 0 { phase := p } [mov] 0x80000000)
     sv (s .code) (lt 3 6 [0x1F00] true) = true ∧ (s .code).sheow.moves = [mov] ∧ ((s .code).dep 0).xfer.phase.active = true ∧ ((s .done).dep 0).xfer.phase = .done ∧ ((s .idle).dep 0).xfer.phase.active = false ∧ ((s .idle).dep 0).xfer.phase ≠ .done) ∧
    (let s := tkS 2 {} [] 0x80000000
     s.shUp = true ∧ 0 < s.nDep ∧ bitAt (s.dep 0).fstat 1 = true ∧ s.sheow.told = 0 ∧ s.spareFor 0 = some 31 ∧ (shS s fun h => { h with told := 1 }).sheow.told = 1 ∧ bitAt (0x40#7) 6 = true ∧ (tkS 0x40 {} [] 0).spareFor 0 = none ∧ bitAt (tkS 0x40 {} [] 0).sheow.failed 0 = false ∧ bitAt (0#7) 2 = false) ∧
    (let s := tkS 0 { phase := .done } [mov] 0x80000000
     s.sheow.moves = [mov] ∧ (s.dep 0).xfer.phase = .done ∧ mov.pairs = 0 ∧ mov.sp < s.nDep ∧ (s.dep 0).fstat = 0) ∧
    (let s := shS (baseT fun h => { h with state := .faulted, tfault := .eccXch, slice := 0x8200 }) fun h => { h with state := .run, roles := [(0, some { service := 7, parcel := 0, base := 0, entry := 9 })] }
     s.shUp = true ∧ s.role 0 = some { service := 7, parcel := 0, base := 0, entry := 9 } ∧ (s.thr 0).state = .faulted ∧ (s.thr 0).tfault = .eccXch ∧ s.depRun 0 = true ∧ s.frozen 0 = false ∧ s.follower 0 = false ∧ bitAt (s.thr 0).slice 15 = true ∧ base.library 0 = false) := by (repeat' apply And.intro) <;> decide +kernel
/-- base in RUN with the servo, a template and a region for frames; lane 0 with its queue 0 on. -/
def dlyS (on : Bool) : State :=
  let s := shS (ptS 1000 true fun v => { v with tmplLen := 60 }) fun h => { h with regions := [{ kind := 5, base := 1024, len := 4096 }] }
  { s with lan := { s.lan with lanes := if on then [(0, { txqs := [(0, { cfg := 0x80000003 })] })] else [] } }
/-- R253: a template, a queue with room and without, and a place for the frame. -/
theorem witness_TimeAndTakeovers_delayReq :
    ((dlyS true).sheow.servo.tmplLen ≠ 0 ∧ (dlyS true).queueRoom (dlyS true).sheow.servo.path (dlyS true).sheow.servo.queue = true ∧ (dlyS false).queueRoom (dlyS false).sheow.servo.path (dlyS false).sheow.servo.queue = false) ∧
    ∃ a, (dlyS true).framePlace (((dlyS true).sheow.servo.tmplLen + 1) / 2) = some a := by
  refine ⟨by decide +kernel, ?_⟩
  obtain ⟨a, h, _⟩ := framePlace_past (dlyS true) 30 (by decide +kernel) (by decide)
  exact ⟨a, h⟩
/-- R395: a library thread with an ECC fault restarts at its entry; R390: the takeover begins. -/
theorem test_restart_takeover :
    (((nxt (exec (.threadEccRestart 0) (shS (baseT fun h => { h with state := .faulted, tfault := .eccXch, slice := 0x8200 }) fun h => { h with state := .run, roles := [(0, some { service := 7, parcel := 0, base := 0, entry := 9 })] }))).getD base).thr 0).pc = 9 ∧
    ((nxt (exec (.takeoverResponse 0) (tkS 2 {} [] 0x80000000))).getD base).sheow.moves = [mov] := by decide +kernel

/-! ### The whole block -/

/-- R110: a word the decoder reads and encode writes. -/
theorem witness_EncodeThenDecode : (Instr.add 5 1 2 3).wellFormed = true ∧ (encodeEng (.add 5 1 2 3)).isSome = true ∧ (encodeEng (.sub 4095 1 2 3)).isSome = true := by decide +kernel
theorem witness_DecodeThenEncode : (decodeEng 5 0x94000000).isSome = true := by decide +kernel
/-- A command in front, an empty queue. -/
theorem witness_StepRunsFront :
    ({ base with pending := [.add 0 0 2 3, .sub 0 0 2 3] } : State).pending = [.add 0 0 2 3, .sub 0 0 2 3] ∧ base.pending = [] := by decide +kernel
/-- A state in canonical form whose step answers a next state. -/
theorem witness_StepsKeepMemoryForm : base.memOk = true ∧ (nxt (step { base with pending := [.add 0 0 2 3] })).isSome = true ∧ ({ base with pending := [.add 0 0 2 3] } : State).memOk = true := by decide +kernel
/-- The step of a queue runs its front command and keeps the rest. -/
theorem test_step :
    (let t := (nxt (step { base with pending := [.add 0 0 2 3, .sub 0 0 2 3] })).getD base
     t.pending = [.sub 0 0 2 3] ∧ (t.thr 0).reg 0 = 0x8000) ∧ (((nxt (step base)).getD base).clk.bt = 8) := by decide +kernel
end Sys2Proof.Tests
end

section
/-! SUPPORT. The register map seen from the bus (Table 16.7): which unit answers an offset, and what a unit's own offset reaches. -/
namespace Sys2Proof.Machine

/-- The block answers agent ag at every offset: out of reset, in Run, Trim or Vigil, and debug at level 3. -/
def State.Serves (s : State) (ag : Agent) : Prop :=
  s.inReset = false ∧ s.pwr.state ≠ .off ∧ s.pwr.state ≠ .hold ∧ (ag = .dbg → s.dbg.level = 3)

/-! ### Offsets in register arrays -/

theorem idxIn_at {base stride n i o : Nat} (ho : o = base + stride * i) (hi : i < n) (hs : 0 < stride) :
    idxIn o base stride n = some i := by
  subst ho
  simp [idxIn, hi, Nat.mul_div_cancel_left i hs]

theorem idxIn_past {o base stride n : Nat} (h : base + stride * n ≤ o) (hs : 0 < stride) : idxIn o base stride n = none := by
  have hn : n ≤ (o - base) / stride := (Nat.le_div_iff_mul_le hs).2 (by rw [Nat.mul_comm]; omega)
  exact if_neg fun ⟨_, _, hlt⟩ => Nat.not_lt.2 hn hlt

theorem idxIn_before {o base stride n : Nat} (h : o < base) : idxIn o base stride n = none :=
  if_neg fun ⟨hle, _⟩ => Nat.not_le.2 h hle

/-! ### Which unit answers -/

/-- The unit of window w answers a read at its offset o. -/
def windowRead (s : State) (ag : Agent) (w o : Nat) : State :=
  match w with
  | 0 => srtRead s o
  | 1 => pmkRead s ag o
  | 2 => pinRead s o
  | 3 => sealRead s ag o
  | 4 => lanRead s o
  | 5 => irqRead s o
  | 6 => pwrRead s o
  | 7 => secRead s ag o
  | 8 => dbgRead s (dbgSrcOf ag) o
  | 9 => idRead s o
  | _ => ret s 0

/-- The unit of window w takes a write of v at its offset o. -/
def windowWrite (s : State) (ag : Agent) (w o : Nat) (v : W32) : State :=
  match w with
  | 0 => srtWrite s ag o v
  | 1 => pmkWrite s ag o v
  | 2 => pinWrite s ag o v
  | 3 => sealWrite s ag o v
  | 4 => lanWrite s ag o v
  | 5 => irqWrite s ag o v
  | 6 => pwrWrite s ag o v
  | 7 => secWrite s ag o v
  | 8 => dbgWrite s (dbgSrcOf ag) o v
  | 9 => idWrite s ag o v
  | _ => s

theorem State.Serves.dbgVisible {s : State} {ag : Agent} (h : s.Serves ag) (off : Nat) : ¬ (ag = .dbg ∧ s.dbgVisible off = false) := by
  obtain ⟨_, _, hhold, hdbg⟩ := h
  rintro ⟨hag, hv⟩
  simp [State.dbgVisible, hdbg hag, hhold] at hv

theorem State.Serves.dbgReaches {s : State} {ag : Agent} (h : s.Serves ag) (off : Nat) : ¬ (ag = .dbg ∧ s.dbgReaches off = false) := by
  obtain ⟨_, _, hhold, hdbg⟩ := h
  rintro ⟨hag, hv⟩
  simp [State.dbgReaches, hdbg hag, hhold] at hv

section
variable {s t : State} {ag : Agent} {off d w o : Nat} {v : W32}

/-- The place of offset o of the window of depot d in the map. -/
theorem depot_offset (hoff : off = 0x1100000 + 0x10000 * d + o) (hd : d < 32) (ho : o < 0x10000) (h4 : o % 4 = 0) :
    ¬ off < 0x1000000 ∧ 0x1100000 ≤ off ∧ off < 0x1300000 ∧ off % 4 = 0 ∧ (off - 0x1100000) / 0x10000 = d ∧ off % 0x10000 = o := by
  omega

theorem regRead_window (h : s.Serves ag) (hoff : off % 4 = 0 ∧ 0x1000000 ≤ off ∧ off < 0x1100000) :
    regRead s ag off = windowRead s ag ((off - 0x1000000) / 0x10000) (off % 0x10000) := by
  have hvis := h.dbgVisible off
  obtain ⟨hres, hpwr, hhold, _⟩ := h
  obtain ⟨h4, hlo, hhi⟩ := hoff
  simp [regRead, windowRead, hres, hpwr, hhold, h4, hvis, Nat.not_lt.2 hlo, Nat.not_le.2 hhi] <;> rfl

theorem regRead_depot (h : s.Serves ag) (hoff : off = 0x1100000 + 0x10000 * d + o) (hd : d < 32) (ho : o < 0x10000) (h4 : o % 4 = 0) :
    regRead s ag off = depRead s ag d o := by
  have hvis := h.dbgVisible off
  obtain ⟨hres, hpwr, hhold, _⟩ := h
  obtain ⟨hlo, hmid, hhi, h4, hd, ho⟩ := depot_offset hoff hd ho h4
  simp [regRead, hres, hpwr, hhold, h4, hvis, hlo, hmid, hhi, hd, ho]

/-- R8: nothing answers at an unaligned offset or outside the map. -/
theorem regRead_unassigned (h : off < 0x1000000 ∨ off % 4 ≠ 0 ∨ 0x1300000 ≤ off) : regRead s ag off = ret s 0 := by
  unfold regRead
  split
  · rfl
  · have hmid : 0x1100000 ≤ off := by omega
    have hhi : ¬ off < 0x1300000 := by omega
    simp [hmid, hhi]

theorem regWrite_window (h : s.Serves ag) (hoff : off % 4 = 0 ∧ 0x1000000 ≤ off ∧ off < 0x10C0000) :
    regWrite s ag off v = windowWrite s ag ((off - 0x1000000) / 0x10000) (off % 0x10000) v := by
  have hvis := h.dbgReaches off
  obtain ⟨hres, hpwr, hhold, _⟩ := h
  obtain ⟨h4, hlo, hhi⟩ := hoff
  have hmid : ¬ 0x1100000 ≤ off := by omega
  simp [regWrite, windowWrite, hres, hpwr, hhold, h4, hvis, hmid, Nat.not_lt.2 hlo, Nat.not_le.2 hhi] <;> rfl

theorem regWrite_depot (h : s.Serves ag) (hoff : off = 0x1100000 + 0x10000 * d + o) (hd : d < 32) (ho : o < 0x10000) (h4 : o % 4 = 0) :
    regWrite s ag off v = depWriteReg s ag d o v := by
  have hvis := h.dbgReaches off
  obtain ⟨hres, hpwr, hhold, _⟩ := h
  obtain ⟨hlo, hmid, hhi, h4, hd, ho⟩ := depot_offset hoff hd ho h4
  simp [regWrite, hres, hpwr, hhold, h4, hvis, hlo, hmid, hhi, hd, ho]

/-- R8: a write at an unaligned offset or outside the map is ignored. -/
theorem regWrite_unassigned (h : off < 0x1000000 ∨ off % 4 ≠ 0 ∨ 0x1300000 ≤ off) : regWrite s ag off v = s := by
  unfold regWrite
  split
  · rfl
  · have hmid : 0x1100000 ≤ off := by omega
    have hhi : ¬ off < 0x1300000 := by omega
    simp [hmid, hhi]

/-! ### The two commands -/

theorem exec_rcRegisterRead : exec (.rcRegisterRead ag off) s = .next (regRead s ag off) := rfl
theorem exec_registerWrite : exec (.registerWrite ag off v) s = .next (regWrite s ag off v) := rfl

theorem read_window (h : s.Serves ag) (hoff : off % 4 = 0 ∧ 0x1000000 ≤ off ∧ off < 0x1100000)
    (ht : windowRead s ag ((off - 0x1000000) / 0x10000) (off % 0x10000) = t) : exec (.rcRegisterRead ag off) s = .next t := by
  rw [exec_rcRegisterRead, regRead_window h hoff, ht]

/-- A read at offset o of window w. -/
theorem read_windowAt (h : s.Serves ag) (hoff : off = 0x1000000 + 0x10000 * w + o) (hw : w < 16) (ho : o < 0x10000) (h4 : o % 4 = 0)
    (ht : windowRead s ag w o = t) : exec (.rcRegisterRead ag off) s = .next t := by
  have hwin : (off - 0x1000000) / 0x10000 = w := by omega
  have hreg : off % 0x10000 = o := by omega
  exact read_window h (by omega) (by rw [hwin, hreg, ht])

theorem read_depot (h : s.Serves ag) (hd : d < 32) (ho : o < 0x10000) (h4 : o % 4 = 0) (ht : depRead s ag d o = t) :
    exec (.rcRegisterRead ag (0x1100000 + 0x10000 * d + o)) s = .next t := by
  rw [exec_rcRegisterRead, regRead_depot h rfl hd ho h4, ht]

theorem write_window (h : s.Serves ag) (hoff : off % 4 = 0 ∧ 0x1000000 ≤ off ∧ off < 0x10C0000)
    (ht : windowWrite s ag ((off - 0x1000000) / 0x10000) (off % 0x10000) v = t) : exec (.registerWrite ag off v) s = .next t := by
  rw [exec_registerWrite, regWrite_window h hoff, ht]

/-- A write at offset o of window w. -/
theorem write_windowAt (h : s.Serves ag) (hoff : off = 0x1000000 + 0x10000 * w + o) (hw : w < 12) (ho : o < 0x10000) (h4 : o % 4 = 0)
    (ht : windowWrite s ag w o v = t) : exec (.registerWrite ag off v) s = .next t := by
  have hwin : (off - 0x1000000) / 0x10000 = w := by omega
  have hreg : off % 0x10000 = o := by omega
  exact write_window h (by omega) (by rw [hwin, hreg, ht])

theorem write_depot (h : s.Serves ag) (hoff : off = 0x1100000 + 0x10000 * d + o) (hd : d < 32) (ho : o < 0x10000) (h4 : o % 4 = 0)
    (ht : depWriteReg s ag d o v = t) : exec (.registerWrite ag off v) s = .next t := by
  rw [exec_registerWrite, regWrite_depot h hoff hd ho h4, ht]

/-- A write that the window of depot d ignores where aligned changes nothing. -/
theorem write_depot_ignored (h : s.Serves ag) (hd : d < 32) (ho : o < 0x10000) (ht : depWriteReg s ag d o v = s) :
    exec (.registerWrite ag (0x1100000 + 0x10000 * d + o) v) s = .next s := by
  by_cases h4 : o % 4 = 0
  · exact write_depot h rfl hd ho h4 ht
  · rw [exec_registerWrite, regWrite_unassigned (by omega)]

end

end Sys2Proof.Machine
end

section
/-! SUPPORT. What register reads return (O39): the interrupt words bit by bit, the computed words, and the windows of pins, lanes and depots. -/
namespace Sys2Proof.Machine

/-! ### Interrupt words (R443) -/

theorem bitAt_setBit {w : Nat} (v : BitVec w) (i k : Nat) (hk : k < w) : bitAt (setBit v i) k = (bitAt v k || decide (k = i)) := by
  rcases Nat.lt_trichotomy k i with h | rfl | h
  · simp [bitAt, setBit, hk, h, Nat.ne_of_lt h]
  · simp [bitAt, setBit, hk]
  · have hne : k - i ≠ 0 := by omega
    simp [bitAt, setBit, hk, Nat.ne_of_gt h, hne]

/-- A word made of one bit for every number below n. -/
theorem bitAt_foldl_setBit {w : Nat} (p : Nat → Bool) (n k : Nat) (hk : k < w) :
    bitAt ((List.range n).foldl (fun v i => if p i then setBit v i else v) 0#w) k = (decide (k < n) && p k) := by
  induction n with
  | zero => simp [bitAt]
  | succ n ih =>
    rw [List.range_succ, List.foldl_append, List.foldl_cons, List.foldl_nil]
    by_cases hkn : k = n
    · subst hkn
      by_cases hp : p k = true <;> simp [hp, ih, bitAt_setBit _ _ _ hk]
    · have hlt : k < n + 1 ↔ k < n := by omega
      by_cases hp : p n = true <;> simp [hp, ih, bitAt_setBit _ _ _ hk, hkn, hlt]

theorem bitAt_irqPend (s : State) {k : Nat} (hk : k < 64) :
    bitAt s.irqPend k = (s.lineHere k && (s.irqSource k || bitAt s.irq.test k)) := by
  have h := bitAt_foldl_setBit (fun i => s.lineHere i && (s.irqSource i || bitAt s.irq.test i)) 64 k hk
  rw [decide_eq_true hk, Bool.true_and] at h
  exact h

theorem bitAt_lo32 (v : W64) {k : Nat} (hk : k < 32) : bitAt (lo32 v) k = bitAt v k := by simp [bitAt, lo32, hk]
theorem bitAt_hi32 (v : W64) {k : Nat} (hk : k < 32) : bitAt (hi32 v) k = bitAt v (32 + k) := by simp [bitAt, hi32, hk]

/-- The lines of the letterboxes are in every build and follow the P2H doorbells. -/
theorem bitAt_irqPend_letterbox (s : State) {k : Nat} (hk : k < 16) : bitAt s.irqPend k = (bitAt s.irq.p2h k || bitAt s.irq.test k) := by
  have hk' : k < 64 := by omega
  simp [bitAt_irqPend s hk', State.lineHere, State.irqSource, hk]

theorem bitAt_irqOut_deadLetter (s : State) : bitAt s.irqOut 63 = ((s.irq.dl || bitAt s.irq.test 63) && !bitAt s.irq.mask 63) := by
  have hpend : bitAt s.irqPend 63 = (s.irq.dl || bitAt s.irq.test 63) := bitAt_irqPend s (by decide)
  rw [← hpend]
  simp [State.irqOut, bitAt]

/-! ### Computed words -/

theorem Pin.counts_eq (p : Pin) :
    p.counts = BitVec.ofNat 32 (p.disc.toNat * 2 ^ 24 + p.crowd.toNat * 2 ^ 16 + p.late.toNat * 2 ^ 8 + p.slip.toNat) := by
  apply BitVec.eq_of_toNat_eq
  have := p.disc.isLt; have := p.crowd.isLt; have := p.late.isLt; have := p.slip.isLt
  simp only [Pin.counts, BitVec.toNat_append, BitVec.toNat_ofNat]
  rw [← Nat.shiftLeft_add_eq_or_of_lt p.crowd.isLt, ← Nat.shiftLeft_add_eq_or_of_lt p.late.isLt, ← Nat.shiftLeft_add_eq_or_of_lt p.slip.isLt]
  simp only [Nat.shiftLeft_eq]
  omega

theorem b2n_mul (b : Bool) (n : Nat) : b2n b * n = if b then n else 0 := by cases b <;> simp [b2n]

theorem State.secStat_eq (s : State) : s.secStat = BitVec.ofNat 32 ((if s.sec.esc then 2048 else 0) + (if s.sec.dbgLock then 1024 else 0)
    + (if s.sec.chalPend then 512 else 0) + (if s.sec.ikeySet then 256 else 0) + (if s.sec.romlock then 4 else 0)
    + (if s.straps.lifecycle = 0 then 0 else if s.straps.lifecycle = 3 then 2 else 1)) := by
  simp only [State.secStat, State.lc, b2n_mul]

/-! ### Windows -/

section
variable {s : State} {ag : Agent} {d n o : Nat}

/-- PIN_CNT[n], an RC register of four counts. -/
theorem pinRead_cnt (hn : n < s.nPin) (hb : n < 768) :
    pinRead s (0x5000 + 4 * n) = ret (s.setPin n { s.pin n with disc := 0, crowd := 0, late := 0, slip := 0 }) (s.pin n).counts := by
  have hlo : 0x1000 ≤ 0x5000 + 4 * n := by omega
  have hin : (0x5000 + 4 * n) % 0x1000 < 0xC00 := by omega
  have hwin : (0x5000 + 4 * n) / 0x1000 = 5 := by omega
  have hpin : (0x5000 + 4 * n) % 0x1000 / 4 = n := by omega
  simp [pinRead, hlo, hin, hwin, hpin, perPinRead, Nat.not_le.2 hn]

/-- The first counter of lane n, an RC register. -/
theorem lanRead_cnt0 (hn : n < s.nLane) (hb : n < 8) (hp : bitAt s.pwr.lanePow n = true) :
    lanRead s (0x4040 + 0x400 * n) = ret (s.setLane n { s.lane n with cnt := (s.lane n).cnt.set 0 0 0 }) ((s.lane n).cnt.get 0 0) := by
  have hlo : 0x4000 ≤ 0x4040 + 0x400 * n := by omega
  have hin : 0x4040 + 0x400 * n < 0x6000 := by omega
  have hlane : (0x4040 + 0x400 * n - 0x4000) / 0x400 = n := by omega
  have hreg : (0x4040 + 0x400 * n) % 0x400 = 0x040 := by omega
  have hcnt : idxIn 0x040 0x040 4 12 = some 0 := by decide
  simp [lanRead, hlo, hin, hlane, hreg, laneRead, hp, hcnt, Nat.not_le.2 hn]

/-- The image key is written only (Table 15.10). -/
theorem secRead_imageKey (hn : n < 8) : secRead s ag (0x200 + 4 * n) = ret s 0 := by
  have haes : ¬ 0x300 ≤ 0x200 + 4 * n := by omega
  have hpast {base stride m : Nat} (hs : 0 < stride) (hb : base + stride * m ≤ 0x200) : idxIn (0x200 + 4 * n) base stride m = none :=
    idxIn_past (by omega) hs
  have hchal : idxIn (0x200 + 4 * n) 0x240 4 8 = none := idxIn_before (by omega)
  have hresp : idxIn (0x200 + 4 * n) 0x260 4 24 = none := idxIn_before (by omega)
  simp (disch := omega) [secRead, haes, hpast, hchal, hresp]

theorem depUp_here (hu : s.depUp d = true) : d < s.nDep := by
  simp only [State.depUp, Bool.and_eq_true, decide_eq_true_eq] at hu
  exact hu.1.1.1

theorem depRead_up (hu : s.depUp d = true) (ho : o ≠ 0x54) :
    depRead s ag d o = ret (s.setDep d ((s.dep d).clearRc o)) (depValue s d (s.dep d) true o) := by
  simp [depRead, Nat.not_le.2 (depUp_here hu), hu, ho]

theorem depRead_down (hd : d < s.nDep) (hu : s.depUp d = false) : depRead s ag d o = ret s (depValue s d {} false o) := by
  simp [depRead, Nat.not_le.2 hd, hu]

theorem depRead_absent (hd : s.nDep ≤ d) : depRead s ag d o = ret s 0 := if_pos hd

/-- DEP_STAT of a depot without power: its twin setting alone (R403). -/
theorem depValue_stat_reset : depValue s d {} false 0x04 = if s.twin d then 4 else 0 := by
  cases h : s.twin d <;> simp [depValue, h, b2n, DState.code]

/-- Writing back what depot d holds changes no depot. -/
theorem State.dep_setDep_self (s : State) (d f : Nat) : (s.setDep d (s.dep d)).dep f = s.dep f := by
  by_cases h : f = d
  · rw [h, State.dep_setDep_same]
  · exact State.dep_setDep_ne s _ h

end

end Sys2Proof.Machine

open Sys2Proof Sys2Proof.Machine

/-- Settles O39: each read is traced to the unit that answers it, whose register equation gives the value and the cleared field. -/
theorem registerReads : Obligations.RegisterReads := by
  unfold Obligations.RegisterReads
  intro s ag off d n hres hoff hhold hdbg D p l
  have h : s.Serves ag := ⟨hres, hoff, hhold, hdbg⟩
  refine ⟨?_, ?_, ?_, ?_, ?_, ?_, ?_, ?_, ?_, ?pinCounts, ?laneCount, ?depots, ?absent, ?unpowered, ?_, ?_, ?irqPend, ?irqOut, ?secStat, ?imageKey, ?unassigned⟩
  case pinCounts =>
    intro hn hb
    refine read_windowAt (w := 2) (o := 0x5000 + 4 * n) h (by omega) (by decide) (by omega) (by omega) ?_
    exact (pinRead_cnt hn hb).trans (by rw [Pin.counts_eq]; rfl)
  case laneCount =>
    intro hn hb hp
    have hr : exec (.rcRegisterRead ag (0x1044040 + 0x400 * n)) s = .next (ret (s.setLane n { l with cnt := l.cnt.set 0 0 0 }) (l.cnt.get 0 0)) :=
      read_windowAt (w := 4) (o := 0x4040 + 0x400 * n) h (by omega) (by decide) (by omega) (by omega) (lanRead_cnt0 hn hb hp)
    have hlane (x : Lane) : (ret (s.setLane n x) (l.cnt.get 0 0)).lane n = x := SMap.get_set_same ..
    refine ⟨_, hr, rfl, ?_, fun c hc => ?_, rfl⟩
    · rw [hlane]; exact SMap.get_set_same l.cnt 0 0 0
    · rw [hlane]; exact SMap.get_set_ne l.cnt 0 0 0 hc
  case depots =>
    intro hd hu
    have hr {o : Nat} {t : State} (ho : o < 0x10000 ∧ o % 4 = 0 ∧ o ≠ 0x54) (ht : ret (s.setDep d (D.clearRc o)) (depValue s d D true o) = t) :
        exec (.rcRegisterRead ag (0x1100000 + 0x10000 * d + o)) s = .next t :=
      read_depot h hd ho.1 ho.2.1 ((depRead_up hu ho.2.2).trans ht)
    exact ⟨hr (by decide) rfl, hr (by decide) rfl, _, hr (by decide) rfl, rfl, State.dep_setDep_self s d, rfl⟩
  case absent =>
    intro habs hd
    by_cases h4 : off % 4 = 0
    · exact read_depot h hd (Nat.mod_lt _ (by decide)) (by omega) (depRead_absent habs)
    · rw [exec_rcRegisterRead, regRead_unassigned (by omega)]; rfl
  case unpowered =>
    intro hin hd hu
    refine ⟨read_depot h hd (by decide) (by decide) ?_, read_depot h hd (by decide) (by decide) ?_, read_depot h hd (by decide) (by decide) ?_⟩
    · exact depRead_down hin hu
    · exact depRead_down hin hu
    · rw [depRead_down hin hu, depValue_stat_reset]; rfl
  case irqPend =>
    refine ⟨lo32 s.irqPend, read_window h (by decide) rfl, fun k hk => ?_⟩
    rw [bitAt_lo32 _ (by omega), bitAt_irqPend_letterbox s hk]
  case irqOut =>
    refine ⟨hi32 s.irqOut, read_window h (by decide) rfl, ?_⟩
    rw [bitAt_hi32 _ (by decide), bitAt_irqOut_deadLetter]
  case secStat => exact read_window h (by decide) (congrArg (ret s) s.secStat_eq)
  case imageKey =>
    intro i hi
    exact read_windowAt (w := 7) (o := 0x200 + 4 * i) h (by omega) (by decide) (by omega) (by omega) (secRead_imageKey hi)
  case unassigned =>
    intro hout
    rw [exec_rcRegisterRead, regRead_unassigned hout]; rfl
  -- What remains is a register at a fixed offset, read by its unit's own equation.
  all_goals exact read_window h (by decide) rfl
end

section
/-! SUPPORT. What register writes do (O40): the starvation threshold, the writers' rights, and the arrays of a depot window. -/
namespace Sys2Proof.Machine

/-! ### The starvation threshold (R178) -/

/-- The window counter of requester c exceeds the threshold; a threshold of 0 flags nobody. -/
def State.overThreshold (s : State) (c : Nat) : Bool := decide (s.srt.starveTh ≠ 0 ∧ s.srt.starveTh.toNat < s.srt.win.get c 0)

theorem flagStarved_eq (s : State) (c : Nat) : ∃ ev st, flagStarved s c = { s with srt := { s.srt with evt := ev, starve := st } } ∧
    ∀ k, k < 44 → bitAt st k = (bitAt s.srt.starve k || (c == k && s.overThreshold k)) := by
  unfold flagStarved
  split
  · next hover =>
    have hover : s.overThreshold c = true := decide_eq_true hover
    refine ⟨_, _, rfl, fun k hk => ?_⟩
    change bitAt (setBit s.srt.starve c) k = _
    rw [bitAt_setBit _ _ _ hk]
    by_cases hck : c = k
    · subst hck; simp [hover]
    · simp [hck, Ne.symm hck]
  · next hunder =>
    have hunder : s.overThreshold c = false := decide_eq_false hunder
    refine ⟨_, _, rfl, fun k hk => ?_⟩
    change bitAt s.srt.starve k = _
    by_cases hck : c = k
    · subst hck; simp [hunder]
    · simp [hck]

theorem foldl_flagStarved_eq (l : SMap Nat) (s : State) :
    ∃ ev st, l.foldl (fun s e => flagStarved s e.1) s = { s with srt := { s.srt with evt := ev, starve := st } } ∧
      ∀ k, k < 44 → bitAt st k = (bitAt s.srt.starve k || (l.any (fun e => e.1 == k) && s.overThreshold k)) := by
  induction l generalizing s with
  | nil => exact ⟨s.srt.evt, s.srt.starve, rfl, by simp⟩
  | cons e l ih =>
    obtain ⟨ev₁, st₁, heq₁, hbit₁⟩ := flagStarved_eq s e.1
    obtain ⟨ev, st, heq, hbit⟩ := ih (flagStarved s e.1)
    refine ⟨ev, st, by rw [List.foldl_cons, heq, heq₁], fun k hk => ?_⟩
    have hover : (flagStarved s e.1).overThreshold k = s.overThreshold k := by rw [heq₁]; rfl
    have hst : (flagStarved s e.1).srt.starve = st₁ := by rw [heq₁]
    rw [hbit k hk, hover, hst, hbit₁ k hk, List.any_cons, Bool.or_assoc, Bool.and_or_distrib_right]

theorem SMap.any_key_of_get_ne {α : Type} {m : SMap α} {k : Nat} {d : α} (h : SMap.get m k d ≠ d) : m.any (fun e => e.1 == k) = true := by
  induction m with
  | nil => exact absurd rfl h
  | cons e m ih =>
    obtain ⟨i, x⟩ := e
    by_cases hik : i = k
    · simp [hik]
    · rw [SMap.get, if_neg hik] at h
      simp [ih h]

/-- Every requester over the new threshold is flagged, and no other. -/
theorem writeStarveTh_eq (s : State) (t : Word) :
    ∃ ev st, writeStarveTh s t = { s with srt := { s.srt with starveTh := t, evt := ev, starve := st } } ∧
      ∀ k, k < 44 → bitAt st k = (bitAt s.srt.starve k || decide (t ≠ 0 ∧ t.toNat < s.srt.win.get k 0)) := by
  obtain ⟨ev, st, heq, hbit⟩ := foldl_flagStarved_eq s.srt.win { s with srt := { s.srt with starveTh := t } }
  refine ⟨ev, st, heq, fun k hk => ?_⟩
  rw [hbit k hk]
  change (_ || (_ && decide (t ≠ 0 ∧ t.toNat < s.srt.win.get k 0))) = _
  by_cases hover : t ≠ 0 ∧ t.toNat < s.srt.win.get k 0
  · rw [SMap.any_key_of_get_ne (show s.srt.win.get k 0 ≠ 0 by omega), Bool.true_and]
  · rw [decide_eq_false hover, Bool.and_false]

/-! ### Rights -/

section
variable {s : State} {ag : Agent} {d e o : Nat} {v : W32}

theorem pmOrHostS_iff : pmOrHostS ag = true ↔ ag = .pmA ∨ ag = .pmB ∨ ag = .hostS := by cases ag <;> simp [pmOrHostS]

theorem depWrite_of_pmOrHostS (hr : pmOrHostS ag = true) (hu : s.depUp d = true) : s.depWrite ag d = true := by
  rcases pmOrHostS_iff.1 hr with rfl | rfl | rfl <;> simp [State.depWrite, State.depWriter, hu]

/-- R403: a depot that does not answer takes no write. -/
theorem depWriteReg_down (hu : s.depUp d = false) : depWriteReg s ag d o v = s := by simp [depWriteReg, State.depWrite, hu]

/-- R380: the transfer registers are written by the Postmaster only. -/
theorem depWriteReg_transfer_barred (hpm : isPm ag = false) (hlo : 0x58 ≤ o) (hhi : o < 0x80) : depWriteReg s ag d o v = s := by
  simp [depWriteReg, hpm, hlo, hhi]

/-! ### Arrays of a depot window (Table 3.7) -/

theorem depWriteReg_chx (hw : s.depWrite ag d = true) (he : e < 16) :
    depWriteReg s ag d (0x80 + 4 * e) v = s.setDep d { s.dep d with chx := (s.dep d).chx.set e (v.setWidth 16) 0 } := by
  have hx : ¬ 0x80 + 4 * e < 0x80 := by omega
  have hi : idxIn (0x80 + 4 * e) 0x80 4 16 = some e := idxIn_at rfl he (by decide)
  simp (disch := omega) [depWriteReg, hw, hx, hi, ← BitVec.setWidth_eq_extractLsb']

theorem depWriteReg_tctl (hw : s.depWrite ag d = true) (he : e < 128) :
    depWriteReg s ag d (0x100 + 4 * e) v = tctlWrite s ag (tidOf d e) v := by
  have hx : ¬ 0x100 + 4 * e < 0x80 := by omega
  have hi : idxIn (0x100 + 4 * e) 0x100 4 128 = some e := idxIn_at rfl he (by decide)
  have h80 : idxIn (0x100 + 4 * e) 0x80 4 16 = none := idxIn_past (by omega) (by decide)
  simp (disch := omega) [depWriteReg, hw, hx, hi, h80]

theorem depWriteReg_prio (hw : s.depWrite ag d = true) (he : e < 128) :
    depWriteReg s ag d (0x700 + 4 * e) v = s.setDep d ((s.dep d).setThr e { (s.dep d).thr e with prio := v.setWidth 4 }) := by
  have hx : ¬ 0x700 + 4 * e < 0x80 := by omega
  have hi : idxIn (0x700 + 4 * e) 0x700 4 128 = some e := idxIn_at rfl he (by decide)
  have hpast {base n : Nat} (hb : base + 4 * n ≤ 0x700) : idxIn (0x700 + 4 * e) base 4 n = none := idxIn_past (by omega) (by decide)
  simp (disch := omega) [depWriteReg, hw, hx, hi, hpast, ← BitVec.setWidth_eq_extractLsb']

theorem depWriteReg_tmo (hw : s.depWrite ag d = true) (he : e < 128) :
    depWriteReg s ag d (0x900 + 4 * e) v = s.setDep d ((s.dep d).setThr e { (s.dep d).thr e with tmo := v }) := by
  have hx : ¬ 0x900 + 4 * e < 0x80 := by omega
  have hi : idxIn (0x900 + 4 * e) 0x900 4 128 = some e := idxIn_at rfl he (by decide)
  have hpast {base n : Nat} (hb : base + 4 * n ≤ 0x900) : idxIn (0x900 + 4 * e) base 4 n = none := idxIn_past (by omega) (by decide)
  simp (disch := omega) [depWriteReg, hw, hx, hi, hpast]

/-- R78: code 1 of a thread's control register is START. -/
theorem tctlWrite_start (hv : v.toNat / 2 ^ 28 = 1) (t : Tid) : tctlWrite s ag t v = outState s (execStart ag t (v.setWidth 16) s) := by
  have hfld : fld v 28 4 = v.toNat / 268435456 % 16 := congrArg (· % 16) (Nat.shiftRight_eq_div_pow v.toNat 28)
  have hcode : fld v 28 4 = 1 := by omega
  rw [tctlWrite, hcode, ← BitVec.setWidth_eq_extractLsb' (by decide)]
  rfl

theorem depWriteReg_control (hw : s.depWrite ag d = true) : depWriteReg s ag d 0x00 v = if bitAt v 0 then enableDepot s d else drainDepot s d := by
  simp [depWriteReg, hw]

/-! ### The image key (Table 15.10) -/

theorem secWrite_imageKey (he : e < 8) : secWrite s ag (0x200 + 4 * e) v = ikeyWrite s ag e v := by
  have haes : ¬ 0x300 ≤ 0x200 + 4 * e := by omega
  have hdom : ¬ 0x200 + 4 * e < 0x180 := by omega
  have hi : idxIn (0x200 + 4 * e) 0x200 4 8 = some e := idxIn_at rfl he (by decide)
  simp (disch := omega) [secWrite, haes, hdom, hi]

/-! ### Power commands (Table 15.9) -/

theorem pwrWrite_cmd (hr : pmOrHostS ag = true) : pwrWrite s ag 0x004 v = pwrCmd s ag (pwrTarget v) := by
  simp [pwrWrite, State.globalWriter, hr]

theorem pwrTarget_run (hv : v.toNat % 8 = 0) : pwrTarget v = .run := by
  have hcode : fld v 0 3 = 0 := hv
  rw [pwrTarget, hcode]; rfl

theorem pwrTarget_trim (hv : v.toNat % 8 = 1) : pwrTarget v = .trim := by
  have hcode : fld v 0 3 = 1 := hv
  rw [pwrTarget, hcode]; rfl

end

end Sys2Proof.Machine

open Sys2Proof Sys2Proof.Machine

/-- Settles O40: each write is traced to the unit that takes it, whose register equation under the writer's rights gives the effect. -/
theorem registerWrites : Obligations.RegisterWrites := by
  unfold Obligations.RegisterWrites
  intro s ag off d e v hres hoff hhold hdbg D wr at'
  have h : s.Serves ag := ⟨hres, hoff, hhold, fun hag => absurd hag hdbg⟩
  refine ⟨?hostNormal, ?rights, ?transfer, ?safeEnOther, ?safeEnSecure, ?_, ?_, ?_, ?_, ?_, ?_, ?_, ?_, ?_, ?_, ?_, ?_, ?_, ?_,
    ?imageKey, ?_, ?_, ?pwrRun, ?pwrTrim, ?depotControl, ?start, ?unassigned⟩
  case hostNormal =>
    rintro rfl
    refine ⟨?_, ?_, ?_, ?_, ?_, ?_, ?_, ?_, ?_, ?_⟩ <;> exact write_window h (by decide) rfl
  case rights =>
    intro hr
    have hk : s.pmkWriter ag = true := by simp [State.pmkWriter, hr, hres]
    refine ⟨?_, ?_, ?starve, ?_, ?_, ?_, ?_, ?_, ?_, ?_, ?_, ?_, ?_, ?_, ?_, ?_, ?pmkEvtEn, ?pmkAlarm, ?depotUp, ?depotDown⟩
    case starve =>
      obtain ⟨ev, st, heq, hbit⟩ := writeStarveTh_eq s (v.setWidth 16)
      have hw : wr 0x1000010 = .next (writeStarveTh s (v.setWidth 16)) := by
        refine write_window h (by decide) ?_
        rcases pmOrHostS_iff.1 hr with rfl | rfl | rfl <;> rfl
      refine ⟨_, hw.trans (congrArg _ heq), rfl, fun c hc => (hbit c hc).trans ?_⟩
      have hz : v.setWidth 16 ≠ 0 ↔ v.toNat % 65536 ≠ 0 := by simp [← BitVec.toNat_inj]
      simp only [hz, BitVec.toNat_setWidth, Nat.reducePow]
    case depotUp =>
      intro hd hu
      have hw : s.depWrite ag d = true := depWrite_of_pmOrHostS hr hu
      have hlit {o : Nat} {t : State} (ho : o < 0x10000 ∧ o % 4 = 0) (ht : depWriteReg s ag d o v = t) : wr (at' + o) = .next t :=
        write_depot h rfl hd ho.1 ho.2 ht
      refine ⟨hlit (by decide) ?_, hlit (by decide) ?_, hlit (by decide) ?_, hlit (by decide) ?_, fun he => ?_, fun he => ⟨?_, ?_⟩⟩
      · simp [depWriteReg, hw, D, ← BitVec.setWidth_eq_extractLsb']
      · simp [depWriteReg, hw, D, ← BitVec.setWidth_eq_extractLsb']
      · simp [depWriteReg, hw, D, ← BitVec.setWidth_eq_extractLsb']
      · simp [depWriteReg, hw, D]
      · exact write_depot h (Nat.add_assoc ..) hd (by omega) (by omega) (depWriteReg_chx hw he)
      · exact write_depot h (Nat.add_assoc ..) hd (by omega) (by omega) (depWriteReg_prio hw he)
      · exact write_depot h (Nat.add_assoc ..) hd (by omega) (by omega) (depWriteReg_tmo hw he)
    case depotDown => exact fun hd hu ho => write_depot_ignored h hd ho (depWriteReg_down hu)
    case pmkEvtEn => exact write_window h (by decide) (by simp [windowWrite, pmkWrite, hk, ← BitVec.setWidth_eq_extractLsb'])
    case pmkAlarm => exact write_window h (by decide) (by simp [windowWrite, pmkWrite, hk])
    -- Each remaining register is a field of its unit: its equation holds for each of the three writers.
    all_goals
      refine write_window h (by decide) ?_
      rcases pmOrHostS_iff.1 hr with rfl | rfl | rfl <;> rfl
  case transfer => exact fun hpm hd hlo hhi => write_depot_ignored h hd (by omega) (depWriteReg_transfer_barred hpm hlo hhi)
  case safeEnOther => exact fun hag => write_window h (by decide) (if_neg hag)
  case safeEnSecure => exact fun hag => write_window h (by decide) (if_pos hag)
  case imageKey =>
    intro he
    exact write_windowAt (w := 7) (o := 0x200 + 4 * e) h (by omega) (by decide) (by omega) (by omega) (secWrite_imageKey he)
  case pwrRun => exact fun hr hv => write_window h (by decide) ((pwrWrite_cmd hr).trans (congrArg _ (pwrTarget_run hv)))
  case pwrTrim => exact fun hr hv => write_window h (by decide) ((pwrWrite_cmd hr).trans (congrArg _ (pwrTarget_trim hv)))
  case depotControl =>
    intro hr hd hu
    have hw : s.depWrite ag d = true := depWrite_of_pmOrHostS hr hu
    refine (write_depot h rfl hd (by decide) (by decide) (depWriteReg_control hw)).trans ?_
    cases bitAt v 0
    · exact congrArg _ (if_pos hw).symm
    · exact congrArg _ (if_pos hw).symm
  case start =>
    intro he hd hu hr hv
    have hw : s.depWrite ag d = true := depWrite_of_pmOrHostS hr hu
    exact write_depot h (Nat.add_assoc ..) hd (by omega) (by omega) ((depWriteReg_tctl hw he).trans (tctlWrite_start hv _))
  case unassigned => exact fun hout => congrArg _ (regWrite_unassigned hout)
  -- What remains has a command of its own, which is the register's equation.
  all_goals exact write_window h (by decide) rfl
end

section
/-! SUPPORT. What an arbitration point of the sorter leaves unchanged (R169 to R181): everything but exchange memory, seals, the sorter, pins, interrupt and security events, and unit messages. -/
namespace Sys2Proof.Machine

/-- The state with everything blanked that an access at the sorter can change. -/
def State.outsideSorter (s : State) : State := { s with xch := {}, seals := {}, srt := {}, pins := {}, irq := {}, sec := {}, umsgs := [] }

/-! ### Exchange memory -/

theorem outside_xdbe (s : State) (pw : Nat) (src : BitVec 3) (id : BitVec 13) : (xdbe s pw src id).outsideSorter = s.outsideSorter := by
  dsimp only [xdbe]
  split <;> rfl

theorem outside_xcheck (s : State) (pw : Nat) (src : BitVec 3) (id : BitVec 13) : (xcheck s pw src id).1.outsideSorter = s.outsideSorter := by
  unfold xcheck
  split
  · rfl
  · rfl
  · exact outside_xdbe ..

theorem outside_xreadW (s : State) (w n : Nat) (src : BitVec 3) (id : BitVec 13) : (xreadW s w n src id).1.outsideSorter = s.outsideSorter := by
  unfold xreadW
  split
  · exact outside_xcheck ..
  · rfl

theorem outside_xwrite1 (s : State) (w : Nat) (v : Word) (src : BitVec 3) (id : BitVec 13) : (xwrite1 s w v src id).1.outsideSorter = s.outsideSorter := by
  unfold xwrite1
  split
  · split
    · exact outside_xdbe ..
    · rfl
    · rfl
  · rfl

theorem outside_xwrite2 (s : State) (w : Nat) (v0 v1 : Word) : (xwrite2 s w v0 v1).outsideSorter = s.outsideSorter := by
  unfold xwrite2
  split <;> rfl

theorem outside_xwriteList (s : State) (id : BitVec 13) (w : Nat) (ws : List Word) : (xwriteList s id w ws).outsideSorter = s.outsideSorter := by
  induction s, w, ws using xwriteList.induct (id := id) with
  | case1 s w => rw [xwriteList]
  | case2 s w a => rw [xwriteList]; exact outside_xwrite1 ..
  | case3 s w a b r hw ih => rw [xwriteList, if_pos hw]; exact ih.trans (outside_xwrite2 ..)
  | case4 s w a b r hw ih => rw [xwriteList, if_neg hw]; exact ih.trans (outside_xwrite1 ..)

theorem outside_violation (s : State) (k : BitVec 3) (id : BitVec 13) (a : W32) : (s.violation k id a).outsideSorter = s.outsideSorter := by
  dsimp only [State.violation]
  split <;> rfl

/-- A refused access changes the security events alone. -/
theorem outside_threadRefused {s s' : State} {t : Tid} {w : Nat} {k : BitVec 3} (h : threadRefused s t w k = some s') : s'.outsideSorter = s.outsideSorter := by
  unfold threadRefused at h
  split at h
  · simp at h
  · split at h
    · cases h; rfl
    · split at h
      · cases h; exact outside_violation ..
      · simp at h

/-! ### Seals -/

theorem outside_mirror (s : State) (w : Nat) (v : Word) : (mirror s w v).outsideSorter = s.outsideSorter := by
  unfold mirror
  split
  · exact outside_xwrite1 ..
  · rfl

theorem outside_grantSeal (s : State) (w : Nat) (a : BitVec 13) (orphan : Bool) : (grantSeal s w a orphan).1.outsideSorter = s.outsideSorter :=
  (outside_mirror ..).trans rfl

theorem outside_tellGrant (s : State) (x : SealWait) (v : Word) : (tellGrant s x v).outsideSorter = s.outsideSorter := by
  unfold tellGrant
  split <;> rfl

theorem outside_freshGrant (s : State) (w : Nat) (a : BitVec 13) : (freshGrant s w a).1.outsideSorter = s.outsideSorter := by
  have hread : (if s.bankOn w then xreadW s w 1 2 0 else (s, none)).1.outsideSorter = s.outsideSorter := by
    split
    · exact outside_xreadW ..
    · rfl
  dsimp only [freshGrant]
  split <;> exact (outside_grantSeal ..).trans hread

theorem outside_admitWaiter (s : State) : (admitWaiter s).outsideSorter = s.outsideSorter := by
  unfold admitWaiter
  split
  · rfl
  · split
    · rfl
    · exact (outside_tellGrant ..).trans (outside_freshGrant ..)

theorem outside_passSeal (s : State) (w : Nat) (orphan : Bool) (v : Word) : (passSeal s w orphan v).outsideSorter = s.outsideSorter := by
  unfold passSeal passWith
  split
  · exact (outside_tellGrant ..).trans (outside_grantSeal ..)
  · exact (outside_admitWaiter _).trans (outside_mirror ..)

theorem outside_acquire (s : State) (w : Nat) (a : BitVec 13) : (acquire s w a).1.outsideSorter = s.outsideSorter := by
  unfold acquire
  split
  · rfl
  · split
    · exact outside_xreadW s w 1 2 0
    · exact outside_freshGrant ..

theorem outside_release (s : State) (w : Nat) (a : BitVec 13) : (release s w a).1.outsideSorter = s.outsideSorter := by
  unfold release
  split
  · split
    · exact outside_passSeal ..
    · rfl
  · rfl

/-! ### Pin rings -/

theorem outside_ringKick (s : State) (k : Nat) : (ringKick s k).outsideSorter = s.outsideSorter := by
  dsimp only [ringKick]
  split <;> rfl

theorem outside_sendUnit (s : State) (u : Nat) (ch : W32) (ws : List Word) : (sendUnit s u ch ws).outsideSorter = s.outsideSorter := by
  unfold sendUnit
  split <;> rfl

theorem outside_ringRequest (s : State) (k n : Nat) : (ringRequest s k n).outsideSorter = s.outsideSorter := rfl

theorem outside_ringPoint (s : State) (k : Nat) : (ringPoint s k).outsideSorter = s.outsideSorter := by
  dsimp only [ringPoint]
  split
  · rfl
  · split
    · rfl
    · split
      · split
        · exact (outside_ringRequest ..).trans (outside_xwriteList ..)
        · refine ((outside_ringRequest ..).trans (outside_xwriteList ..)).trans ?_
          split
          · exact outside_xwriteList ..
          · rfl
      · split
        · exact (outside_ringRequest ..).trans (outside_xwriteList ..)
        · exact ((outside_ringKick ..).trans (outside_sendUnit ..)).trans (outside_xwrite2 ..)

/-! ### Requests and points -/

theorem outside_xbusResp (s : State) (r : SReq) : (xbusResp s r).outsideSorter = s.outsideSorter := rfl

theorem outside_doLoad (s : State) (r : SReq) (a n : Nat) (got : List Word) : (doLoad s r a n got).outsideSorter = s.outsideSorter := by
  dsimp only [doLoad]
  split
  · next h => exact (outside_xbusResp ..).trans (outside_threadRefused h)
  · generalize (if n = 2 ∧ a % 2 = 0 then 2 else 1) = k
    have hread := outside_xreadW s a k 0 (r.tid.setWidth 13)
    split
    · next h => rw [h] at hread; exact hread
    · next h =>
      rw [h] at hread
      split <;> exact hread

theorem outside_doStore (s : State) (r : SReq) (a : Nat) (ws : List Word) : (doStore s r a ws).outsideSorter = s.outsideSorter := by
  unfold doStore
  split
  · next h => exact (outside_xbusResp ..).trans (outside_threadRefused h)
  · split
    · next v0 v1 =>
      have hwrite := outside_xwrite1 s a v0 0 (r.tid.setWidth 13)
      split
      · exact outside_xwrite2 ..
      · split <;> (next h => rw [h] at hwrite; exact hwrite)
    · next v _ _ =>
      have hwrite := outside_xwrite1 s a v 0 (r.tid.setWidth 13)
      split <;> (next h => rw [h] at hwrite; exact hwrite)
    · rfl

theorem outside_doAcq (s : State) (r : SReq) (a : Nat) (try' : Bool) : (doAcq s r a try').outsideSorter = s.outsideSorter := by
  dsimp only [doAcq]
  split
  · next h => exact (outside_xbusResp ..).trans (outside_threadRefused h)
  · split
    · rfl
    · have hacq := outside_acquire s a (r.tid.setWidth 13)
      split
      · next h => rw [h] at hacq; exact hacq
      · next h => rw [h] at hacq; split <;> exact hacq
      · next h => rw [h] at hacq; split <;> exact hacq

theorem outside_doRel (s : State) (r : SReq) (a : Nat) : (doRel s r a).outsideSorter = s.outsideSorter := by
  unfold doRel
  split
  · next h => exact (outside_xbusResp ..).trans (outside_threadRefused h)
  · exact outside_release ..

theorem outside_perform (s : State) (r : SReq) : (perform s r).outsideSorter = s.outsideSorter := by
  unfold perform
  split
  · exact outside_doLoad ..
  · exact outside_doStore ..
  · exact outside_doAcq ..
  · exact outside_doRel ..
  · rfl
  · exact outside_ringPoint ..
  · rfl

theorem outside_refuseOff (tg n : Nat) (s : State) : (refuseOff tg n s).outsideSorter = s.outsideSorter := by
  induction n generalizing s with
  | zero => rfl
  | succ n ih =>
    rw [refuseOff]
    split
    · rfl
    · exact (ih _).trans (outside_perform ..)

theorem outside_flagStarved (s : State) (c : Nat) : (flagStarved s c).outsideSorter = s.outsideSorter := by
  unfold flagStarved
  split <;> rfl

theorem outside_winPoint (s : State) (tg : Nat) (g : SReq) : (winPoint s tg g).outsideSorter = s.outsideSorter := by
  dsimp only [winPoint]
  split
  · exact outside_flagStarved ..
  · rfl

theorem outside_passPoints (tg n : Nat) (s : State) (x : SReq) : (passPoints tg n s x).outsideSorter = s.outsideSorter := by
  induction n generalizing s x with
  | zero => rfl
  | succ n ih =>
    dsimp only [passPoints]
    split
    · exact outside_refuseOff ..
    · split
      · exact (outside_winPoint ..).trans (outside_refuseOff ..)
      · exact (ih ..).trans (((outside_perform ..).trans (outside_winPoint ..)).trans (outside_refuseOff ..))

/-- R14: an access that wins its point leaves everything outside the sorter's reach as it was. -/
theorem outside_atPoint (s : State) (c w : Nat) : (s.atPoint c w).outsideSorter = s.outsideSorter := by
  unfold State.atPoint
  split
  · rfl
  · exact outside_passPoints ..

theorem hrsp_atPoint (s : State) (c w : Nat) : (s.atPoint c w).hrsp = s.hrsp := by
  have h := congrArg State.hrsp (outside_atPoint s c w)
  exact h

theorem bankHere_atPoint (s : State) (c w x : Nat) : (s.atPoint c w).bankHere x = s.bankHere x := by
  have h := congrArg (State.bankHere · x) (outside_atPoint s c w)
  exact h

end Sys2Proof.Machine
end

section
/-! SUPPORT. What the host port answers to one request (R149, R150, R437 to R439): the refused ones, and the aligned 32-bit ones of exchange memory. -/
namespace Sys2Proof.Machine

/-! ### Responses (R439) -/

/-- With room for one more, the response joins those that stood before. -/
theorem respondHost_room {s t : State} (ht : t.hrsp = s.hrsp) (h : s.hrsp.length < 32) (r : HostRsp) :
    respondHost t r = { t with hrsp := s.hrsp ++ [r] } := by
  have hdrop : s.hrsp.length - 31 = 0 := by omega
  simp [respondHost, ht, hdrop]

/-! ### Malformed requests (R438) -/

/-- A burst of other than 64-bit beats, across a block of 64 bytes, or past the letterbox RAM. -/
theorem burstOk_bad {off size n : Nat} (hn : n ≠ 1) (h : size ≠ 3 ∨ 64 < off % 64 + 8 * n ∨ 0x810000 ≤ off) : burstOk off size n = false := by
  have hcross : 64 < off % 64 + 8 * n → decide (off % 64 + 8 * n ≤ 64) = false := fun h => decide_eq_false (Nat.not_le.2 h)
  rcases h with h | h | h
  · simp [burstOk, hn, h]
  · simp [burstOk, hn, hcross h]
  · have hx : ¬ off < 0x800000 := by omega
    have hl : ¬ off < 0x810000 := by omega
    have ht : busTarget off ≠ .xch ∧ busTarget off ≠ .lb := by
      simp only [busTarget, if_neg hx, if_neg hl]
      split <;> decide
    simp [burstOk, hn, ht]

theorem burstOk_one (off size : Nat) : burstOk off size 1 = true := rfl

theorem hostRead_badBurst {s : State} (hp : s.portUp = true) {off : BitVec 25} {size : BitVec 2} {n : BitVec 3} (hb : burstOk off.toNat size.toNat (n.toNat + 1) = false)
    (id : BitVec 6) (sec : Bool) : exec (.hostRead id sec off size n) s = .next (respondHost s { id := id, beats := List.replicate (n.toNat + 1) (0, true) }) := by
  change execHostRead id sec off size n s = _
  simp [execHostRead, hp, hb]

/-- R204: a refused write outside the window of group writes changes nothing. -/
theorem hostWrite_badBurst {s : State} (hp : s.portUp = true) {off : BitVec 25} {size : BitVec 2} {bs : List (W64 × BitVec 8)} (hlen : bs.length ≠ 0 ∧ bs.length ≤ 8)
    (hb : burstOk off.toNat size.toNat bs.length = false) (hg : ¬ (0x10C0000 ≤ off.toNat ∧ off.toNat < 0x1100000)) (id : BitVec 6) (sec : Bool) :
    exec (.hostWrite id sec off size bs) s = .next (respondHost s { id := id, beats := [(0, true)] }) := by
  have hmany : ¬ 8 < bs.length := Nat.not_lt.2 hlen.2
  change execHostWrite id sec off size bs s = _
  simp [execHostWrite, hp, hlen.1, hmany, hb, decide_eq_false hg]

/-! ### Single requests -/

section
variable {s : State} {id : BitVec 6} {sec : Bool} {off : BitVec 25} {size : BitVec 2} {v : W64}

theorem hostRead_one (hp : s.portUp = true) {t : State} {r : Option Nat} (hr : portRead s (hostAgent sec) off.toNat size.toNat = (t, r)) :
    exec (.hostRead id sec off size 0) s = .next (respondHost t { id := id, beats :=
      [match r with | some v => (BitVec.ofNat 64 (v * 2 ^ (8 * (off.toNat % 8))), false) | none => (0, true)] }) := by
  change execHostRead id sec off size 0 s = _
  cases r <;> simp [execHostRead, hp, burstOk_one, readBeats, hr]

/-- A write whose strobes are those that size and address select. -/
theorem hostWrite_one (hp : s.portUp = true) {t : State} {ok : Bool}
    (hw : portWrite s (hostAgent sec) off.toNat size.toNat (v.toNat / 2 ^ (8 * (off.toNat % 8)) % 2 ^ (8 * 2 ^ size.toNat)) = (t, ok)) :
    exec (.hostWrite id sec off size [(v, strobes off.toNat size.toNat)]) s = .next (respondHost t { id := id, beats := [(0, !ok)] }) := by
  change execHostWrite id sec off size _ s = _
  simp [execHostWrite, hp, burstOk_one, writeBeats, hw]

theorem hostWrite_badStrobes (hp : s.portUp = true) (hg : ¬ (0x10C0000 ≤ off.toNat ∧ off.toNat < 0x1100000)) {m : BitVec 8} (hm : m ≠ strobes off.toNat size.toNat) :
    exec (.hostWrite id sec off size [(v, m)]) s = .next (respondHost s { id := id, beats := [(0, true)] }) := by
  change execHostWrite id sec off size _ s = _
  simp [execHostWrite, hp, burstOk_one, hm, decide_eq_false hg]

end

/-! ### Registers (R438) -/

section
variable {s : State} {ag : Agent} {off size : Nat}

theorem busTarget_regs (hlo : 0x810000 ≤ off) (hd : ¬ (0x1400000 ≤ off ∧ off < 0x1500000)) : busTarget off = .regs := by
  have hx : ¬ off < 0x800000 := by omega
  rw [busTarget, if_neg hx, if_neg (Nat.not_lt.2 hlo), if_neg hd]

theorem portRead_regs_narrow (ht : busTarget off = .regs) (hs : size ≠ 2) : portRead s ag off size = (s, none) := by
  simp [portRead, ht, hs]

theorem portWrite_regs_narrow (ht : busTarget off = .regs) (hs : size ≠ 2) (hg : ¬ (0x10C0000 ≤ off ∧ off < 0x1100000)) (v : Nat) :
    portWrite s ag off size v = (s, false) := by
  simp only [portWrite, ht, if_neg hs, if_neg hg]

/-! ### Words of exchange memory (R149, R150) -/

theorem agentRefused_none {w : Nat} (h : s.MayAccess ag w) (k : BitVec 3) : agentRefused s ag w k = none := by
  obtain ⟨hhere, hon, hdbg, hsec⟩ := h
  have hlevel : ¬ (ag = .dbg ∧ s.dbg.level.toNat < 2) := fun h => Nat.not_lt.2 (hdbg h.1) h.2
  rw [agentRefused, if_neg hlevel]
  rcases hsec with hsec | hsec <;> simp [hhere, hon, hsec]

theorem portRead_word (hx : off < 0x800000) (h4 : off % 4 = 0) (hh : s.inHold = false) (hm : s.MayAccess ag (off / 2))
    (he : (s.atPoint (codeOf ag) (off / 2)).xch.err.get (off / 4) none = none) :
    portRead s ag off 2 = (s.atPoint (codeOf ag) (off / 2), some ((s.atPoint (codeOf ag) (off / 2)).xch.mem.num off 4)) := by
  have ht : busTarget off = .xch := if_pos hx
  have hhere : s.bankHere (off / 2) = true := hm.1
  simp [portRead, ht, h4, hh, xchRead, agentRefused_none hm, hhere, xcheckAll, xcheck, xerr, he]

theorem portWrite_word (hx : off < 0x800000) (h4 : off % 4 = 0) (hh : s.inHold = false) (hm : s.MayAccess ag (off / 2)) (v : Nat) :
    portWrite s ag off 2 v = (xwrite2 (s.atPoint (codeOf ag) (off / 2)) (off / 2) (BitVec.ofNat 16 v) (BitVec.ofNat 16 (v / 65536)), true) := by
  have ht : busTarget off = .xch := if_pos hx
  simp [portWrite, ht, h4, hh, xchWrite, agentRefused_none hm]

end

theorem Mem.read_write16 (m : Mem) (a b : Nat) (v : BitVec 16) :
    (m.write16 a v).read b = if b = a then v.extractLsb' 0 8 else if b = a + 1 then v.extractLsb' 8 8 else m.read b := by
  unfold Mem.write16
  by_cases h1 : b = a + 1
  · subst h1; simp
  · rw [Mem.read_write_ne _ _ h1]
    by_cases h0 : b = a
    · subst h0; simp
    · simp [Mem.read_write_ne _ _ h0, h0, h1]

/-- The four bytes of a pair-word written at byte a, low word first. -/
theorem read_xwrite2 {s : State} {a : Nat} (h4 : a % 4 = 0) (hb : s.bankHere (a / 2) = true) (v0 v1 : Word) (b : Nat) :
    (xwrite2 s (a / 2) v0 v1).xch.mem.read b =
      if b = a then v0.extractLsb' 0 8 else if b = a + 1 then v0.extractLsb' 8 8
      else if b = a + 2 then v1.extractLsb' 0 8 else if b = a + 3 then v1.extractLsb' 8 8 else s.xch.mem.read b := by
  have h0 : 2 * (a / 2) = a := by omega
  have h1 : 2 * (a / 2 + 1) = a + 2 := by omega
  rw [xwrite2, if_pos hb]
  simp only [State.xput, State.xclean, h0, h1, Mem.read_write16]
  grind

/-- Byte i of the word that lane lane of a 64-bit beat carries. -/
theorem lane_bytes (v : W64) (lane : Nat) :
    let x := v.toNat / 2 ^ lane % 2 ^ 32
    (BitVec.ofNat 16 x).extractLsb' 0 8 = v.extractLsb' lane 8 ∧ (BitVec.ofNat 16 x).extractLsb' 8 8 = v.extractLsb' (lane + 8) 8 ∧
    (BitVec.ofNat 16 (x / 65536)).extractLsb' 0 8 = v.extractLsb' (lane + 16) 8 ∧ (BitVec.ofNat 16 (x / 65536)).extractLsb' 8 8 = v.extractLsb' (lane + 24) 8 := by
  intro x
  have hx : x = v.toNat / 2 ^ lane % 4294967296 := rfl
  refine ⟨?_, ?_, ?_, ?_⟩ <;> apply BitVec.eq_of_toNat_eq <;>
    simp only [BitVec.extractLsb'_toNat, BitVec.toNat_ofNat, Nat.shiftRight_eq_div_pow, Nat.pow_add, ← Nat.div_div_eq_div_mul, Nat.reducePow, hx] <;> omega

/-- An aligned word that lane lane of a beat carries fills its four bytes, and no other. -/
theorem read_xwrite2_lane {s : State} {a : Nat} (h4 : a % 4 = 0) (hb : s.bankHere (a / 2) = true) (v : W64) (lane : Nat) :
    let x := v.toNat / 2 ^ lane % 2 ^ 32
    let t := xwrite2 s (a / 2) (BitVec.ofNat 16 x) (BitVec.ofNat 16 (x / 65536))
    (∀ i, i < 4 → t.xch.mem.read (a + i) = v.extractLsb' (lane + 8 * i) 8) ∧ ∀ b, b < a ∨ a + 4 ≤ b → t.xch.mem.read b = s.xch.mem.read b := by
  intro x t
  have hbytes := read_xwrite2 h4 hb (BitVec.ofNat 16 x) (BitVec.ofNat 16 (x / 65536))
  obtain ⟨h0, h1, h2, h3⟩ := lane_bytes v lane
  refine ⟨fun i hi => ?_, fun b hout => ?_⟩
  · rw [hbytes]
    obtain rfl | rfl | rfl | rfl : i = 0 ∨ i = 1 ∨ i = 2 ∨ i = 3 := by omega
    · simpa [x] using h0
    · simpa [x] using h1
    · simpa [x] using h2
    · simpa [x] using h3
  · rw [hbytes, if_neg (by omega), if_neg (by omega), if_neg (by omega), if_neg (by omega)]

theorem xwrite2_only (s : State) (w : Nat) (v0 v1 : Word) :
    xwrite2 s w v0 v1 = { s with xch := { s.xch with mem := (xwrite2 s w v0 v1).xch.mem, err := (xwrite2 s w v0 v1).xch.err } } := by
  unfold xwrite2
  split <;> rfl

end Sys2Proof.Machine

open Sys2Proof Sys2Proof.Machine

/-- Settles O20: an aligned word of exchange memory is one access of a pair-word on the state after its point, which leaves the port's responses alone;
the requests that R438 refuses never reach a target. -/
theorem hostPort : Obligations.HostPort := by
  unfold Obligations.HostPort
  intro s id sec off v n size hp hroom ag a answers lane p word
  have hcode : codeOf ag = if sec then 42 else 43 := by cases sec <;> rfl
  have hanswer {t : State} (ht : t.hrsp = s.hrsp) (bs : List (W64 × Bool)) : .next (respondHost t { id := id, beats := bs }) = answers t bs :=
    congrArg _ (respondHost_room ht hroom _)
  have hrsp : p.hrsp = s.hrsp := hrsp_atPoint ..
  refine ⟨?words, ?bursts, ?registers⟩
  case words =>
    intro hx h4 hh hm he
    have hpoint : s.atPoint (codeOf ag) (a / 2) = p := by rw [hcode]
    refine ⟨?write, ?read⟩
    case write =>
      have hhere : p.bankHere (a / 2) = true := (bankHere_atPoint ..).trans hm.1
      let x := v.toNat / 2 ^ lane % 2 ^ 32
      let s1 := xwrite2 p (a / 2) (BitVec.ofNat 16 x) (BitVec.ofNat 16 (x / 65536))
      have hs1 : s1 = { p with xch := { p.xch with mem := s1.xch.mem, err := s1.xch.err } } := xwrite2_only ..
      have hwrite : portWrite s ag a 2 x = (s1, true) := by rw [portWrite_word hx h4 hh hm, hpoint]
      obtain ⟨hword, hrest⟩ := read_xwrite2_lane h4 hhere v lane
      have hexec := hostWrite_one (id := id) (off := off) (size := 2) (sec := sec) hp hwrite
      exact ⟨s1, hexec.trans (hanswer ((congrArg State.hrsp hs1).trans hrsp) _), hs1, hword, hrest⟩
    case read =>
      have hread : portRead s ag a 2 = (p, some (p.xch.mem.num a 4)) := by
        rw [portRead_word hx h4 hh hm (by rw [hpoint]; exact he), hpoint]
      have hnum : p.xch.mem.num a 4 = word a + 256 * word (a + 1) + 65536 * word (a + 2) + 16777216 * word (a + 3) := by
        simp only [Mem.num, word, Nat.add_assoc, Nat.reduceAdd]
        omega
      rw [hnum] at hread
      exact (hostRead_one (off := off) (size := 2) (sec := sec) hp hread).trans (hanswer hrsp _)
  case bursts =>
    intro hn hbad
    have hlen : n.toNat + 1 ≠ 1 := by
      intro h
      exact hn (BitVec.eq_of_toNat_eq (by simpa using h))
    have hsize : size.toNat ≠ 3 ↔ size ≠ 3 := by simp [← BitVec.toNat_inj]
    have hburst : burstOk a size.toNat (n.toNat + 1) = false := burstOk_bad hlen (hbad.imp_left hsize.2)
    refine ⟨(hostRead_badBurst hp hburst id sec).trans (hanswer rfl _), fun hg bs hbs => ?_⟩
    exact (hostWrite_badBurst hp (by have := n.isLt; omega) (by rw [hbs]; exact hburst) hg id sec).trans (hanswer rfl _)
  case registers =>
    intro hlo hg hd hs
    have ht : busTarget a = .regs := busTarget_regs hlo hd
    have hsize : size.toNat ≠ 2 := fun h => hs (BitVec.eq_of_toNat_eq h)
    refine ⟨?_, fun m => ?_⟩
    · exact (hostRead_one hp (portRead_regs_narrow ht hsize)).trans (hanswer rfl _)
    · by_cases hm : m = strobes a size.toNat
      · rw [hm]
        exact (hostWrite_one hp (portWrite_regs_narrow ht hsize hg _)).trans (hanswer rfl _)
      · exact (hostWrite_badStrobes hp hg hm).trans (hanswer rfl _)
end

section
/-! SUPPORT. What the pin unit does at a handover's takeover, at an entry's crossing and at a TCLK edge (R193 to R197, R206 to R208). -/
namespace Sys2Proof.Machine

/-! ### Reads through the updates of the pin unit -/

/-- The state with the order of the entries still crossing replaced (R18). -/
def State.withCrossing (s : State) (l : List (Nat × Nat)) : State := { s with pins := { s.pins with xord := l } }

@[simp] theorem State.pin_withCrossing (s : State) (l : List (Nat × Nat)) (n : Nat) : (s.withCrossing l).pin n = s.pin n := rfl
@[simp] theorem State.pin_pinEvt (s : State) (b n : Nat) : (s.pinEvt b).pin n = s.pin n := rfl

theorem fld_eq_div_mod {w : Nat} (v : BitVec w) (lo n : Nat) : fld v lo n = v.toNat / 2 ^ lo % 2 ^ n :=
  congrArg (· % 2 ^ n) (Nat.shiftRight_eq_div_pow v.toNat lo)

theorem bitAt_pinEvt_self (s : State) {b : Nat} (hb : b < 8) : bitAt (s.pinEvt b).pins.evt b = true := by
  simp [State.pinEvt, bitAt_setBit _ _ _ hb]

/-- Only code 2 selects EDGE (Table 7.1). -/
theorem fnOf_ne_edge {f : Nat} (h : f ≠ 2) : fnOf f ≠ .edge := by
  unfold fnOf
  split <;> simp at h ⊢

/-! ### The head check (R208) -/

theorem headCheck_other {s : State} {n : Nat} (h : (s.pin n).fn ≠ .edge) : headCheck s n = s := by simp [headCheck, h]

theorem headCheck_edge {s : State} {n : Nat} (h : (s.pin n).fn = .edge) :
    headCheck s n = if (takeHeads s.clk.bt 5 (s.pin n)).2 then (s.setPin n (takeHeads s.clk.bt 5 (s.pin n)).1).pinEvt 2
      else s.setPin n (takeHeads s.clk.bt 5 (s.pin n)).1 := by
  simp [headCheck, h]

theorem takeHeads_nil (bt k : Nat) {p : Pin} (h : p.eq = []) : takeHeads bt k p = (p, false) := by
  cases k <;> simp [takeHeads, h]

/-- A head that is not late stays. -/
theorem takeHeads_onTime {bt k : Nat} {p : Pin} {t : W64} {v : Bool} {r : List (W64 × Bool)} (h : p.eq = (t, v) :: r) (ht : bt + 8 ≤ tau0 t) :
    takeHeads bt k p = (p, false) := by
  cases k <;> simp [takeHeads, h, Nat.not_lt.2 ht]

/-- The pin after a late head: counted, the rest r in its queue, and the edge driven at the next TCLK edge unless drop is set (R208). -/
def Pin.lateHead (p : Pin) (bt : Nat) (r : List (W64 × Bool)) (t : W64) (v : Bool) : Pin :=
  let q := { p with eq := r, late := satInc p.late, lateN := p.lateN + 1 }
  if q.drop then q else { q with emit := some (bt + 8, v), lastTau := some t }

theorem Pin.lateHead_fields (p : Pin) (bt : Nat) (r : List (W64 × Bool)) (t : W64) (v : Bool) :
    (p.lateHead bt r t v).eq = r ∧ (p.lateHead bt r t v).eqX = p.eqX ∧ (p.lateHead bt r t v).late = satInc p.late ∧ (p.lateHead bt r t v).drv = p.drv := by
  unfold Pin.lateHead
  dsimp only
  split <;> exact ⟨rfl, rfl, rfl, rfl⟩

theorem Pin.lateHead_emit (p : Pin) (bt : Nat) (r : List (W64 × Bool)) (t : W64) (v : Bool) :
    (p.lateHead bt r t v).emit = if bitAt p.func 22 then p.emit else some (bt + 8, v) := by
  unfold Pin.lateHead
  exact apply_ite Pin.emit ..

theorem takeHeads_late {bt k : Nat} {p : Pin} {t : W64} {v : Bool} {r : List (W64 × Bool)} (h : p.eq = (t, v) :: r) (ht : tau0 t < bt + 8) :
    takeHeads bt (k + 1) p = ((takeHeads bt k (p.lateHead bt r t v)).1, true) := by
  simp only [takeHeads, h, ht, if_true]
  rfl

theorem takeHeads_eqX (bt k : Nat) (p : Pin) : (takeHeads bt k p).1.eqX = p.eqX := by
  induction k generalizing p with
  | zero => rfl
  | succ k ih =>
    cases he : p.eq with
    | nil => rw [takeHeads_nil _ _ he]
    | cons e r =>
      by_cases ht : tau0 e.1 < bt + 8
      · obtain ⟨_, hx, _, _⟩ := Pin.lateHead_fields p bt r e.1 e.2
        rw [takeHeads_late he ht]
        exact (ih _).trans hx
      · rw [takeHeads_onTime he (Nat.not_lt.1 ht)]

theorem pin_headCheck_ne (s : State) {m n : Nat} (h : m ≠ n) : (headCheck s n).pin m = s.pin m := by
  by_cases he : (s.pin n).fn = .edge
  · rw [headCheck_edge he]
    split <;> simp [State.pin_setPin_ne s _ h]
  · rw [headCheck_other he]

theorem pin_headCheck_eqX (s : State) (n : Nat) : ((headCheck s n).pin n).eqX = (s.pin n).eqX := by
  by_cases he : (s.pin n).fn = .edge
  · rw [headCheck_edge he]
    split <;> simp [takeHeads_eqX]
  · rw [headCheck_other he]

/-! ### The takeover (R196, R197) -/

/-- A takeover ends the handover, puts the new function in effect, and drives the pad. -/
theorem takeover_fn_ho (p : Pin) (bt : Nat) (safe go ge : Bool) :
    (p.takeover bt safe go ge).fn = fnOf p.fsel ∧ (p.takeover bt safe go ge).ho = none := by
  cases safe
  · simp only [Pin.takeover, Bool.false_eq_true, if_false]
    split <;> exact ⟨rfl, rfl⟩
  · simp only [Pin.takeover, if_true]
    split <;> exact ⟨rfl, rfl⟩

/-- R196: a pin that goes to HOLD keeps its latch. -/
theorem takeover_hold {p : Pin} (h : p.fsel = 0) (bt : Nat) (go ge : Bool) :
    (p.takeover bt false go ge).drv = p.drv ∧ (p.takeover bt false go ge).oe = p.oe := by
  simp [Pin.takeover, h, fnOf]

/-- R196: a pin that goes to GPIO takes the bits of its group. -/
theorem takeover_gpio {p : Pin} (h : p.fsel = 1) (bt : Nat) (go ge : Bool) :
    (p.takeover bt false go ge).drv = go ∧ (p.takeover bt false go ge).oe = ge := by
  simp [Pin.takeover, h, fnOf, Pin.drive]

/-- R196: a pin that goes to an input function stops driving. -/
theorem takeover_input {p : Pin} (h : p.fsel = 4 ∨ p.fsel = 6 ∨ p.fsel = 7 ∨ p.fsel = 8) (bt : Nat) (go ge : Bool) :
    (p.takeover bt false go ge).oe = false := by
  rcases h with h | h | h | h <;> simp [Pin.takeover, h, fnOf, Pin.drive]

/-- R197: the safe state of the pin's safe field. -/
theorem takeover_safe (p : Pin) (bt : Nat) (go ge : Bool) :
    (p.safe = 0 → (p.takeover bt true go ge).drv = false ∧ (p.takeover bt true go ge).oe = true) ∧
    (p.safe = 1 → (p.takeover bt true go ge).drv = true ∧ (p.takeover bt true go ge).oe = true) ∧
    (p.safe = 2 → (p.takeover bt true go ge).oe = false) ∧
    (p.safe = 3 → (p.takeover bt true go ge).drv = p.drv ∧ (p.takeover bt true go ge).oe = p.oe) := by
  have hsafe : fld p.elec 8 2 = p.safe := rfl
  refine ⟨fun h => ?_, fun h => ?_, fun h => ?_, fun h => ?_⟩ <;>
    simp [Pin.takeover, Pin.safe, hsafe.trans h, Pin.drive]

/-- The takeover is due: the pin unit runs, the rotation has come, and the handover does not wait for ECLK. -/
theorem handoverTakeover_due {s : State} {n r : Nat} {safe : Bool} (hr : s.pinRuns = true) (ho : (s.pin n).ho = some (r, safe))
    (hheld : (s.pin n).hoHeld = false) (hrot : r ≤ s.pinRot) (hf : (s.pin n).fsel ≠ 2) :
    exec (.handoverTakeover n) s =
      .next (s.setPin n ((s.pin n).takeover s.clk.bt safe (bitAt (s.gout (n / 16)) (n % 16)) (bitAt (s.goe (n / 16)) (n % 16)))) := by
  have hfn : (fnOf (s.pin n).fsel) ≠ .edge := fnOf_ne_edge hf
  change execHandoverTakeover n s = _
  simp only [execHandoverTakeover, ho, hr, hrot, hheld, Bool.not_false, and_self, if_true]
  rw [headCheck_other (by rw [State.pin_setPin_same, (takeover_fn_ho ..).1]; exact hfn)]

theorem handoverTakeover_early {s : State} {n r : Nat} {safe : Bool} (ho : (s.pin n).ho = some (r, safe))
    (h : s.pinRot < r ∨ (s.pin n).hoHeld = true) : exec (.handoverTakeover n) s = .next s := by
  change execHandoverTakeover n s = _
  rcases h with h | h
  · simp [execHandoverTakeover, ho, Nat.not_le.2 h]
  · simp [execHandoverTakeover, ho, h]

theorem handoverTakeover_none {s : State} {n : Nat} (ho : (s.pin n).ho = none) : exec (.handoverTakeover n) s = .next s := by
  change execHandoverTakeover n s = _
  simp [execHandoverTakeover, ho]

/-! ### Entries that cross (R18, R206) -/

/-- The time of the last entry of a pin's queue, or of the last one that left it. -/
def Pin.lastTime (p : Pin) : Option W64 := match p.eq.getLast? with | some e => some e.1 | none => p.lastTau

/-- R206: an entry of time t lies within 24 BT of the one before it. -/
def Pin.crowds (p : Pin) (t : W64) : Bool := match p.lastTime with | some l => decide (t.toNat < l.toNat + 24) | none => false

theorem Pin.crowds_iff (p : Pin) (t : W64) : p.crowds t = true ↔ ∃ l, p.lastTime = some l ∧ t.toNat < l.toNat + 24 := by
  cases h : p.lastTime <;> simp [Pin.crowds, h]

/-- The pin whose oldest entry in the crossing, (t, v), has joined the end of its queue, with the rest r still crossing. -/
def Pin.joined (p : Pin) (r : List (W64 × Bool)) (t : W64) (v : Bool) : Pin := { p with eqX := r, eq := p.eq ++ [(t, v)] }

theorem joinEntry_nil {s : State} {n : Nat} (h : (s.pin n).eqX = []) : joinEntry s n = s := by simp [joinEntry, h]

section
variable {s : State} {n : Nat} {t : W64} {v : Bool} {rest : List (W64 × Bool)}

/-- R193, R206: the pin discards the entry, counts it as crowded, or queues it; an entry alone in the queue is its head. -/
theorem joinEntry_cons (hx : (s.pin n).eqX = (t, v) :: rest) :
    joinEntry s n =
      if (s.pin n).fsel ≠ 2 then s.setPin n { s.pin n with eqX := rest, disc := satAdd (s.pin n).disc 1 }
      else if (s.pin n).crowds t then s.setPin n { s.pin n with eqX := rest, crowd := satInc (s.pin n).crowd }
      else if (s.pin n).eq = [] then headCheck (s.setPin n ((s.pin n).joined rest t v)) n
      else s.setPin n ((s.pin n).joined rest t v) := by
  simp only [joinEntry, hx]
  rfl

end

theorem pin_joinEntry_ne (s : State) {m n : Nat} (h : m ≠ n) : (joinEntry s n).pin m = s.pin m := by
  cases hx : (s.pin n).eqX with
  | nil => rw [joinEntry_nil hx]
  | cons e r =>
    rw [joinEntry_cons hx]
    (repeat' split) <;> simp [pin_headCheck_ne _ h, State.pin_setPin_ne s _ h]

/-- The entry that joins leaves the crossing. -/
theorem pin_joinEntry_eqX (s : State) (n : Nat) : ((joinEntry s n).pin n).eqX = (s.pin n).eqX.tail := by
  cases hx : (s.pin n).eqX with
  | nil => rw [joinEntry_nil hx, hx]; rfl
  | cons e r =>
    rw [joinEntry_cons hx]
    (repeat' split) <;> simp [pin_headCheck_eqX, Pin.joined]

/-- R18: the entry of pin n, first of what its depot has sent, crosses alone. -/
theorem edgeEntry_first {s : State} {n d : Nat} {e : W64 × Bool} {rest : List (W64 × Bool)} {others : List (Nat × Nat)} (hr : s.pinRuns = true)
    (hx : (s.pin n).eqX = e :: rest) (ho : s.pins.xord = (d, n) :: others) :
    exec (.edgeEntry n) s = .next ((joinEntry s n).withCrossing others) := by
  change execEdgeEntry n s = _
  simp [execEdgeEntry, hx, hr, ho, crossUpTo, State.withCrossing]

/-- R18: an entry of the same depot on pin m that entered the crossing before that of pin n joins first. -/
theorem edgeEntry_second {s : State} {m n d : Nat} {e : W64 × Bool} {rest : List (W64 × Bool)} {others : List (Nat × Nat)} (hr : s.pinRuns = true)
    (hm : m ≠ n) (hx : (s.pin n).eqX = e :: rest) (ho : s.pins.xord = (d, m) :: (d, n) :: others) :
    exec (.edgeEntry n) s = .next ((joinEntry (joinEntry s m) n).withCrossing others) := by
  change execEdgeEntry n s = _
  simp [execEdgeEntry, hx, hr, ho, crossUpTo, hm, State.withCrossing]

theorem edgeEntry_none {s : State} {n : Nat} (hx : (s.pin n).eqX = []) : exec (.edgeEntry n) s = .next s := by
  change execEdgeEntry n s = _
  simp [execEdgeEntry, hx]

/-! ### A new head (R208) -/

section
variable {s : State} {n : Nat} {p : Pin} {t : W64} {v : Bool}

/-- A head that is alone and in time stays. -/
theorem headCheck_onTime (hf : p.fn = .edge) (he : p.eq = [(t, v)]) (ht : s.clk.bt + 8 ≤ tau0 t) :
    headCheck (s.setPin n p) n = (s.setPin n p).setPin n p := by
  rw [headCheck_edge (by rwa [State.pin_setPin_same])]
  simp [takeHeads_onTime he ht]

theorem headCheck_late (hf : p.fn = .edge) (he : p.eq = [(t, v)]) (ht : tau0 t < s.clk.bt + 8) :
    headCheck (s.setPin n p) n = ((s.setPin n p).setPin n (p.lateHead s.clk.bt [] t v)).pinEvt 2 := by
  have hh : takeHeads s.clk.bt 5 p = (p.lateHead s.clk.bt [] t v, true) := by
    rw [takeHeads_late he ht, takeHeads_nil _ _ (Pin.lateHead_fields ..).1]
  rw [headCheck_edge (by rwa [State.pin_setPin_same])]
  simp [hh]

end

/-! ### EDGE_APPLY (R207) -/

theorem edgeApply_due {s : State} {n : Nat} {t : W64} {v : Bool} {rest : List (W64 × Bool)} (hr : s.pinRuns = true)
    (he : (s.pin n).eq = (t, v) :: rest) (hf : (s.pin n).fn = .edge) (ht : tau0 t ≤ s.clk.bt) :
    exec (.edgeApply n) s = .next (s.setPin n { (s.pin n).drive s.clk.bt v true with eq := rest, lastTau := some t }) := by
  change execEdgeApply n s = _
  simp [execEdgeApply, he, hf, ht, hr]

theorem edgeApply_early {s : State} {n : Nat} {t : W64} {v : Bool} {rest : List (W64 × Bool)}
    (he : (s.pin n).eq = (t, v) :: rest) (ht : s.clk.bt < tau0 t) : exec (.edgeApply n) s = .next s := by
  change execEdgeApply n s = _
  simp [execEdgeApply, he, Nat.not_le.2 ht]

/-! ### A TCLK edge (R208) -/

/-- A read of a map whose values f has changed, with the default changed alike. -/
theorem SMap.get_map_values {α β : Type} (f : α → β) (m : SMap α) (k : Nat) (d : α) :
    SMap.get (m.map fun e => (e.1, f e.2)) k (f d) = f (SMap.get m k d) := by
  induction m with
  | nil => rfl
  | cons e m ih =>
    simp only [List.map_cons, SMap.get]
    split
    · rfl
    · exact ih

/-- What every step of a fold keeps, the fold keeps. -/
theorem foldl_keeps {σ α β : Type} {f : σ → α → σ} (g : σ → β) (h : ∀ s a, g (f s a) = g s) (l : List α) (s : σ) : g (l.foldl f s) = g s := by
  induction l generalizing s with
  | nil => rfl
  | cons a l ih => exact (ih _).trans (h s a)

theorem pins_stallTick (s : State) : (stallTick s).pins = s.pins := by
  dsimp only [stallTick]
  split
  · refine foldl_keeps State.pins ?_ _ _
    exact fun _ _ => rfl
  · refine foldl_keeps State.pins ?_ _ _
    exact fun _ _ => rfl

theorem Pin.strobe_emit (p : Pin) (rot : Nat) : (p.strobe rot).emit = p.emit := by
  unfold Pin.strobe
  split <;> rfl

theorem noteGrid_keeps {α : Type} (g : State → α) (h : ∀ s x, g { s with sheow := x } = g s) (s : State) : g (noteGrid s) = g s := by
  unfold noteGrid
  split
  · exact h s _
  · rfl

/-- A rotation boundary lets no late edge out. -/
theorem pin_boundary_emit (s : State) (rot n : Nat) : ((boundary s rot).pin n).emit = (s.pin n).emit := by
  unfold boundary
  split
  · rfl
  · refine (noteGrid_keeps (fun s => (s.pin n).emit) (fun _ _ => rfl) _).trans ?_
    refine (congrArg Pin.emit (SMap.get_map_values (fun p => p.strobe (captureRefs s).pinRot) s.pins.pins n {})).trans ?_
    exact Pin.strobe_emit ..

theorem boundary_bt (s : State) (rot : Nat) : (boundary s rot).clk.bt = s.clk.bt := by
  unfold boundary
  split
  · rfl
  · exact noteGrid_keeps (fun s => s.clk.bt) (fun _ _ => rfl) _

theorem boundary_pinRuns (s : State) (rot : Nat) : (boundary s rot).pinRuns = s.pinRuns := by
  unfold boundary
  split
  · rfl
  · exact noteGrid_keeps State.pinRuns (fun _ _ => rfl) _

theorem pin_letOut {s : State} (hr : s.pinRuns = true) (n : Nat) : (letOut s).pin n = (s.pin n).letOut s.clk.bt := by
  rw [letOut, if_pos hr]
  exact SMap.get_map_values (fun p => p.letOut s.clk.bt) s.pins.pins n {}

/-- The pin after the TCLK edge at which its late edge is due. -/
theorem pin_tick_emit {s : State} {n t : Nat} {v : Bool} (hr : s.pinRuns = true) (he : (s.pin n).emit = some (t, v)) (ht : t ≤ s.clk.bt + 8) :
    ∃ q : Pin, (tick s).pin n = { q.drive (s.clk.bt + 8) v true with emit := none } := by
  have hres : s.inReset = false := by
    simp only [State.pinRuns, Bool.and_eq_true, Bool.not_eq_true'] at hr
    exact hr.1.1
  let u : State := boundary { s with clk := s.clk.edge } s.rot
  have hu : (u.pin n).emit = some (t, v) := (pin_boundary_emit ..).trans he
  have hbt : u.clk.bt = s.clk.bt + 8 := boundary_bt ..
  have hrun : u.pinRuns = true := (boundary_pinRuns ..).trans hr
  refine ⟨u.pin n, ?_⟩
  calc (tick s).pin n = (letOut u).pin n := by
        rw [tick, if_neg (by rw [hres]; decide)]
        exact congrArg (fun x : PinUnit => x.pins.get n {}) (pins_stallTick _)
    _ = (u.pin n).letOut u.clk.bt := pin_letOut hrun n
    _ = _ := by rw [Pin.letOut, hu, hbt]; exact if_pos ht

end Sys2Proof.Machine

open Sys2Proof Sys2Proof.Machine

/-- Settles O25: each command is taken to what it does to the pin, by the equation of its case. -/
theorem pinEdges : Obligations.PinEdges := by
  unfold Obligations.PinEdges
  intro s n d tau v rest others hr p before crowded out
  have hcrowd : crowded ↔ p.crowds tau = true := (Pin.crowds_iff p tau).symm
  refine ⟨?takeover, ?safe, ?early, ?noHandover, ?entry, ?order, ?noEntry, ?emit, ?apply⟩
  case takeover =>
    intro r ho hheld hrot hf
    refine ⟨_, handoverTakeover_due hr ho hheld hrot hf, ?_⟩
    simp only [State.pin_setPin_same]
    exact ⟨(takeover_fn_ho ..).1, (takeover_fn_ho ..).2, fun h => takeover_hold h .., fun h => takeover_gpio h .., fun h => takeover_input h ..,
      fun m hm => State.pin_setPin_ne s _ hm⟩
  case safe =>
    intro r ho hheld hrot hf
    have hsafe : p.safe = p.elec.toNat / 256 % 4 := fld_eq_div_mod p.elec 8 2
    refine ⟨_, handoverTakeover_due hr ho hheld hrot (by rw [hf]; decide), ?_⟩
    simp only [State.pin_setPin_same]
    rw [← hsafe]
    exact ⟨(takeover_fn_ho ..).1.trans (congrArg fnOf hf), (takeover_fn_ho ..).2, takeover_safe ..⟩
  case early => exact fun r b ho h => handoverTakeover_early ho h
  case noHandover => exact handoverTakeover_none
  case entry =>
    intro hx hord
    have hexec : exec (.edgeEntry n) s = .next ((joinEntry s n).withCrossing others) := edgeEntry_first hr hx hord
    have hjoin := joinEntry_cons hx
    refine ⟨fun hf => ?_, fun hf hc => ?_, fun hf hc hq => ?_, fun hf hfn hc hq => ?_⟩
    · rw [hexec, hjoin, if_pos hf]; rfl
    · rw [hexec, hjoin, if_neg (fun h => h hf), if_pos (hcrowd.1 hc)]; rfl
    · rw [hexec, hjoin, if_neg (fun h => h hf), if_neg (fun h => hc (hcrowd.2 h)), if_neg hq]; rfl
    · rw [if_neg (fun h => h hf), if_neg (fun h => hc (hcrowd.2 h)), if_pos hq] at hjoin
      have hhead : (p.joined rest tau v).eq = [(tau, v)] := congrArg (· ++ [(tau, v)]) hq
      rw [hjoin] at hexec
      refine ⟨fun ht => ⟨_, hexec, ?_⟩, fun ht => ⟨_, hexec, ?_⟩⟩
      · rw [headCheck_onTime (p := p.joined rest tau v) hfn hhead ht, State.pin_withCrossing, State.pin_setPin_same]
        exact ⟨hhead, rfl, rfl⟩
      · obtain ⟨hempty, _, hlate, hdrv⟩ := Pin.lateHead_fields (p.joined rest tau v) s.clk.bt [] tau v
        have hemit := Pin.lateHead_emit (p.joined rest tau v) s.clk.bt [] tau v
        rw [headCheck_late (p := p.joined rest tau v) hfn hhead ht, State.pin_withCrossing, State.pin_pinEvt, State.pin_setPin_same]
        refine ⟨hempty, hlate, bitAt_pinEvt_self _ (by decide), hdrv, fun h => ?_, fun h => ?_⟩
        · exact hemit.trans (if_neg (Bool.not_eq_true _ ▸ h))
        · exact hemit.trans (if_pos h)
  case order =>
    intro m e r' hm hx hmx hord
    refine ⟨_, edgeEntry_second hr hm hx hord, ?_, ?_, rfl⟩
    · rw [State.pin_withCrossing, pin_joinEntry_ne _ hm, pin_joinEntry_eqX, hmx]; rfl
    · rw [State.pin_withCrossing, pin_joinEntry_eqX, pin_joinEntry_ne _ (Ne.symm hm), hx]; rfl
  case noEntry => exact edgeEntry_none
  case emit =>
    intro t hp he ht
    obtain ⟨q, hq⟩ := pin_tick_emit hr he ht
    refine ⟨tick s, by rw [step, hp], ?_⟩
    rw [hq]
    exact ⟨rfl, rfl, rfl⟩
  case apply =>
    intro hq hf
    refine ⟨fun ht => ⟨_, edgeApply_due hr hq hf ht, ?_⟩, fun ht => edgeApply_early hq ht⟩
    rw [State.pin_setPin_same]
    exact ⟨rfl, rfl, rfl, rfl, fun m hm => State.pin_setPin_ne s _ hm⟩
end

section
/-! SUPPORT. A zone-thread table that names a thread twice, for the refutation of O51: an ANG window tells that thread its boost twice. -/
namespace Sys2Proof.Machine

/-- A block on its grid, in which thread 0 is an ANG thread and a zone thread of zone 0, whose first ANG window is over. The zone-thread table names thread 0 twice. -/
def doubledThread : State := { State.reset with
  clk := { bt := 2400000000 }
  deps := [(0, { state := .run, en := true, threads := [(0, { Thread.reset 0 with state := .running })] })]
  sheow := {
    grid := some (0, 0)
    roles := [(0, some { service := 4, parcel := 0, base := 0, entry := 0 })]
    zones := [(0, { declared := true, params := [(7, 1)] })]
    zthreads := [(0, { zones := [0] }), (0, { zones := [0] })] } }

/-- The statement's bound variables that an ANG window does not read. -/
def unreadPacket : AudioPacket := { seq := 0, ts := 0, n := 0, slot := 0, tv := false }
def unreadStreamIn : StreamIn := { aaf := false, alarm := false, ring := 0, l24 := false, channels := 0, spp := 0, offset := 0, sid := 0, link := 0 }
def unreadStreamOut : StreamOut :=
  { aaf := false, lane := 0, queue := 0, prp := false, l24 := false, channels := 0, spp := 0, tmpl := 0, tmplLen := 0, txOff := 0, rtpOff := 0, sid := 0, zones := [] }

theorem gridStep_doubledThread : gridStep doubledThread = doubledThread := by decide +kernel

/-- The thread is told its boost once for each time the table names it. -/
theorem angWindow_doubledThread : ((angWindow doubledThread 0 0 0).zth 0).msgs.length = 2 := by decide +kernel

end Sys2Proof.Machine

open Sys2Proof Sys2Proof.Machine

/-- Refutes O51: the clause on ANG windows has every zone thread of the zone told its boost once, but a thread that the zone-thread table names twice is told twice,
and the statement does not ask for a table that names each thread once. -/
theorem not_zoneService : ¬ Obligations.ZoneService := by
  unfold Obligations.ZoneService
  intro h
  obtain ⟨_, _, _, _, _, _, hang, _⟩ :=
    h doubledThread 0 0 0 0 0 {} { owner := 0, orphan := false, expiry := none } 0 0 0 unreadPacket unreadStreamIn 0 unreadStreamOut 0 gridStep_doubledThread
  have hon : (doubledThread.zone 0).angOn = true ∧ (doubledThread.zone 0).declared = true ∧ (∃ r, doubledThread.role 0 = some r ∧ r.service = 4) ∧
      doubledThread.libRuns 0 = true ∧ (doubledThread.zone 0).angBt + 2400000000 ≤ doubledThread.clk.bt :=
    ⟨by decide +kernel, by decide +kernel, ⟨_, rfl, rfl⟩, by decide +kernel, by decide +kernel⟩
  obtain ⟨t, ht, _, _, hmsgs, _⟩ := hang hon (by decide +kernel) (by decide +kernel)
  have ht : t = angWindow doubledThread 0 0 0 := (Host.Outcome.next.inj ht).symm
  have hbefore : (doubledThread.zth 0).msgs = [] := by decide +kernel
  have hafter := congrArg List.length (hmsgs 0 (by decide +kernel))
  rw [ht, angWindow_doubledThread, hbefore] at hafter
  exact absurd hafter (by decide)
end
